-- ==== Sys2Proof/Word.lean ====
section
/-! DEFINITION. The word types of the CH9-K (spec/00_scope.md, "Numbers, units and byte order" and "Registers"). -/
namespace Sys2Proof

/-- One byte. -/
abbrev Byte := BitVec 8

/-- A 64-bit word: a register, a general register of a Terdan context, an intent payload word. -/
abbrev Word := BitVec 64

/-- The epoch value that stands for "none yet": the reset value of the epoch registers (R9: epochs have 63 bits). -/
def noEpoch : Nat := 0x7FFFFFFFFFFFFFFF

end Sys2Proof
end

