-- ==== Sys2Proof/Machine/Words.lean ====
section
/-! DEFINITION. Which 32-bit words are instructions (spec/05_terdan_base_instructions.md, R117, R119 and its function tables;
spec/06_terdan_stream_instructions.md, R137). -/
namespace Sys2Proof.Machine

/-- A form of an instruction word: the bits it fixes and their values. The fixed bits are the major opcode, the function code, and
the bits that must be zero. -/
structure WordForm where
  mask : BitVec 32
  bits : BitVec 32
  deriving DecidableEq, Repr

/-- The rd field. -/
def fieldRd : BitVec 32 := 0x03E00000#32
/-- The rs1 (rs, rb) field. -/
def fieldRs1 : BitVec 32 := 0x001F0000#32
/-- The rs2 field. -/
def fieldRs2 : BitVec 32 := 0x0000F800#32
/-- The bits of the rd field that must be zero where it names a handle register (R119). -/
def handleRd : BitVec 32 := 0x03000000#32
/-- The same for the rs1 field. -/
def handleRs1 : BitVec 32 := 0x00180000#32
/-- The same for the rs2 field position of the handle accesses. -/
def handleRs2 : BitVec 32 := 0x0000C000#32
/-- The ha and hb fields of format S. -/
def fieldHaS : BitVec 32 := 0x0000E000#32
def fieldHbS : BitVec 32 := 0x00001C00#32
/-- The ha field of format E. -/
def fieldHaE : BitVec 32 := 0x00000700#32

/-- A form with an opcode, a further selector of given bits, and bits that must be zero. -/
def wordForm (op sel : Nat) (selMask zero : BitVec 32) : WordForm :=
  { mask := 0xFC000000#32 ||| selMask ||| zero, bits := BitVec.ofNat 32 (op * 2 ^ 26 + sel) }

/-- Forms of format A: function codes with the same zero fields. -/
def formsA (op : Nat) (zero : BitVec 32) (funcs : List Nat) : List WordForm := funcs.map (fun f => wordForm op f 0x7FF#32 zero)
/-- Forms without a function code, for opcodes with the same zero fields (formats I and B). -/
def formsI (zero : BitVec 32) (ops : List Nat) : List WordForm := ops.map (fun op => wordForm op 0 0 zero)
/-- Forms of format L: the values of w. -/
def formsL (op : Nat) (ws : List Nat) : List WordForm := ws.map (fun w => wordForm op (w * 4096) 0xF000#32 0)
/-- Forms of format S. -/
def formsS (op : Nat) (zero : BitVec 32) (funcs : List Nat) : List WordForm := funcs.map (fun f => wordForm op f 0x3FF#32 zero)
/-- Forms of format E. -/
def formsE (op : Nat) (zero : BitVec 32) (funcs : List Nat) : List WordForm := funcs.map (fun f => wordForm op f 0xFF#32 zero)

/-- The forms of the base instructions. -/
def baseForms : List WordForm :=
  formsA 0x01 0 [0, 1, 2, 3, 4, 5, 8, 9, 0xA, 0xB, 0x10, 0x11, 0x18, 0x19, 0x1A, 0x1B]
    ++ formsA 0x01 fieldRs2 [0x20, 0x21, 0x22, 0x23] ++ formsA 0x02 0 [0, 1, 2, 4, 5, 6, 7]
    ++ formsA 0x03 fieldRs2 [1, 2] ++ formsA 0x03 (fieldRd ||| fieldRs1 ||| fieldRs2) [4, 8, 9, 0x10, 0x11]
    ++ formsA 0x04 0 [0, 1, 2] ++ formsA 0x05 (handleRd ||| handleRs1 ||| fieldRs2) [0]
    ++ formsA 0x05 (handleRs1 ||| fieldRs2) [2] ++ formsA 0x05 handleRs2 [0x10, 0x11, 0x12, 0x13, 0x18, 0x19, 0x1A, 0x1B]
    ++ formsI 0 [0x06, 0x08, 0x09, 0x0A, 0x0B, 0x0C, 0x0D, 0x10] ++ formsI 0xFF00#32 [0x0E] ++ formsI fieldRs1 [0x0F, 0x11]
    ++ formsL 0x18 [0, 1, 2, 3, 4, 5, 6] ++ formsL 0x19 [0, 2, 4, 6] ++ formsI 0 [0x20, 0x21, 0x22, 0x23, 0x24, 0x25, 0x26]

/-- The forms of the stream, accelerator and epoch instructions (R137). -/
def streamForms : List WordForm :=
  formsS 0x30 fieldHbS [0] ++ formsS 0x30 (fieldRs1 ||| fieldHbS) [1] ++ formsS 0x31 0 [0]
    ++ formsS 0x32 0 [0] ++ formsS 0x32 fieldHaS [1] ++ formsS 0x32 fieldHbS [2] ++ formsS 0x33 0 [0, 1]
    ++ formsS 0x34 0 [0, 1] ++ formsS 0x34 fieldHaS [2] ++ formsS 0x34 fieldHbS [3] ++ formsS 0x35 0 [0, 1]
    ++ formsS 0x36 0 [0, 2] ++ formsS 0x36 fieldHaS [1, 3] ++ formsS 0x37 fieldHaS [0] ++ formsS 0x37 fieldHbS [1]
    ++ formsE 0x38 fieldRs2 [0] ++ formsE 0x39 0 [0] ++ formsE 0x39 fieldHaE [1] ++ formsE 0x3A (fieldRs2 ||| fieldHaE) [0]
    ++ formsE 0x3B (fieldRs1 ||| fieldRs2 ||| fieldHaE) [0, 1, 2] ++ formsE 0x3B (fieldRs2 ||| fieldHaE) [0x10, 0x11]
    ++ formsE 0x3C fieldRd [0]

/-- A word is an instruction: some form fixes its bits. -/
def wordDefined (w : BitVec 32) : Bool := (baseForms ++ streamForms).any (fun f => w &&& f.mask = f.bits)

end Sys2Proof.Machine
end

