-- ==== Sys2Proof/Syntax.lean ====
section
/-! DEFINITION. The commands of the CH9-K (spec/00_scope.md and the chapters): one constructor of `Instr` for each row of
spec/opcode_table.json with the row's operands, after the types those operands have. -/
namespace Sys2Proof

/-! ### Operand types common to several families -/

/-- The privilege levels of spec/00_scope.md, from least to most privileged: recipes, the OEM's system software, vendor
firmware. -/
inductive Level
  | c | s | v
  deriving DecidableEq, Repr

/-- The rank of a level: a higher rank is more privileged. -/
def Level.rank : Level → Nat
  | .c => 0 | .s => 1 | .v => 2

/-- A level reaches what is marked with another level (R7). -/
def Level.reaches (a b : Level) : Bool := b.rank ≤ a.rank

/-- Who makes a register or memory access: a control core, a context of an engine, or the service port (R8, R511). -/
inductive Origin
  | core (n : Fin 32)
  | engine (cluster : Fin 24) (engine : Fin 9) (ctx : Fin 8)
  | service
  deriving DecidableEq, Repr

/-- A Terdan context: a control core, or context `ctx` of engine `engine` of cluster `cluster` (R86, R87). -/
inductive Ctx
  | core (n : Fin 32)
  | stream (cluster : Fin 24) (engine : Fin 9) (ctx : Fin 8)
  deriving DecidableEq, Repr

/-- A 64-byte record, byte k in bits [8k+7:8k] (R2, R51). -/
abbrev Rec64 := BitVec 512

/-- A 32-byte value: a digest, byte k in bits [8k+7:8k]. -/
abbrev Dig := BitVec 256

/-- The unit kinds of the life-cycle table (R480). -/
inductive UnitId
  | frontPort (n : Fin 8)
  | controller (c : Fin 4096)
  | modulePort (p : Fin 32)
  | laneGroup (g : Fin 6)
  | cluster (n : Fin 24)
  | accelerator (cluster : Fin 24) (a : Fin 12)
  | veilCache (n : Fin 28)
  deriving DecidableEq, Repr

/-- A reference clock pair (R24): false is pair A, true is pair B. -/
abbrev ClockPair := Bool

/-- How a register access is made: by whom, at which level, and its size in bytes (R3, R8). -/
structure Access where
  origin : Origin
  level : Level
  size : Fin 9
  deriving DecidableEq, Repr

/-- What the error-correcting code of a storage line reports at an access (R437, R439, R451). -/
inductive Soft
  | clean
  | corrected (device : Fin 10)
  | uncorrectable
  deriving DecidableEq, Repr

/-- What a core meets as it fetches a word: nothing, an uncorrectable error of the memory the word lies in, or an internal check
(R100, R120). -/
inductive FetchCheck
  | clean | memory | internal
  deriving DecidableEq, Repr

/-- A word at the PC of a context, and what its fetch meets (R117, R120). -/
structure Fetched where
  ctx : Ctx
  word : BitVec 32
  met : FetchCheck
  deriving DecidableEq, Repr

/-- A request of the service port outside the register blocks (R511): the bytes of a write carry their byte enables. -/
inductive SvcRequest
  | read (addr : BitVec 48) (n : BitVec 16)
  | write (addr : BitVec 48) (data : List (Option Byte))
  deriving DecidableEq, Repr

/-! ### Meridian (spec/02_meridian_epochs.md) -/

/-- What a PTP message is to the controller (R26): the messages of a slave-only ordinary clock with the delay
request-response mechanism, a Sync with or without a Follow_Up to come, and those it does not support. -/
inductive PtpKind
  | announce | sync (twoStep : Bool) | followUp | delayResp | peerDelay | unicastNegotiation
  deriving DecidableEq, Repr

/-- A PTP message as it reaches the front ports: where it came, its domain and encapsulation, its sequence number, and its
timestamp with its correction, in ns of TAI: when the master sent the Sync, or received the Delay_Req. -/
structure PtpMsg where
  port : Fin 8
  sub : Fin 4
  domain : BitVec 8
  encap : Fin 3
  kind : PtpKind
  seq : BitVec 16
  stamp : BitVec 64
  deriving DecidableEq, Repr

/-! ### Loadable objects (R114) -/

/-- Where the loader places an object: a cluster, or a window of memory that the loading firmware names. -/
inductive LoadTarget
  | cluster (n : Fin 24)
  | window (base : BitVec 48) (size : BitVec 48)
  deriving DecidableEq, Repr

/-! ### Fogbank (spec/09_fogbank_flash.md) -/

/-- What a band is chosen for (R232, R234, R276): collection, fold, or to clear the range a reshape moves over. -/
inductive VictimKind
  | collect | fold | reshape
  deriving DecidableEq, Repr

/-! ### The raw flash protocol (R311, R315) -/

/-- An operation entry of the raw flash function (R311), field by field; `rest` holds the bytes R311 reserves. -/
structure ModOp where
  opc : BitVec 8
  flags : BitVec 8
  pblk : BitVec 32
  slot : BitVec 16
  level : BitVec 8
  subop : BitVec 8
  offset : BitVec 32
  len : BitVec 32
  rest : BitVec 80
  dptr : Word
  mptr : Word
  gen : Word
  exph : BitVec 8
  newh : BitVec 8
  hbval : Word
  deriving DecidableEq, Repr

/-- A completion as the controller receives it (R315): the fields of the ring entry, and the bytes the module wrote to DPTR
and MPTR by DMA before it. -/
structure ModCpl where
  cid : BitVec 16
  status : BitVec 16
  corrmax : BitVec 8
  level : BitVec 8
  bytes : BitVec 32
  data : List Byte
  sealRec : Rec64
  deriving DecidableEq, Repr

/-- A module's geometry page without its constants (R323): serial, blocks, strips in a block in each mode, and its rates. -/
structure ModPart where
  serial : BitVec 128
  nblk : BitVec 32
  spbf : BitVec 16
  spb1 : BitVec 16
  progfd : BitVec 32
  prog1 : BitVec 32
  readmb : BitVec 32
  holdms : BitVec 32
  deriving DecidableEq, Repr

/-- What a trained link shows of the function behind it (R305, R306): the SPEED code, one lane, the class code, the geometry, and
what the module reports of its newest record and its lease (R323, R324, R326). -/
structure LinkTrained where
  speed : Fin 7
  x1 : Bool
  classCode : BitVec 24
  ids : BitVec 32
  part : ModPart
  pool : Word
  posn : BitVec 8
  recordGen : Word
  leaseGen : Word
  holder : Fin 4
  failed : Bool
  deriving DecidableEq, Repr

/-! ### The front complex (spec/13_host_front.md) -/

/-- A capsule as a host's SEND brings it: its queue pair and the port it came on, its PSN, the ECN-CE mark, the 64-byte
submission entry and the in-capsule bytes after it (R334, R338). -/
structure Capsule where
  port : Fin 8
  qp : Fin 32768
  psn : BitVec 24
  ce : Bool
  sqe : BitVec 512
  data : List Byte
  deriving DecidableEq, Repr

/-- A host command at its two instants: its capsule arrives (R340), and its base-library entry handles it on the context it
was dispatched to (R186); `bad` names the strip positions whose inner code fails in its reads, or whose completion has a wrong length
(R163, R190). -/
inductive HostCmd
  | arrive (c : Capsule)
  | handle (cluster : Fin 24) (engine : Fin 9) (ctx : Fin 8) (bad : BitVec 32)
  deriving DecidableEq, Repr

/-- A NAK from a host (R336): one that asks for retransmission from a PSN, or a fatal one. -/
inductive HostNak
  | sequence
  | fatal
  deriving DecidableEq, Repr

/-- A frame the hardware neither answers nor passes on (R330, R333). -/
inductive FrameKind
  | pause
  | other
  deriving DecidableEq, Repr

/-! ### Messages between the heads (R57, R384, R395, R401) -/

/-- The control messages of connections 0 and 1. Each stands for the 64-byte payload of R384 or R401 with the fields
named there; INTENTS carries 1 to 64 records. -/
inductive TwinMsg
  | sealMsg (e : Nat) (n : Nat) (commands : Nat) (crc : BitVec 32) (asvMax : Nat) (ea : Nat) (d : Dig)
  | sealAck (e : Nat)
  | sealNak (e : Nat)
  | commitNote (e : Nat)
  | rerun (ea : Nat) (agrees : Bool)
  | bandNote (band : Nat) (pblk : Nat) (entry : Word) (pos : Nat) (epoch : Nat)
  | stripeDone (stripe : Nat) (last : Nat)
  | bandGive (bands : List Nat)
  | floor (e : Nat)
  | modNote (pos : Nat) (state : Nat) (posn : Nat) (pool : Word) (serial : BitVec 128) (epoch : Nat)
  | holeNote (band : Nat) (entry : BitVec 128) (epoch : Nat)
  | lostNote (stripe : Nat) (mask : BitVec 32) (epoch : Nat)
  | event (code : Nat) (side : Nat) (conn : Nat) (epoch : Nat) (p0 p1 p2 : Nat)
  | intents (recs : List Rec64)
  | descriptor (stamp cseq nsid ctrl cid opc cset len : Nat)
  | hello (headId role log jsize asvMax asvCur : Nat) (pool : Word) (last applied : Nat) (d : Dig)
  | joinOffer (cut root last : Nat)
  | joinReady (a : Nat) (d : Dig)
  | joinAt (e : Nat) (join : Bool)
  | leave (l : Nat)
  | clock (e0 t0 : Nat) (origin : Word) (cur next at_ : Nat)
  | formed (p : Nat)
  deriving DecidableEq, Repr

/-- A heartbeat payload (R381). -/
structure Heartbeat where
  tick : Nat
  seq : Nat
  echo : Nat
  hold : Nat
  src : Fin 8
  epvalid : Bool
  dumpready : Bool
  fenced : Bool
  headId : Bool
  active : BitVec 6
  grants : Vector (BitVec 32) 4
  last : Nat
  sealed : Nat
  deriving DecidableEq, Repr

/-- The CHRT opcodes of R368 that carry a message or an answer. -/
inductive ChrtOpc
  | send | write | readReq | readResp
  deriving DecidableEq, Repr

/-- A received CHRT packet of a message, with what the receiver finds of it: the outcome of the FCS or checksum, version
and tag checks (R370), its header fields (R367, R368) and the payload bytes the frame holds. -/
structure ChrtPkt where
  conn : Fin 1024
  frameOk : Bool
  verOk : Bool
  tagOk : Bool
  first : Bool
  last : Bool
  ackReq : Bool
  vc : Fin 4
  mtype : BitVec 8
  psn : BitVec 32
  plen : BitVec 16
  mlen : BitVec 32
  raddr : Word
  rkey : BitVec 32
  ce : Bool
  payload : List Byte
  deriving DecidableEq, Repr

/-! ### Umbra and link keys (spec/17_umbra_security.md) -/

/-- A link-key nonce frame (R470). -/
structure LinkKeyFrame where
  magic : BitVec 32
  ver : BitVec 8
  headId : BitVec 8
  zeros : Bool
  nonce : BitVec 256
  check : Word
  deriving DecidableEq, Repr

/-! ### Platform (spec/18_platform.md) -/

/-- The board straps and pins latched on the deassertion of reset (R483, R527). -/
structure Straps where
  headId : Bool
  recov : Bool
  svcEn : Bool
  deriving DecidableEq, Repr

/-- What the start-up tests of step 1 of R485 find: the key slots that failed their self-test, whether the random source
passed, the boot flash devices that answer, and the engines that failed their self-check (R102, R458, R460, R487); and, for each
device, the mask of revoked Dorbeyr keys of a patch and policy block that passes, none where the block fails (R490). -/
structure StartTests where
  failedSlots : List (Fin 65536)
  rngOk : Bool
  flash0 : Bool
  flash1 : Bool
  failedEngines : List (Fin 24 × Fin 9)
  patch0 : Option (BitVec 4)
  patch1 : Option (BitVec 4)
  deriving DecidableEq, Repr

/-- The image component of a slot that the start loads: a position in the flash or in Billow (R485). -/
inductive BootSource
  | slotA | slotB | billow
  deriving DecidableEq, Repr

/-! ### The commands -/

/-- A command: an access to a register, an operation of the block, or an event at it. -/
inductive Instr
  /-- A register store, from a core or the service port, to a register that has no row of its own, with the level, width, alignment and range checks. (R8) -/
  | registerWrite (a : Access) (addr : BitVec 48) (v : Word)
  /-- A read of a register holding an RC field returns the value and clears it to zero as one action. (R5) -/
  | rcFieldRead (a : Access) (addr : BitVec 48)
  /-- A service-port request to Billow SRAM or the Afterglow window is served at level S with any length or alignment. (R511) -/
  | servicePortRequest (r : SvcRequest)
  /-- A write of a unit's EN moves it through the life-cycle machine or sets or clears REARM. (R480) -/
  | unitEnWrite (a : Access) (unit : UnitId) (v : Word)
  /-- A unit's start steps complete and it goes from STARTING to ON. (R480) -/
  | unitStartComplete (unit : UnitId)
  /-- A unit's stop steps complete and it goes to OFF, or to STARTING if REARM is set. (R480) -/
  | unitStopComplete (unit : UnitId)
  /-- A generated tick advances the tick counter by exactly one in every source state. (R27) -/
  | tick (hot : BitVec 12)
  /-- The first tick of an epoch advances the epoch number and starts the work the schedule places there. (R28) -/
  | epochBoundary (hot : BitVec 12)
  /-- A complete time-of-day message on MER_TOD is checked for validity and consistency and used, held or discarded. (R24) -/
  | todMessage (bytes : List Byte) (afterPulse : Bool)
  /-- A frame pulse sampled on a clock pair is judged for qualification, disqualification, alignment or acquisition. (R35) -/
  | framePulse (pair : ClockPair)
  /-- Four consecutive ticks without a clock edge disqualify a clock pair and set LOSSA or LOSSB. (R36) -/
  | refClockLoss (pair : ClockPair)
  /-- A 25,000-tick frequency window ends and the clock is judged within or outside ±20 ppm. (R35) -/
  | frequencyWindowEnd (source : Fin 3) (inRange : Bool)
  /-- A PTP message on the chosen front port disciplines frequency and phase as a slave-only ordinary clock. (R26) -/
  | ptpMessage (m : PtpMsg)
  /-- Three announce intervals without the master disqualify PTP and set LOSSP. (R36) -/
  | ptpMasterLoss
  /-- On the tick after a disqualification the first qualified source in priority order is selected, or HOLDOVER entered. (R37) -/
  | refSelect
  /-- MER_HOLD reaching MER_HOLDMAX sets HOLDEXP and moves the head to TWIN or FREERUN. (R39) -/
  | holdoverLimit
  /-- A V write of MER_SEED seeds the counters in FREERUN, or is ignored with CFGERR once a source or twin has been heard. (R43) -/
  | merSeedWrite (a : Access) (v : Word)
  /-- A write of MER_EPLEN.NEXT is range-checked, and sets CUR at once while EPVALID is 0. (R29) -/
  | merEplenNextWrite (a : Access) (v : Word)
  /-- A write of MER_EPLEN_AT arms or disarms a length change at a frame at least 65,536 epochs ahead. (R29) -/
  | merEplenAtWrite (a : Access) (v : Word)
  /-- A write of MER_BUDA or MER_BUDB is ignored if the eight budgets would exceed three quarters of the epoch. (R48) -/
  | merBudgetWrite (a : Access) (second : Bool) (v : Word)
  /-- A read of MER_EPOCH latches the tick in epoch, the tick number and the TAI of the same tick. (R49) -/
  | merEpochRead (a : Access)
  /-- Once this head's half of an epoch is complete and earlier halves are sealed, it sends SEAL. (R56) -/
  | sealSend
  /-- A SEAL from the twin is checked against the intents received and its digest compared with this head's own. (R57) -/
  | sealReceive (e n commands : Nat) (crc : BitVec 32) (asvMax ea : Nat) (d : Dig)
  /-- Once the twin's half of an epoch is durable in this head's journal, it sends SEAL_ACK. (R57) -/
  | sealAckSend (e : Nat)
  /-- SEAL_ACK from the twin fulfils one of this head's commit conditions. (R59) -/
  | sealAckReceive (e : Nat)
  /-- A SEAL_NAK makes this head resend its half and SEAL; the eighth for one epoch fails the link. (R58) -/
  | sealNakReceive (e : Nat)
  /-- With every commit condition met, the head writes the epoch span, fences, writes the commit word and sends COMMIT_NOTE. (R60) -/
  | epochCommit
  /-- The twin's COMMIT_NOTE releases completions of write-class commands stamped in that epoch once applied. (R61) -/
  | commitNoteReceive (e : Nat)
  /-- The twin's RERUN is matched with this head's and resolves which head yields. (R74) -/
  | rerunReceive (ea : Nat) (agrees : Bool)
  /-- An own half unsealed SEALMAX epochs after its epoch ended sets SEALLATE and posts SEAL_LATE. (R68) -/
  | sealLate
  /-- A committed epoch is applied in merge order across the apply lanes, producing outcome records and the state digest. (R69) -/
  | applyEpoch
  /-- A write of the journal base is checked alone and against the size already held. (R83) -/
  | cmtJbaseWrite (a : Access) (v : Word)
  /-- A write of the journal size is checked alone and against the base already held. (R83) -/
  | cmtJsizeWrite (a : Access) (v : Word)
  /-- A read of CMT_APPLIED latches that epoch's state digest into CMT_DIGEST0–3. (R83) -/
  | cmtAppliedRead (a : Access)
  /-- A control core with IE set and a pending unmasked source takes INTR between instructions. (R98) -/
  | interruptTake (core : Fin 32)
  /-- A job is bound through the recipe table and started on a free context of an ON cluster holding the library. (R103) -/
  | recipeDispatch (work : Nat)
  /-- The loader checks and places a recipe library or control image. (R114) -/
  | objectLoad (level : Level) (target : LoadTarget) (object : List Byte)
  /-- A write to CORE_DBELL sets DOORBELL pending at each named control core. (R98) -/
  | coreDbellWrite (a : Access) (v : Word)
  /-- A write to CORE_RELEASE releases the named control cores from reset once the DRAM fill is complete. (R485) -/
  | coreReleaseWrite (a : Access) (v : Word)
  /-- A word with an undefined opcode or function, or a non-zero unused field, raises ILLEGAL. (R117) -/
  | undefinedInstruction (x : Fetched)
  /-- Adds two registers modulo 2^64. (R121) -/
  | add (x : Ctx) (rd rs1 rs2 : Fin 32)
  /-- Subtracts two registers modulo 2^64. (R121) -/
  | sub (x : Ctx) (rd rs1 rs2 : Fin 32)
  /-- Bitwise AND of two registers. (R121) -/
  | and (x : Ctx) (rd rs1 rs2 : Fin 32)
  /-- Bitwise OR of two registers. (R121) -/
  | or (x : Ctx) (rd rs1 rs2 : Fin 32)
  /-- Bitwise XOR of two registers. (R121) -/
  | xor (x : Ctx) (rd rs1 rs2 : Fin 32)
  /-- AND of a register with the complement of another. (R121) -/
  | andn (x : Ctx) (rd rs1 rs2 : Fin 32)
  /-- Logical left shift by b[5:0]. (R121) -/
  | sll (x : Ctx) (rd rs1 rs2 : Fin 32)
  /-- Logical right shift by b[5:0]. (R121) -/
  | srl (x : Ctx) (rd rs1 rs2 : Fin 32)
  /-- Arithmetic right shift by b[5:0]. (R121) -/
  | sra (x : Ctx) (rd rs1 rs2 : Fin 32)
  /-- Right rotate by b[5:0]. (R121) -/
  | ror (x : Ctx) (rd rs1 rs2 : Fin 32)
  /-- Signed less-than comparison. (R121) -/
  | slt (x : Ctx) (rd rs1 rs2 : Fin 32)
  /-- Unsigned less-than comparison. (R121) -/
  | sltu (x : Ctx) (rd rs1 rs2 : Fin 32)
  /-- Signed minimum. (R121) -/
  | min (x : Ctx) (rd rs1 rs2 : Fin 32)
  /-- Signed maximum. (R121) -/
  | max (x : Ctx) (rd rs1 rs2 : Fin 32)
  /-- Unsigned minimum. (R121) -/
  | minu (x : Ctx) (rd rs1 rs2 : Fin 32)
  /-- Unsigned maximum. (R121) -/
  | maxu (x : Ctx) (rd rs1 rs2 : Fin 32)
  /-- Counts leading zero bits. (R121) -/
  | clz (x : Ctx) (rd rs1 : Fin 32)
  /-- Counts trailing zero bits. (R121) -/
  | ctz (x : Ctx) (rd rs1 : Fin 32)
  /-- Counts one bits. (R121) -/
  | popc (x : Ctx) (rd rs1 : Fin 32)
  /-- Reverses the eight bytes of a register. (R121) -/
  | bswap (x : Ctx) (rd rs1 : Fin 32)
  /-- Low 64 bits of a product. (R121) -/
  | mul (x : Ctx) (rd rs1 rs2 : Fin 32)
  /-- High 64 bits of a signed product. (R121) -/
  | mulh (x : Ctx) (rd rs1 rs2 : Fin 32)
  /-- High 64 bits of an unsigned product. (R121) -/
  | mulhu (x : Ctx) (rd rs1 rs2 : Fin 32)
  /-- Signed division toward zero with defined boundary results. (R122) -/
  | div (x : Ctx) (rd rs1 rs2 : Fin 32)
  /-- Unsigned division with defined division by zero. (R122) -/
  | divu (x : Ctx) (rd rs1 rs2 : Fin 32)
  /-- Signed remainder with defined boundary results. (R122) -/
  | rem (x : Ctx) (rd rs1 rs2 : Fin 32)
  /-- Unsigned remainder with defined division by zero. (R122) -/
  | remu (x : Ctx) (rd rs1 rs2 : Fin 32)
  /-- Adds a sign-extended immediate. (R123) -/
  | addi (x : Ctx) (rd rs : Fin 32) (imm : BitVec 16)
  /-- ANDs a zero-extended immediate. (R123) -/
  | andi (x : Ctx) (rd rs : Fin 32) (imm : BitVec 16)
  /-- ORs a zero-extended immediate. (R123) -/
  | ori (x : Ctx) (rd rs : Fin 32) (imm : BitVec 16)
  /-- XORs a zero-extended immediate. (R123) -/
  | xori (x : Ctx) (rd rs : Fin 32) (imm : BitVec 16)
  /-- Signed compare with a sign-extended immediate. (R123) -/
  | slti (x : Ctx) (rd rs : Fin 32) (imm : BitVec 16)
  /-- Unsigned compare with a sign-extended immediate. (R123) -/
  | sltiu (x : Ctx) (rd rs : Fin 32) (imm : BitVec 16)
  /-- Logical left shift by an immediate. (R123) -/
  | slli (x : Ctx) (rd rs : Fin 32) (sh : Fin 64)
  /-- Logical right shift by an immediate. (R123) -/
  | srli (x : Ctx) (rd rs : Fin 32) (sh : Fin 64)
  /-- Arithmetic right shift by an immediate. (R123) -/
  | srai (x : Ctx) (rd rs : Fin 32) (sh : Fin 64)
  /-- Right rotate by an immediate. (R123) -/
  | rori (x : Ctx) (rd rs : Fin 32) (sh : Fin 64)
  /-- Loads a sign-extended immediate shifted left by 16. (R123) -/
  | lui (x : Ctx) (rd : Fin 32) (imm : BitVec 16)
  /-- Shifts a register left by 16 and ORs in an immediate. (R123) -/
  | lsi (x : Ctx) (rd rs : Fin 32) (imm : BitVec 16)
  /-- Adds a scaled immediate to the PC. (R123) -/
  | pcadd (x : Ctx) (rd : Fin 32) (imm : BitVec 16)
  /-- Loads a sign-extended byte. (R125) -/
  | lb (x : Ctx) (rt rb : Fin 32) (off : BitVec 12) (soft : Soft)
  /-- Loads a zero-extended byte. (R125) -/
  | lbu (x : Ctx) (rt rb : Fin 32) (off : BitVec 12) (soft : Soft)
  /-- Loads a sign-extended halfword. (R125) -/
  | lh (x : Ctx) (rt rb : Fin 32) (off : BitVec 12) (soft : Soft)
  /-- Loads a zero-extended halfword. (R125) -/
  | lhu (x : Ctx) (rt rb : Fin 32) (off : BitVec 12) (soft : Soft)
  /-- Loads a sign-extended word. (R125) -/
  | lw (x : Ctx) (rt rb : Fin 32) (off : BitVec 12) (soft : Soft)
  /-- Loads a zero-extended word. (R125) -/
  | lwu (x : Ctx) (rt rb : Fin 32) (off : BitVec 12) (soft : Soft)
  /-- Loads a doubleword, with alignment, address and bus-error checks. (R125) -/
  | ld (x : Ctx) (rt rb : Fin 32) (off : BitVec 12) (soft : Soft)
  /-- Stores a byte. (R125) -/
  | sb (x : Ctx) (rt rb : Fin 32) (off : BitVec 12) (soft : Soft)
  /-- Stores a halfword. (R125) -/
  | sh (x : Ctx) (rt rb : Fin 32) (off : BitVec 12) (soft : Soft)
  /-- Stores a word. (R125) -/
  | sw (x : Ctx) (rt rb : Fin 32) (off : BitVec 12) (soft : Soft)
  /-- Stores a doubleword. (R125) -/
  | sd (x : Ctx) (rt rb : Fin 32) (off : BitVec 12) (soft : Soft)
  /-- Copies one handle register into another. (R126) -/
  | hmov (x : Ctx) (hd hs : Fin 8)
  /-- Returns a handle's kind, pool and length at level S or V. (R126) -/
  | hqry (x : Ctx) (rd : Fin 32) (hs : Fin 8)
  /-- Loads a byte at an offset of a handle. (R126) -/
  | hldb (x : Ctx) (rd rs1 : Fin 32) (hs : Fin 8) (soft : Soft)
  /-- Loads 16 bits at an offset of a handle. (R126) -/
  | hldh (x : Ctx) (rd rs1 : Fin 32) (hs : Fin 8) (soft : Soft)
  /-- Loads 32 bits at an offset of a handle. (R126) -/
  | hldw (x : Ctx) (rd rs1 : Fin 32) (hs : Fin 8) (soft : Soft)
  /-- Loads 64 bits at an offset of a handle. (R126) -/
  | hldd (x : Ctx) (rd rs1 : Fin 32) (hs : Fin 8) (soft : Soft)
  /-- Stores a byte at an offset of a handle. (R126) -/
  | hstb (x : Ctx) (rd rs1 : Fin 32) (hs : Fin 8) (soft : Soft)
  /-- Stores 16 bits at an offset of a handle. (R126) -/
  | hsth (x : Ctx) (rd rs1 : Fin 32) (hs : Fin 8) (soft : Soft)
  /-- Stores 32 bits at an offset of a handle. (R126) -/
  | hstw (x : Ctx) (rd rs1 : Fin 32) (hs : Fin 8) (soft : Soft)
  /-- Stores 64 bits at an offset of a handle. (R126) -/
  | hstd (x : Ctx) (rd rs1 : Fin 32) (hs : Fin 8) (soft : Soft)
  /-- Unconditional PC-relative branch with link. (R128) -/
  | br (x : Ctx) (rd : Fin 32) (off : BitVec 21)
  /-- Branches if a register is zero. (R128) -/
  | beqz (x : Ctx) (rs : Fin 32) (off : BitVec 21)
  /-- Branches if a register is non-zero. (R128) -/
  | bnez (x : Ctx) (rs : Fin 32) (off : BitVec 21)
  /-- Branches if a register is negative. (R128) -/
  | bltz (x : Ctx) (rs : Fin 32) (off : BitVec 21)
  /-- Branches if a register is non-negative. (R128) -/
  | bgez (x : Ctx) (rs : Fin 32) (off : BitVec 21)
  /-- Branches if a register is at most zero. (R128) -/
  | blez (x : Ctx) (rs : Fin 32) (off : BitVec 21)
  /-- Branches if a register is positive. (R128) -/
  | bgtz (x : Ctx) (rs : Fin 32) (off : BitVec 21)
  /-- Jumps through a register with link, raising ALIGN for a misaligned target. (R128) -/
  | jalr (x : Ctx) (rd rs : Fin 32) (imm : BitVec 16)
  /-- Indivisibly adds to an aligned DRAM word and returns the old value. (R129) -/
  | amoadd (x : Ctx) (rd rs1 rs2 : Fin 32) (soft : Soft)
  /-- Indivisibly swaps an aligned DRAM word. (R129) -/
  | amoswap (x : Ctx) (rd rs1 rs2 : Fin 32) (soft : Soft)
  /-- Indivisibly compares and swaps an aligned DRAM word. (R129) -/
  | cas (x : Ctx) (rd rs1 rs2 : Fin 32) (soft : Soft)
  /-- Waits until every earlier access is performed everywhere and orders later fetches. (R110) -/
  | fence (x : Ctx)
  /-- Reads a special register. (R131) -/
  | mfsr (x : Ctx) (rd sr : Fin 32)
  /-- Writes TK or ST.IE, raising ILLEGAL for forbidden changes. (R131) -/
  | mtsr (x : Ctx) (sr rs : Fin 32)
  /-- Raises the SYS exception, taken at level V. (R96) -/
  | sys (x : Ctx)
  /-- Raises BREAK, terminating a recipe context at level C. (R135) -/
  | break (x : Ctx)
  /-- Returns from an exception handler, restoring ST and PC. (R133) -/
  | eret (x : Ctx)
  /-- Stalls the core until an unmasked interrupt source is pending. (R134) -/
  | wfi (x : Ctx)
  /-- A stalled WFI resumes once a source is pending, taking the interrupt if IE is set. (R134) -/
  | wfiWake (core : Fin 32)
  /-- Takes a Billow buffer of the smallest fitting pool under the class reservations. (R148) -/
  | bget (x : Ctx) (rd rs : Fin 32) (ha : Fin 8)
  /-- Returns a buffer or descriptor to its pool and empties the handle register. (R149) -/
  | bput (x : Ctx) (rd : Fin 32) (ha : Fin 8)
  /-- Posts a chunking job over the input range. (R150) -/
  | chunk (x : Ctx) (rd rs : Fin 32) (ha hb : Fin 8)
  /-- Posts a digest job using a digest slot. (R151) -/
  | digest (x : Ctx) (rd rs : Fin 32) (ha hb : Fin 8)
  /-- Posts a job saving a digest slot as a 384-byte record. (R153) -/
  | dgsave (x : Ctx) (rd rs : Fin 32) (hb : Fin 8)
  /-- Posts a job loading a digest slot from a saved record. (R153) -/
  | dgload (x : Ctx) (rd rs : Fin 32) (ha : Fin 8)
  /-- Posts a compression job. (R154) -/
  | pack (x : Ctx) (rd rs : Fin 32) (ha hb : Fin 8)
  /-- Posts a decompression job. (R155) -/
  | unpack (x : Ctx) (rd rs : Fin 32) (ha hb : Fin 8)
  /-- Posts an encryption job under a permitted key slot. (R156) -/
  | encx (x : Ctx) (rd rs : Fin 32) (ha hb : Fin 8)
  /-- Posts a decryption job under a permitted key slot. (R156) -/
  | decx (x : Ctx) (rd rs : Fin 32) (ha hb : Fin 8)
  /-- Posts a job saving a cipher slot wrapped under the context key. (R158) -/
  | ctxsv (x : Ctx) (rd rs : Fin 32) (hb : Fin 8)
  /-- Posts a job loading a cipher slot from a wrapped record. (R158) -/
  | ctxld (x : Ctx) (rd rs : Fin 32) (ha : Fin 8)
  /-- Posts a parity generation job. (R159) -/
  | pargen (x : Ctx) (rd rs : Fin 32) (ha hb : Fin 8)
  /-- Posts a job rebuilding erased strips. (R159) -/
  | parfix (x : Ctx) (rd rs : Fin 32) (ha hb : Fin 8)
  /-- Posts a fingerprint lookup that may allocate a chunk ID and an in-flight entry. (R161) -/
  | lookupFp (x : Ctx) (rd rs : Fin 32) (ha hb : Fin 8)
  /-- Posts a map entry lookup. (R162) -/
  | lookupMap (x : Ctx) (rd rs : Fin 32) (hb : Fin 8)
  /-- Posts a key directory lookup. (R162) -/
  | lookupKey (x : Ctx) (rd rs : Fin 32) (ha hb : Fin 8)
  /-- Posts a chunk record lookup. (R162) -/
  | lookupRec (x : Ctx) (rd rs : Fin 32) (hb : Fin 8)
  /-- Posts a read of stored data, with optional rebuild. (R163) -/
  | mread (x : Ctx) (rd rs : Fin 32) (hb : Fin 8)
  /-- Posts placement of a stored chunk into an open stripe and both data rings. (R164) -/
  | mprog (x : Ctx) (rd rs : Fin 32) (ha : Fin 8)
  /-- Checks and appends or records an intent record. (R165) -/
  | intent (x : Ctx) (rd rs1 : Fin 32) (ha : Fin 8)
  /-- Posts a 64-byte entry to a hardware queue. (R168) -/
  | qpost (x : Ctx) (rd rs1 rs2 : Fin 32) (ha : Fin 8)
  /-- Waits until a queue's completion count reaches a value. (R169) -/
  | qwait (x : Ctx) (rd rs1 rs2 : Fin 32)
  /-- A waiting QWAIT returns OK once the completion count is reached. (R169) -/
  | qwaitReturn (x : Ctx)
  /-- Waits for a job's ticket and collects its status and result. (R142) -/
  | twait (x : Ctx) (rd rs1 : Fin 32)
  /-- A waiting TWAIT returns when its job ends, freeing the outstanding slot. (R142) -/
  | twaitReturn (x : Ctx)
  /-- Returns the job's stamp. (R170) -/
  | epochStamp (x : Ctx) (rd : Fin 32)
  /-- Returns the read epoch of a read-class command. (R170) -/
  | epochRead (x : Ctx) (rd : Fin 32)
  /-- Returns CMT_APPLIED. (R170) -/
  | epochApplied (x : Ctx) (rd : Fin 32)
  /-- Waits until EP reaches a target epoch. (R171) -/
  | ewait (x : Ctx) (rd rs1 : Fin 32)
  /-- Waits until CMT_APPLIED reaches a target epoch. (R171) -/
  | ewaitA (x : Ctx) (rd rs1 : Fin 32)
  /-- A waiting EWAIT or EWAIT.A returns once its target is met. (R171) -/
  | ewaitReturn (x : Ctx)
  /-- Ends the job once its outstanding jobs have ended. (R172) -/
  | cplt (x : Ctx) (rs1 rs2 : Fin 32) (ha : Fin 8)
  /-- With every job ended, CPLT records or discards intents, hands over data, returns buffers and delivers the status. (R172) -/
  | cpltFinish (cluster : Fin 24) (engine : Fin 9) (ctx : Fin 8)
  /-- Arming a queue watch fires it at once if the condition already holds, or leaves ARM 0 for an absent queue. (R175) -/
  | accQwArmWrite (a : Access) (w : Fin 32) (v : Word)
  /-- An accelerator, lookup or media job ends with its status, result and output bytes. (R143) -/
  | jobEnd (job : Nat) (bad : BitVec 32)
  /-- A long job is pre-empted at a 16 KiB boundary and its state saved for resumption. (R146) -/
  | jobPreempt (job : Nat)
  /-- An accelerator failing its internal check is retired and its job rerun on another unit. (R147) -/
  | accFailed (cluster : Fin 24) (a : Fin 12)
  /-- A stripe open for CLOSEMAX epochs is closed. (R221) -/
  | stripeCloseTimeout (stripe : BitVec 32)
  /-- The owner of a closed stripe computes parity and programs every writable strip. (R221) -/
  | stripeProgram (stripe : BitVec 32)
  /-- STRIPE_DONE from the owner frees the data-ring space and switches reads to flash. (R222) -/
  | stripeDoneReceive (stripe last : Nat)
  /-- A BAND_NOTE updates the twin's band table entry or remap. (R219) -/
  | bandNoteReceive (band pblk : Nat) (entry : Word) (pos epoch : Nat)
  /-- A BAND_GIVE transfers ownership of up to six FREE bands to this head. (R217) -/
  | bandGiveReceive (bands : List Nat)
  /-- The twin's FLOOR updates FB_FLOOR. (R219) -/
  | floorReceive (e : Nat)
  /-- The owner chooses a band for collection, fold or wear and posts a job per stripe. (R234) -/
  | victimSelect (kind : VictimKind)
  /-- The owner issues ERASE_BLOCK to every slot of an ERASE_PENDING band once the floor permits. (R238) -/
  | bandErase (band : BitVec 32)
  /-- A patrol pass begins and its period opens. (R240) -/
  | patrolPassStart
  /-- A pass still running when its period expires posts PATROL_BEHIND once. (R240) -/
  | patrolBehind
  /-- At a cut that is a multiple of 1,024, once CMT_APPLIED reaches it, a checkpoint begins. (R248) -/
  | checkpointBegin
  /-- The checkpoint root becoming durable sets FB_CKPT and frees the intent ring below the cut. (R248) -/
  | checkpointComplete
  /-- A checkpoint incomplete 4,096 epochs after its cut sets CKLATE and runs without budget. (R249) -/
  | ckptLate
  /-- At power-up the head loads its checkpoint, scans bands, replays the journal and resumes erases. (R250) -/
  | restore
  /-- A MOD_NOTE sets the new module state on this head. (R262) -/
  | modNoteReceive (pos state posn : Nat) (pool : Word) (serial : BitVec 128) (epoch : Nat)
  /-- A module ABSENT for ABSENTS seconds becomes FAILED. (R261) -/
  | moduleAbsentTimeout (pos : Fin 32)
  /-- A write of PAR_MODj.FAIL declares the position FAILED. (R261) -/
  | parModFailWrite (a : Access) (pos : Fin 32) (v : Word)
  /-- A write of PAR_MODj.ACCEPT accepts a replacement module, or is ignored with CFGERR. (R261) -/
  | parModAcceptWrite (a : Access) (pos : Fin 32) (v : Word)
  /-- A HOLE_NOTE updates the twin's copy of a band's hole entries. (R264) -/
  | holeNoteReceive (band : Nat) (entry : BitVec 128) (epoch : Nat)
  /-- A LOST_NOTE enters a stripe in the lost-stripe table. (R272) -/
  | lostNoteReceive (stripe : Nat) (mask : BitVec 32) (epoch : Nat)
  /-- Rebuild reconstructs a stripe's hole strip and programs it at the target, raising LO. (R269) -/
  | rebuildStripe (band : BitVec 32) (pos : Fin 32) (bad : BitVec 32)
  /-- The driver issues a GEOM_STEP STEP once every band up to the new boundary is FREE or RETIRED. (R276) -/
  | reshapeStepIssue
  /-- PWR_FAIL_N taken stops acceptance, ends commits and writes three dump copies. (R278) -/
  | powerFail
  /-- A dump copy's units all succeed and its trailer is written, posting DUMP_DONE. (R278) -/
  | dumpCopyComplete (copy : Fin 3)
  /-- 250 ms after PWR_FAIL_N was taken the dump ends and PF_DONE rises. (R531) -/
  | dumpTimeLimit
  /-- A write of PAR_DUMP.FORCE lets a head with no valid dump restore from its checkpoint alone. (R281) -/
  | parDumpForceWrite (a : Access) (v : Word)
  /-- 100 ms after a root port reaches STARTING it releases ML_PERSTp_N. (R305) -/
  | mlPerstRelease (port : Fin 32)
  /-- A module link trains and the raw flash function is found and enabled. (R305) -/
  | pcieLinkTrained (port : Fin 32) (t : LinkTrained)
  /-- A module link not trained within 100 ms of release leaves the module unreached. (R305) -/
  | linkTrainTimeout (port : Fin 32)
  /-- A module link going down or a fatal error is loss of reach and makes the module ABSENT. (R261) -/
  | linkLost (port : Fin 32) (aer : BitVec 32)
  /-- A module operation's completion is handled according to its status. (R316) -/
  | moduleCompletion (port : Fin 32) (c : ModCpl)
  /-- An operation outstanding past its timeout resets the function and makes the module ABSENT here. (R318) -/
  | opTimeout (port : Fin 32) (cid : BitVec 16)
  /-- A module write outside its bounds, or an unknown CID, drops the link and sets DMAVIOL. (R308) -/
  | moduleDmaWrite (port : Fin 32) (addr : Word) (data : List Byte)
  /-- The module reads a strip range and its seal, returning ERASED for an unprogrammed slot. (R312) -/
  | readPage (module : Fin 32) (port : Bool) (op : ModOp)
  /-- The module reads a strip range at a given read-retry level. (R312) -/
  | readRetry (module : Fin 32) (port : Bool) (op : ModOp)
  /-- The module programs a strip and its seal in slot order. (R313) -/
  | programPage (module : Fin 32) (port : Bool) (op : ModOp) (data : List Byte) (sealRec : Rec64)
  /-- The module erases a physical block. (R312) -/
  | eraseBlock (module : Fin 32) (port : Bool) (op : ModOp)
  /-- The module writes its status page. (R323) -/
  | getStatus (module : Fin 32) (port : Bool) (op : ModOp)
  /-- The module writes its geometry page. (R323) -/
  | getGeometry (module : Fin 32) (port : Bool) (op : ModOp)
  /-- The module sets its own port's fence, or sets or clears the other port's for the sole holder. (R321) -/
  | setFence (module : Fin 32) (port : Bool) (op : ModOp)
  /-- The module returns its lease word. (R320) -/
  | leaseRead (module : Fin 32) (port : Bool) (op : ModOp)
  /-- The module stores the issuing port's heartbeat value and returns the lease word. (R320) -/
  | leaseHeartbeat (module : Fin 32) (port : Bool) (op : ModOp)
  /-- The module indivisibly compares GEN and holder and changes holder and fences on a match. (R320) -/
  | leaseAcquire (module : Fin 32) (port : Bool) (op : ModOp)
  /-- A front lane gains or loses link, and a sub-port on a lost lane moves to a spare lane or stays down. (R332) -/
  | laneLinkChange (port : Fin 8) (lane : Fin 4) (up : Bool)
  /-- Hardware answers an ARP request for a sub-port address. (R333) -/
  | arpRequest (port : Fin 8) (sub : Fin 4) (ip : BitVec 32)
  /-- Hardware answers an ICMPv6 neighbour solicitation. (R333) -/
  | neighbourSolicitation (port : Fin 8) (sub : Fin 4) (ip : BitVec 128)
  /-- Hardware answers an ICMP or ICMPv6 echo request. (R333) -/
  | echoRequest (port : Fin 8) (sub : Fin 4) (ip : BitVec 128) (v6 : Bool) (data : List Byte)
  /-- Any other frame, or a PAUSE frame, is discarded and counted in DROP. (R333) -/
  | frameDiscard (port : Fin 8) (kind : FrameKind)
  /-- An RDMA READ response places command data into Billow. (R334) -/
  | roceReadResponse (qp : Fin 32768) (psn : BitVec 24) (data : List Byte) (ce ok : Bool)
  /-- A host acknowledgement advances the send queue's completion count. (R345) -/
  | roceAck (qp : Fin 32768) (apsn : BitVec 24)
  /-- A NAK from a host causes retransmission, or a fatal NAK ends the association. (R336) -/
  | roceNak (qp : Fin 32768) (psn : BitVec 24) (kind : HostNak)
  /-- An RNR NAK from a host schedules a retry after the named delay. (R336) -/
  | roceRnrNak (qp : Fin 32768) (psn : BitVec 24)
  /-- The RNR delay expires and the request is retried, or the queue pair fails after seven. (R336) -/
  | roceRnrDelayExpiry (qp : Fin 32768)
  /-- A received CNP cuts the queue pair's send rate. (R335) -/
  | roceCnp (qp : Fin 32768)
  /-- RECOVER µs without a CNP raises the queue pair's rate by RAI. (R335) -/
  | roceRateRecover (qp : Fin 32768)
  /-- No acknowledgement within the wait retransmits from the oldest PSN, or fails the queue pair. (R336) -/
  | roceAckTimeout (qp : Fin 32768)
  /-- A host RDMA READ, WRITE or atomic on a controller queue pair gets a remote-access NAK. (R334) -/
  | roceRemoteRequest (qp : Fin 32768) (psn : BitVec 24)
  /-- A connection request creates a queue pair, or is rejected when 32,768 exist. (R338) -/
  | cmReq (port : Fin 8) (sub : Fin 4) (qid size : BitVec 16) (pmtu : Fin 3) (psn : BitVec 24)
  /-- A ready-to-use message completes the connection. (R334) -/
  | cmRtu (qp : Fin 32768)
  /-- A disconnection request tears down the queue pair. (R334) -/
  | cmDreq (qp : Fin 32768)
  /-- The front complex posts a receive buffer on an I/O queue pair once credit, size and gates allow. (R341) -/
  | receiveBufferPost (qp : Fin 32768)
  /-- Flush is stamped and completes OK at dispatch. (R186) -/
  | nvmeFlush (cmd : HostCmd)
  /-- A Write capsule is checked, its data fetched, stamped and reduced into CHUNK_NEW and MAP_SET intents. (R186) -/
  | nvmeWrite (cmd : HostCmd)
  /-- A Read resolves each entry at its read epoch and returns the data. (R186) -/
  | nvmeRead (cmd : HostCmd)
  /-- Compare reads and compares bytes with the command's data. (R186) -/
  | nvmeCompare (cmd : HostCmd)
  /-- Write Zeroes trims its range with MAP_TRIM intents. (R186) -/
  | nvmeWriteZeroes (cmd : HostCmd)
  /-- Dataset Management deallocates its ranges up to 65,536 MAP_TRIM intents. (R187) -/
  | nvmeDatasetManagement (cmd : HostCmd)
  /-- Verify runs the read sequence without transfer. (R186) -/
  | nvmeVerify (cmd : HostCmd)
  /-- An undefined I/O opcode passes the checks and completes Invalid Command Opcode at dispatch. (R104) -/
  | nvmeUndefinedOpcode (kv : Bool) (c : Capsule)
  /-- KV Store chunks, reduces and records the value with a manifest and KEY_PUT. (R188) -/
  | kvStore (cmd : HostCmd)
  /-- KV Retrieve reads a key's manifest and value chunks. (R186) -/
  | kvRetrieve (cmd : HostCmd)
  /-- KV List returns keys of the read epoch in order from a given key. (R186) -/
  | kvList (cmd : HostCmd)
  /-- KV Delete records KEY_DEL and completes OK whatever the key's state. (R186) -/
  | kvDelete (cmd : HostCmd)
  /-- KV Exist looks up a key. (R186) -/
  | kvExist (cmd : HostCmd)
  /-- A Fabrics Connect creates a controller or queue, or is refused. (R338) -/
  | connect (c : Capsule) (subsys : Option (Fin 64))
  /-- The front complex returns a controller property. (R339) -/
  | propertyGet (c : Capsule)
  /-- A Property Set of CC writes the controller's EN or SHN. (R354) -/
  | propertySet (c : Capsule)
  /-- A Keep Alive restarts the controller's KATO count. (R356) -/
  | keepAlive (c : Capsule)
  /-- An Abort cancels a named command not yet accepted, or completes without effect. (R346) -/
  | abort (c : Capsule)
  /-- An Asynchronous Event Request is held until an event completes it. (R352) -/
  | asynchronousEventRequest (c : Capsule)
  /-- Get Log Page returns the ANA log. (R339) -/
  | getLogPage (c : Capsule)
  /-- Any other admin command is held for S software. (R349) -/
  | adminCommandHeld (c : Capsule)
  /-- Reservation Register is held for S software. (R349) -/
  | reservationRegister (c : Capsule)
  /-- Reservation Report is held for S software. (R349) -/
  | reservationReport (c : Capsule)
  /-- Reservation Acquire is held for S software. (R349) -/
  | reservationAcquire (c : Capsule)
  /-- Reservation Release is held for S software. (R349) -/
  | reservationRelease (c : Capsule)
  /-- A front-queue DATA entry RDMA-writes bytes to a held command's data. (R350) -/
  | heldDataEntry (qp : Fin 32768)
  /-- A front-queue RESPONSE entry sends a held command's completion and frees its slot. (R350) -/
  | heldResponseEntry (qp : Fin 32768)
  /-- A write of FE_ANA sets group states for later capsules. (R351) -/
  | feAnaWrite (a : Access) (k : Fin 16) (v : Word)
  /-- No admin command within KATO ends the controller. (R356) -/
  | katoExpired (ctrl : Fin 4096)
  /-- A write of FE_Cc_CTL.KILL ends the controller at once. (R356) -/
  | feKillWrite (a : Access) (ctrl : Fin 4096) (v : Word)
  /-- A write of SPLIT sets the port's lane split, ignored unless the port is OFF. (R331) -/
  | feSplitWrite (a : Access) (port : Fin 8) (v : Word)
  /-- A lane group losing signal, lock or FEC integrity is failed. (R363) -/
  | sdSignalLoss (group : Fin 6)
  /-- A group not trained within 100 ms of STARTING is failed. (R363) -/
  | groupTrainTimeout (group : Fin 6)
  /-- A group without a heartbeat 2 µs after another group carried it misses it; three misses fail it. (R383) -/
  | groupHeartbeatMiss (group : Fin 6)
  /-- No group active at both heads for 1 ms fails the Sundog link. (R364) -/
  | linkNoGroupTimeout
  /-- A CHRT WRITE packet is authenticated, key-checked and placed in PSN order. (R377) -/
  | chrtWrite (p : ChrtPkt)
  /-- A READ_REQ is key-checked and answered with READ_RESP packets. (R391) -/
  | chrtReadReq (p : ChrtPkt)
  /-- A READ_RESP packet places read bytes locally. (R368) -/
  | chrtReadResp (p : ChrtPkt)
  /-- A cumulative ACK frees acknowledged packets and resets the retry count. (R379) -/
  | chrtAck (conn : Fin 1024) (apsn : BitVec 32)
  /-- NAK SEQ makes the sender retransmit from the named PSN. (R379) -/
  | chrtNakSeq (conn : Fin 1024) (apsn : BitVec 32)
  /-- NAK LENGTH makes the sender retransmit from the named PSN, counting a retry. (R379) -/
  | chrtNakLength (conn : Fin 1024) (apsn : BitVec 32)
  /-- NAK REMOTE_ACCESS puts the connection in the error state. (R394) -/
  | chrtNakRemoteAccess (conn : Fin 1024) (apsn : BitVec 32)
  /-- NAK RNR schedules a retransmission after RTO0 without a retry. (R379) -/
  | chrtNakRnr (conn : Fin 1024) (apsn : BitVec 32)
  /-- NAK INVALID puts the connection in the error state. (R394) -/
  | chrtNakInvalid (conn : Fin 1024) (apsn : BitVec 32)
  /-- A CREDIT packet updates the cumulative grants the sender may use. (R373) -/
  | chrtCredit (conn : Option (Fin 1024)) (grants : Vector (BitVec 32) 4)
  /-- A CNP on a UDP connection cuts its send rate. (R396) -/
  | chrtCnp (conn : Fin 1024)
  /-- No ACK within the wait retransmits every unacknowledged packet and doubles the wait. (R379) -/
  | chrtRetransmitTimeout (conn : Fin 1024)
  /-- A microsecond with placed but unacknowledged packets sends an ACK. (R376) -/
  | chrtAckTimer (conn : Fin 1024)
  /-- At this head's heartbeat tick a HEARTBEAT goes on every ON group and a LEASE HEARTBEAT to every module. (R381) -/
  | heartbeatSend
  /-- A twin heartbeat updates round trip, grants, twin state and the tick cross-check. (R382) -/
  | heartbeatReceive (group : Fin 6) (hb : Heartbeat)
  /-- An INTENTS message delivers intent records of one epoch in issue order. (R384) -/
  | intentsReceive (recs : List Rec64)
  /-- A command descriptor from the twin carries its stamp, never restamped. (R33) -/
  | descriptorReceive (stamp cseq nsid ctrl cid opc cset len : Nat)
  /-- A received EVENT is written to the event ring and may act, as GROUP_DOWN does. (R395) -/
  | twinEventReceive (code side about epoch p0 p1 p2 : Nat)
  /-- A control SEND with an unknown MTYPE or wrong length is acknowledged and discarded. (R384) -/
  | controlSendUnknown (conn : Fin 2) (len : BitVec 16)
  /-- A SEND on a software connection is written to its receive ring, or answered with NAK RNR when full. (R390) -/
  | softwareSendReceive (p : ChrtPkt)
  /-- SD_CNCTL ACTION 1 checks a connection entry and makes it READY. (R386) -/
  | connectionOpen (a : Access) (conn : BitVec 10)
  /-- SD_CNCTL ACTION 2 returns a connection to RESET, completing its entries with CONN_ERROR. (R386) -/
  | connectionReset (a : Access) (conn : BitVec 10)
  /-- A NOP send-queue entry completes as soon as it begins. (R388) -/
  | sqNop (conn : Fin 1024)
  /-- A SEND send-queue entry begins and transmits its message. (R387) -/
  | sqSend (conn : Fin 1024)
  /-- A WRITE send-queue entry begins and writes to the remote region. (R387) -/
  | sqWrite (conn : Fin 1024)
  /-- A READ send-queue entry begins and reads from the remote region. (R387) -/
  | sqRead (conn : Fin 1024)
  /-- A write of SD_MRREG loads a region table entry into the key-check stage. (R391) -/
  | sdMrregWrite (a : Access) (v : Word)
  /-- A write of SD_MRREV revokes a region at the revocation instant and sets BUSY. (R393) -/
  | sdMrrevWrite (a : Access) (v : Word)
  /-- Every request admitted before a revocation finishes and BUSY clears. (R393) -/
  | mrRevokeDrain
  /-- A UDP connection's sub-port down for 1 s puts it in error with LINK_DOWN. (R396) -/
  | udpLinkDownTimeout (conn : Fin 1024)
  /-- Every 10 µs during link formation a head sends its nonce frame on every active group. (R470) -/
  | linkKeyFrameSend
  /-- The twin's nonce frame is checked and, with both frames, the link key and salt derived. (R470) -/
  | linkKeyFrameReceive (f : LinkKeyFrame)
  /-- The twin's HELLO is checked in order and decides mismatch, rejoin or formation. (R401) -/
  | helloReceive (headId role log jsize asvMax asvCur : Nat) (pool : Word) (last applied : Nat) (d : Dig)
  /-- JOIN_AT names the formation epoch P, or the join epoch J. (R402) -/
  | joinAtReceive (e : Nat) (join : Bool)
  /-- The twin's FORMED, with this head's formation checkpoint done, enters PAIRED. (R402) -/
  | formedReceive (p : Nat)
  /-- A CLOCK message gives the twin's epoch numbering for the twin route. (R401) -/
  | clockReceive (e0 t0 : Nat) (origin : Word) (cur next at_ : Nat)
  /-- A JOIN_OFFER puts this head in JOINING to load the keeper's checkpoint. (R413) -/
  | joinOfferReceive (cut root last : Nat)
  /-- The joiner copies and applies the keeper's journal epoch by epoch. (R413) -/
  | joinCopy (off : Nat) (span : List Byte) (data : List (Nat × List Byte))
  /-- The keeper checks the joiner's digest and sends JOIN_AT or abandons. (R413) -/
  | joinReadyReceive (a : Nat) (d : Dig)
  /-- Journal back-pressure lasting 65,536 epochs during a join abandons it. (R414) -/
  | joinBackpressureTimeout
  /-- A LEAVE makes the twin keeper without a bid and acquires every module SOLE. (R416) -/
  | leaveReceive (l : Nat)
  /-- A pair heartbeat not arrived by its deadline counts a miss; the third makes the twin suspect. (R403) -/
  | pairHeartbeatMiss
  /-- CLAIM on a fenced head with a failed link makes it bid again. (R412) -/
  | sdPairClaimWrite (a : Access) (v : Word)
  /-- LEAVE on a paired head names L and activates the LEAVE gate. (R416) -/
  | sdPairLeaveWrite (a : Access) (v : Word)
  /-- Once CMT_LAST reaches L − 1 and no credit is held, the head closes its stripes, sends LEAVE and enters LEFT. (R416) -/
  | leaveSend
  /-- Raising SD_SYNC releases held synchronous completions. (R420) -/
  | sdSyncWrite (a : Access) (v : Word)
  /-- Clearing a group's bit releases its held completions. (R420) -/
  | sdSyncgrpWrite (a : Access) (k : Fin 4) (v : Word)
  /-- MEM_CTL.GO copies the timing and delay sets, reapplies repairs, starts refresh and begins the fill. (R429) -/
  | memGoWrite (a : Access) (v : Word)
  /-- The DRAM fill completes and FILLDONE is set. (R430) -/
  | fillDone
  /-- A channel's refresh slot issues all-bank refresh to every rank. (R431) -/
  | refreshSlot (channel : Fin 12)
  /-- A write of FCHG arms a frequency-change window at the next epoch. (R433) -/
  | memFchgWrite (a : Access) (v : Word)
  /-- The window drains requests, enters self-refresh, swaps timing sets and relocks. (R433) -/
  | freqChangeWindow (repair : Fin 3) (ns : BitVec 32)
  /-- The scrubber reads, corrects and writes back lines under the SCRUB budget. (R441) -/
  | scrubStep (ticks : BitVec 16) (found : List (Nat × Soft))
  /-- Test OP 1 reads a line's ciphertext and check bits uncorrected. (R440) -/
  | memTestRawRead (a : Access) (en : Bool)
  /-- Test OP 2 writes a line's ciphertext and check bits as given. (R440) -/
  | memTestRawWrite (a : Access) (en : Bool)
  /-- Test OP 3 replaces a line's check bits. (R440) -/
  | memTestCheckWrite (a : Access) (en : Bool)
  /-- A merge-buffer entry without a merge for 256 front cycles is written back. (R436) -/
  | mergeEntryTimeout (line : BitVec 48)
  /-- A Veil page fill completes and releases its fill slot. (R450) -/
  | veilFillComplete (cache : Fin 28) (entry : Fin 48)
  /-- VEIL_OP clean writes back an entry's dirty lines. (R453) -/
  | veilClean (a : Access) (v : Word)
  /-- VEIL_OP invalidate drops an entry, cleaning first at level S. (R453) -/
  | veilInvalidate (a : Access) (v : Word)
  /-- VEIL_OP clean-and-invalidate writes back and drops an entry. (R453) -/
  | veilCleanInvalidate (a : Access) (v : Word)
  /-- A Veil maintenance operation completes and BUSY clears. (R453) -/
  | veilOpDone
  /-- Draws a fresh 48-byte challenge. (R462) -/
  | nonce (a : Access)
  /-- Verifies the ownership credential, setting UNLOCKED and clearing the alarm latch. (R463) -/
  | unlock (a : Access)
  /-- Imports the AKEK under an ECDH transport key and returns it sealed under the DSK. (R465) -/
  | importAkek (a : Access)
  /-- Loads role 0 from a sealed AKEK, refused while the latch is set. (R465) -/
  | loadAkek (a : Access)
  /-- Unwraps a key record under the AKEK into a slot or role. (R465) -/
  | unwrap (a : Access) (slot : BitVec 16)
  /-- Empties an ordinary key slot. (R465) -/
  | zero (a : Access) (slot : BitVec 16)
  /-- Writes the device identity public key and SERIAL. (R465) -/
  | dikpub (a : Access)
  /-- Fuses the OEM ownership key hash once. (R461) -/
  | own (a : Access)
  /-- An authorised entry to test mode destroys the DRS and retires the part. (R476) -/
  | testentry (a : Access)
  /-- An Umbra operation ends with its status and BUSY falls. (R466) -/
  | umbCmdComplete
  /-- A V write maps a device role to a spare slot, or is ignored with CFGERR. (R458) -/
  | umbDevmapWrite (a : Access) (j : Fin 2) (v : Word)
  /-- An alarm source stops the key bus, zeroes every slot, sets the latch and holds the head in reset. (R472) -/
  | alarm (sources : BitVec 5)
  /-- 10 ms with no alarm source active releases the head from reset. (R472) -/
  | alarmRelease
  /-- A random-source health test failure sets RNGFAIL and stops all drawing until reset. (R460) -/
  | rngHealthFail (test : Word)
  /-- A write of GO starts a control-plane digest unit over memory at level V. (R475) -/
  | umbDgGo (a : Access) (unit : Fin 4) (alg : BitVec 3)
  /-- A control-plane digest completes with its result or ERR. (R475) -/
  | umbDgDone (unit : Fin 4)
  /-- The hottest sensor crossing THROTTLE, or falling below THROTTLE − HYST, halves or restores engine clocks. (R482) -/
  | thermalThrottleChange (tj : BitVec 12) (sensor : BitVec 8)
  /-- PORST_N low resets the head. (R483) -/
  | powerOnReset
  /-- RESET_N low with PORST_N high resets the head. (R483) -/
  | pinReset
  /-- The watchdog count expires, posts WDOG_EXPIRED and takes a reset after a dump. (R500) -/
  | watchdogExpiry
  /-- The confirmation window, or the wait for EPVALID, expiring in a trial takes a confirmation reset. (R499) -/
  | confirmationReset
  /-- A V write of PLT_RST.GO takes a software reset, with a dump if DUMP is set. (R483) -/
  | pltRstWrite (a : Access) (v : Word)
  /-- On deassertion of reset the head latches straps and runs the start-up sequence. (R485) -/
  | resetRelease (straps : Straps) (tests : StartTests)
  /-- Reads boot flash into memory. (R487) -/
  | dayCmdRead (a : Access) (dev : BitVec 2)
  /-- Programs boot flash from memory. (R487) -/
  | dayCmdProgram (a : Access) (dev : BitVec 2)
  /-- Erases a 64 KiB boot flash sector. (R487) -/
  | dayCmdErase (a : Access) (dev : BitVec 2)
  /-- Writes a TRIAL record for the other, verified slot, or is refused. (R498) -/
  | dayCmdActivate (a : Access)
  /-- Checks a slot or Billow set against its manifest. (R494) -/
  | dayCmdVerify (a : Access) (dev : BitVec 2)
  /-- Fuses an OEM key hash at an index. (R492) -/
  | dayCmdFusekey (a : Access) (idx : BitVec 2)
  /-- Revokes a fused OEM key hash. (R492) -/
  | dayCmdRevoke (a : Access) (idx : BitVec 2)
  /-- A DAY_CMD operation ends with its status; a flash failure posts FLASH_FAULT. (R487) -/
  | dayCmdComplete (fail : Option (Fin 2))
  /-- Confirming a trial writes a CONFIRMED record, clears TRIAL and may raise SECVER. (R499) -/
  | dayConfirmWrite (a : Access) (v : Word)
  /-- A write of KICK restarts the watchdog count. (R500) -/
  | pltWdogKick (a : Access) (v : Word)
  /-- A write of AG_POST posts an OEM event record. (R507) -/
  | agPostWrite (a : Access) (v : Word)
  /-- Every 25,000,000 generated ticks the record bucket gains one token. (R504) -/
  | agTokenGain
  /-- A write of REPLAY sends every non-empty Afterglow position as EVENT frames. (R508) -/
  | obsReplayWrite (a : Access) (v : Word)
  /-- SVC_PERST_N low holds the service port in reset alone. (R521) -/
  | svcPerst (low : Bool)
  /-- After a NAK RNR, the RTO0 delay expires and the sender retransmits without counting a retry. (R379) -/
  | chrtRnrDelayExpiry (conn : Fin 1024)
  deriving DecidableEq, Repr

end Sys2Proof
end

