-- ==== Sys2Proof/WellFormed.lean ====
section
/-! DEFINITION. Which commands are well formed: operands that the spec's fields can hold (R9, R57, R213, R384), and accesses that a
requester can make (spec/00_scope.md, R3, R8; spec/18_platform.md, R511). -/
namespace Sys2Proof

/-- An epoch field: bits [62:0] (R9). -/
def isEpoch (e : Nat) : Bool := decide (e < 2 ^ 63)

/-- An access that a requester makes: 1, 2, 4 or 8 bytes; a control core at S or V, an engine at C, the service port at S (R8, R511). -/
def Access.wf (a : Access) : Bool :=
  (a.size = 1 || a.size = 2 || a.size = 4 || a.size = 8)
    && (match a.origin with
      | .core _ => a.level ≠ .c
      | .engine .. => a.level = .c
      | .service => a.level = .s)

/-- A service-port request moves at least one byte (R511). -/
def SvcRequest.wf : SvcRequest → Bool
  | .read _ n => n ≠ 0
  | .write _ data => data ≠ []

/-- A command is well formed. -/
def Instr.wf : Instr → Bool
  | .registerWrite a _ _ => a.wf
  | .rcFieldRead a _ => a.wf
  | .servicePortRequest r => r.wf
  | .unitEnWrite a _ _ => a.wf
  | .unitStartComplete _ => true
  | .unitStopComplete _ => true
  | .tick _ => true
  | .epochBoundary _ => true
  | .todMessage bytes _ => decide (bytes.length ≤ 64)
  | .framePulse _ => true
  | .refClockLoss _ => true
  | .frequencyWindowEnd _ _ => true
  | .ptpMessage _ => true
  | .ptpMasterLoss => true
  | .refSelect => true
  | .holdoverLimit => true
  | .merSeedWrite a _ => a.wf
  | .merEplenNextWrite a _ => a.wf
  | .merEplenAtWrite a _ => a.wf
  | .merBudgetWrite a _ _ => a.wf
  | .merEpochRead a => a.wf
  | .sealSend => true
  | .sealReceive e n commands _ asvMax ea _ => isEpoch e && decide (n < 2 ^ 32) && decide (commands < 2 ^ 32) && decide (asvMax < 2 ^ 16) && isEpoch ea
  | .sealAckSend e => isEpoch e
  | .sealAckReceive e => isEpoch e
  | .sealNakReceive e => isEpoch e
  | .epochCommit => true
  | .commitNoteReceive e => isEpoch e
  | .rerunReceive ea _ => isEpoch ea
  | .sealLate => true
  | .applyEpoch => true
  | .cmtJbaseWrite a _ => a.wf
  | .cmtJsizeWrite a _ => a.wf
  | .cmtAppliedRead a => a.wf
  | .interruptTake _ => true
  | .recipeDispatch _ => true
  | .objectLoad _ _ _ => true
  | .coreDbellWrite a _ => a.wf
  | .coreReleaseWrite a _ => a.wf
  | .undefinedInstruction x => (decide (x.met ≠ .clean) || ! Machine.wordDefined x.word)
  | .add _ _ _ _ => true
  | .sub _ _ _ _ => true
  | .and _ _ _ _ => true
  | .or _ _ _ _ => true
  | .xor _ _ _ _ => true
  | .andn _ _ _ _ => true
  | .sll _ _ _ _ => true
  | .srl _ _ _ _ => true
  | .sra _ _ _ _ => true
  | .ror _ _ _ _ => true
  | .slt _ _ _ _ => true
  | .sltu _ _ _ _ => true
  | .min _ _ _ _ => true
  | .max _ _ _ _ => true
  | .minu _ _ _ _ => true
  | .maxu _ _ _ _ => true
  | .clz _ _ _ => true
  | .ctz _ _ _ => true
  | .popc _ _ _ => true
  | .bswap _ _ _ => true
  | .mul _ _ _ _ => true
  | .mulh _ _ _ _ => true
  | .mulhu _ _ _ _ => true
  | .div _ _ _ _ => true
  | .divu _ _ _ _ => true
  | .rem _ _ _ _ => true
  | .remu _ _ _ _ => true
  | .addi _ _ _ _ => true
  | .andi _ _ _ _ => true
  | .ori _ _ _ _ => true
  | .xori _ _ _ _ => true
  | .slti _ _ _ _ => true
  | .sltiu _ _ _ _ => true
  | .slli _ _ _ _ => true
  | .srli _ _ _ _ => true
  | .srai _ _ _ _ => true
  | .rori _ _ _ _ => true
  | .lui _ _ _ => true
  | .lsi _ _ _ _ => true
  | .pcadd _ _ _ => true
  | .lb _ _ _ _ _ => true
  | .lbu _ _ _ _ _ => true
  | .lh _ _ _ _ _ => true
  | .lhu _ _ _ _ _ => true
  | .lw _ _ _ _ _ => true
  | .lwu _ _ _ _ _ => true
  | .ld _ _ _ _ _ => true
  | .sb _ _ _ _ _ => true
  | .sh _ _ _ _ _ => true
  | .sw _ _ _ _ _ => true
  | .sd _ _ _ _ _ => true
  | .hmov _ _ _ => true
  | .hqry _ _ _ => true
  | .hldb _ _ _ _ _ => true
  | .hldh _ _ _ _ _ => true
  | .hldw _ _ _ _ _ => true
  | .hldd _ _ _ _ _ => true
  | .hstb _ _ _ _ _ => true
  | .hsth _ _ _ _ _ => true
  | .hstw _ _ _ _ _ => true
  | .hstd _ _ _ _ _ => true
  | .br _ _ _ => true
  | .beqz _ _ _ => true
  | .bnez _ _ _ => true
  | .bltz _ _ _ => true
  | .bgez _ _ _ => true
  | .blez _ _ _ => true
  | .bgtz _ _ _ => true
  | .jalr _ _ _ _ => true
  | .amoadd _ _ _ _ _ => true
  | .amoswap _ _ _ _ _ => true
  | .cas _ _ _ _ _ => true
  | .fence _ => true
  | .mfsr _ _ _ => true
  | .mtsr _ _ _ => true
  | .sys _ => true
  | .break _ => true
  | .eret _ => true
  | .wfi _ => true
  | .wfiWake _ => true
  | .bget _ _ _ _ => true
  | .bput _ _ _ => true
  | .chunk _ _ _ _ _ => true
  | .digest _ _ _ _ _ => true
  | .dgsave _ _ _ _ => true
  | .dgload _ _ _ _ => true
  | .pack _ _ _ _ _ => true
  | .unpack _ _ _ _ _ => true
  | .encx _ _ _ _ _ => true
  | .decx _ _ _ _ _ => true
  | .ctxsv _ _ _ _ => true
  | .ctxld _ _ _ _ => true
  | .pargen _ _ _ _ _ => true
  | .parfix _ _ _ _ _ => true
  | .lookupFp _ _ _ _ _ => true
  | .lookupMap _ _ _ _ => true
  | .lookupKey _ _ _ _ _ => true
  | .lookupRec _ _ _ _ => true
  | .mread _ _ _ _ => true
  | .mprog _ _ _ _ => true
  | .intent _ _ _ _ => true
  | .qpost _ _ _ _ _ => true
  | .qwait _ _ _ _ => true
  | .qwaitReturn _ => true
  | .twait _ _ _ => true
  | .twaitReturn _ => true
  | .epochStamp _ _ => true
  | .epochRead _ _ => true
  | .epochApplied _ _ => true
  | .ewait _ _ _ => true
  | .ewaitA _ _ _ => true
  | .ewaitReturn _ => true
  | .cplt _ _ _ _ => true
  | .cpltFinish _ _ _ => true
  | .accQwArmWrite a _ _ => a.wf
  | .jobEnd _ _ => true
  | .jobPreempt _ => true
  | .accFailed _ _ => true
  | .stripeCloseTimeout _ => true
  | .stripeProgram _ => true
  | .stripeDoneReceive stripe last => decide (stripe < 2 ^ 32) && isEpoch last
  | .bandNoteReceive band pblk _ pos epoch => decide (band < 2 ^ 24) && decide (pblk < 2 ^ 32) && decide (pos < 2 ^ 5) && isEpoch epoch
  | .bandGiveReceive bands => decide (bands.length ≤ 6) && bands.all (fun b => decide (b < 2 ^ 24))
  | .floorReceive e => isEpoch e
  | .victimSelect _ => true
  | .bandErase _ => true
  | .patrolPassStart => true
  | .patrolBehind => true
  | .checkpointBegin => true
  | .checkpointComplete => true
  | .ckptLate => true
  | .restore => true
  | .modNoteReceive pos state posn _ _ epoch => decide (pos < 2 ^ 5) && decide (state < 2 ^ 3) && decide (posn < 2 ^ 8) && isEpoch epoch
  | .moduleAbsentTimeout _ => true
  | .parModFailWrite a _ _ => a.wf
  | .parModAcceptWrite a _ _ => a.wf
  | .holeNoteReceive band _ epoch => decide (band < 2 ^ 24) && isEpoch epoch
  | .lostNoteReceive stripe _ epoch => decide (stripe < 2 ^ 32) && isEpoch epoch
  | .rebuildStripe _ _ _ => true
  | .reshapeStepIssue => true
  | .powerFail => true
  | .dumpCopyComplete _ => true
  | .dumpTimeLimit => true
  | .parDumpForceWrite a _ => a.wf
  | .mlPerstRelease _ => true
  | .pcieLinkTrained _ _ => true
  | .linkTrainTimeout _ => true
  | .linkLost _ _ => true
  | .moduleCompletion _ _ => true
  | .opTimeout _ _ => true
  | .moduleDmaWrite _ _ _ => true
  | .readPage _ _ _ => true
  | .readRetry _ _ _ => true
  | .programPage _ _ _ data _ => decide (data.length ≤ 262144)
  | .eraseBlock _ _ _ => true
  | .getStatus _ _ _ => true
  | .getGeometry _ _ _ => true
  | .setFence _ _ _ => true
  | .leaseRead _ _ _ => true
  | .leaseHeartbeat _ _ _ => true
  | .leaseAcquire _ _ _ => true
  | .laneLinkChange _ _ _ => true
  | .arpRequest _ _ _ => true
  | .neighbourSolicitation _ _ _ => true
  | .echoRequest _ _ _ _ _ => true
  | .frameDiscard _ _ => true
  | .roceReadResponse _ _ _ _ _ => true
  | .roceAck _ _ => true
  | .roceNak _ _ _ => true
  | .roceRnrNak _ _ => true
  | .roceRnrDelayExpiry _ => true
  | .roceCnp _ => true
  | .roceRateRecover _ => true
  | .roceAckTimeout _ => true
  | .roceRemoteRequest _ _ => true
  | .cmReq _ _ _ _ _ _ => true
  | .cmRtu _ => true
  | .cmDreq _ => true
  | .receiveBufferPost _ => true
  | .nvmeFlush _ => true
  | .nvmeWrite _ => true
  | .nvmeRead _ => true
  | .nvmeCompare _ => true
  | .nvmeWriteZeroes _ => true
  | .nvmeDatasetManagement _ => true
  | .nvmeVerify _ => true
  | .nvmeUndefinedOpcode _ _ => true
  | .kvStore _ => true
  | .kvRetrieve _ => true
  | .kvList _ => true
  | .kvDelete _ => true
  | .kvExist _ => true
  | .connect _ _ => true
  | .propertyGet _ => true
  | .propertySet _ => true
  | .keepAlive _ => true
  | .abort _ => true
  | .asynchronousEventRequest _ => true
  | .getLogPage _ => true
  | .adminCommandHeld _ => true
  | .reservationRegister _ => true
  | .reservationReport _ => true
  | .reservationAcquire _ => true
  | .reservationRelease _ => true
  | .heldDataEntry _ => true
  | .heldResponseEntry _ => true
  | .feAnaWrite a _ _ => a.wf
  | .katoExpired _ => true
  | .feKillWrite a _ _ => a.wf
  | .feSplitWrite a _ _ => a.wf
  | .sdSignalLoss _ => true
  | .groupTrainTimeout _ => true
  | .groupHeartbeatMiss _ => true
  | .linkNoGroupTimeout => true
  | .chrtWrite _ => true
  | .chrtReadReq _ => true
  | .chrtReadResp _ => true
  | .chrtAck _ _ => true
  | .chrtNakSeq _ _ => true
  | .chrtNakLength _ _ => true
  | .chrtNakRemoteAccess _ _ => true
  | .chrtNakRnr _ _ => true
  | .chrtNakInvalid _ _ => true
  | .chrtCredit _ _ => true
  | .chrtCnp _ => true
  | .chrtRetransmitTimeout _ => true
  | .chrtAckTimer _ => true
  | .heartbeatSend => true
  | .heartbeatReceive _ _ => true
  | .intentsReceive _ => true
  | .descriptorReceive stamp cseq nsid ctrl cid opc cset len => isEpoch stamp && decide (cseq < 2 ^ 32) && decide (nsid < 2 ^ 32) && decide (ctrl < 2 ^ 16) && decide (cid < 2 ^ 16) && decide (opc < 2 ^ 8) && decide (cset < 2 ^ 8) && decide (len < 2 ^ 32)
  | .twinEventReceive code side about epoch p0 p1 p2 => decide (code < 2 ^ 16) && decide (side < 2 ^ 8) && decide (about < 2 ^ 32) && isEpoch epoch && decide (p0 < 2 ^ 64) && decide (p1 < 2 ^ 64) && decide (p2 < 2 ^ 64)
  | .controlSendUnknown _ _ => true
  | .softwareSendReceive _ => true
  | .connectionOpen a _ => a.wf
  | .connectionReset a _ => a.wf
  | .sqNop _ => true
  | .sqSend _ => true
  | .sqWrite _ => true
  | .sqRead _ => true
  | .sdMrregWrite a _ => a.wf
  | .sdMrrevWrite a _ => a.wf
  | .mrRevokeDrain => true
  | .udpLinkDownTimeout _ => true
  | .linkKeyFrameSend => true
  | .linkKeyFrameReceive _ => true
  | .helloReceive headId role log jsize asvMax asvCur _ last applied _ => decide (headId < 2 ^ 1) && decide (role < 2 ^ 3) && decide (log < 2 ^ 6) && decide (jsize < 2 ^ 5) && decide (asvMax < 2 ^ 16) && decide (asvCur < 2 ^ 16) && isEpoch last && isEpoch applied
  | .joinAtReceive e _ => isEpoch e
  | .formedReceive p => isEpoch p
  | .clockReceive e0 t0 _ cur next at_ => isEpoch e0 && decide (t0 < 2 ^ 64) && decide (cur < 2 ^ 11) && decide (next < 2 ^ 11) && isEpoch at_
  | .joinOfferReceive cut root last => isEpoch cut && decide (root < 2 ^ 64) && isEpoch last
  | .joinCopy off _ data => decide (off < 2 ^ 48) && data.all (fun x => decide (x.1 < 2 ^ 48))
  | .joinReadyReceive a _ => isEpoch a
  | .joinBackpressureTimeout => true
  | .leaveReceive l => isEpoch l
  | .pairHeartbeatMiss => true
  | .sdPairClaimWrite a _ => a.wf
  | .sdPairLeaveWrite a _ => a.wf
  | .leaveSend => true
  | .sdSyncWrite a _ => a.wf
  | .sdSyncgrpWrite a _ _ => a.wf
  | .memGoWrite a _ => a.wf
  | .fillDone => true
  | .refreshSlot _ => true
  | .memFchgWrite a _ => a.wf
  | .freqChangeWindow _ _ => true
  | .scrubStep _ found => found.all (fun x => decide (x.1 < 2 ^ 42))
  | .memTestRawRead a _ => a.wf
  | .memTestRawWrite a _ => a.wf
  | .memTestCheckWrite a _ => a.wf
  | .mergeEntryTimeout _ => true
  | .veilFillComplete _ _ => true
  | .veilClean a _ => a.wf
  | .veilInvalidate a _ => a.wf
  | .veilCleanInvalidate a _ => a.wf
  | .veilOpDone => true
  | .nonce a => a.wf
  | .unlock a => a.wf
  | .importAkek a => a.wf
  | .loadAkek a => a.wf
  | .unwrap a _ => a.wf
  | .zero a _ => a.wf
  | .dikpub a => a.wf
  | .own a => a.wf
  | .testentry a => a.wf
  | .umbCmdComplete => true
  | .umbDevmapWrite a _ _ => a.wf
  | .alarm _ => true
  | .alarmRelease => true
  | .rngHealthFail _ => true
  | .umbDgGo a _ _ => a.wf
  | .umbDgDone _ => true
  | .thermalThrottleChange _ _ => true
  | .powerOnReset => true
  | .pinReset => true
  | .watchdogExpiry => true
  | .confirmationReset => true
  | .pltRstWrite a _ => a.wf
  | .resetRelease _ _ => true
  | .dayCmdRead a _ => a.wf
  | .dayCmdProgram a _ => a.wf
  | .dayCmdErase a _ => a.wf
  | .dayCmdActivate a => a.wf
  | .dayCmdVerify a _ => a.wf
  | .dayCmdFusekey a _ => a.wf
  | .dayCmdRevoke a _ => a.wf
  | .dayCmdComplete _ => true
  | .dayConfirmWrite a _ => a.wf
  | .pltWdogKick a _ => a.wf
  | .agPostWrite a _ => a.wf
  | .agTokenGain => true
  | .obsReplayWrite a _ => a.wf
  | .svcPerst _ => true
  | .chrtRnrDelayExpiry _ => true

end Sys2Proof
end

