-- ==== Sys2Proof/Decode.lean ====
section
/-! DEFINITION. The command that a word spells by the table's bits: spec/opcode_table.json gives no row any bits (every "fields" is
empty), since the part is a block that takes commands, so no word spells one. -/
namespace Sys2Proof

/-- The command a table word spells: none, for no row of the table has bits. -/
def decodeTableWord (_nbits _w : Nat) : Option Instr := none

end Sys2Proof
end

