-- ==== Sys2Proof/Config.lean ====
section
/-! DEFINITION. What an implementation fixes and what the spec leaves open: opaque constants, of which nothing can be proved.
`freeValue` is the source of every free value (assumption log 3, DESIGN CHOICE); the other constants are functions that a cited standard or
the silicon fixes and that the model does not compute (assumption log 4, DESIGN CHOICE). -/
namespace Sys2Proof.Config

/-- The free value drawn at a count of the state's counter `free`: a value the spec leaves open (R143, R148, R197, R460). -/
opaque freeValue : Nat → Word

/-- The compressor's output for an algorithm, level and window log (R154); it is fixed by these and the input. -/
opaque pack : (alg level wlog : Nat) → List Byte → List Byte

/-- The decompressor's output, none where the input is no frame of the algorithm (R155). -/
opaque unpack : (alg : Nat) → List Byte → Option (List Byte)

/-- The cipher of a mode under a key, at a position, over bytes (R156): encryption. -/
opaque encrypt : (mode : Nat) → (key : List Byte) → (nonce : List Byte) → List Byte → List Byte

/-- The cipher's inverse (R156). -/
opaque decrypt : (mode : Nat) → (key : List Byte) → (nonce : List Byte) → List Byte → List Byte

/-- The tag of an authenticated mode over associated data and ciphertext (R156). -/
opaque tag : (key : List Byte) → (nonce : List Byte) → (aad : List Byte) → List Byte → List Byte

/-- AES key wrap with padding of RFC 5649 under a key: unwrap, none where the integrity check fails (R464). -/
opaque unwrap5649 : (kek : List Byte) → List Byte → Option (List Byte)

/-- AES key wrap with padding of RFC 5649 under a key (R158). -/
opaque wrap5649 : (kek : List Byte) → List Byte → List Byte

/-- ECDSA P-384 verification with SHA-384 of a message under a SEC1 public key (R463, R492). -/
opaque ecdsaVerify : (key : List Byte) → (msg : List Byte) → (sig : List Byte) → Bool

/-- ML-DSA-87 verification of a message under a public key (R492). -/
opaque mldsaVerify : (key : List Byte) → (msg : List Byte) → (sig : List Byte) → Bool

/-- The private scalar of the device identity key from its 512 derived bits (R459). -/
opaque dikScalar : List Byte → List Byte

/-- The SEC1 uncompressed public key of a private scalar (R465). -/
opaque p384Public : List Byte → List Byte

/-- The x-coordinate of an ECDH product, none for a key that is no point of the curve (R465). -/
opaque ecdh : (priv : List Byte) → (pub : List Byte) → Option (List Byte)

/-- The device root secret of the part, and what its overwritten fuses hold after TESTENTRY (R456, R476). -/
opaque deviceRootSecret : (damaged : Bool) → List Byte

/-- Dorbeyr's root key hashes (R492). -/
opaque dorbeyrKeyHash : Nat → List Byte

/-- The check bytes of a DRAM line over its ciphertext (R437, R438). -/
opaque lineCheck : List Byte → List Byte

/-- What the line code makes of ciphertext and check bytes (R437): the ciphertext and the device corrected, if any, or none
where it cannot be corrected. -/
opaque lineDecode : List Byte → List Byte → Option (List Byte × Option (Fin 10))

/-- The controller's poison check pattern, which marks a line as poisoned (R439). -/
opaque poisonCheck : List Byte

/-- What the data cells of a poisoned line hold. -/
opaque poisonData : (line : Nat) → List Byte

end Sys2Proof.Config
end

