-- ==== Sys2Proof/Machine/Bytes.lean ====
section
/-! DEFINITION. Bytes, byte orders, records of bytes and the checks computed over them: CRC-32C (R24, R51, R502), CRC-64
ECMA-182 (R63) and CRC-16 (R200). -/
namespace Sys2Proof.Machine

/-- A number taken modulo 2^64, from an integer. -/
def wrap64 (i : Int) : Nat := (i % (2 ^ 64 : Int)).toNat

/-- Bytes padded with zeros to a length. -/
def padTo (n : Nat) (b : List Byte) : List Byte := b ++ List.replicate (n - b.length) 0

/-- `n` bytes of a number, least significant first (R2). -/
def toBytes : Nat → Nat → List Byte
  | 0, _ => []
  | n + 1, v => BitVec.ofNat 8 v :: toBytes n (v / 256)

/-- The number that bytes spell, least significant first (R2). -/
def ofBytes : List Byte → Nat
  | [] => 0
  | b :: t => b.toNat + 256 * ofBytes t

/-- The number in `n` bytes at an offset of a list of bytes. -/
def leAt (b : List Byte) (off n : Nat) : Nat := ofBytes ((b.drop off).take n)

/-- The number in `n` bytes at an offset, most significant first (network order, R2). -/
def beAt (b : List Byte) (off n : Nat) : Nat := ofBytes ((b.drop off).take n).reverse

/-- Bits [lo+w-1:lo] of a number. -/
def bitsAt (v lo w : Nat) : Nat := v / 2 ^ lo % 2 ^ w

/-- Bit `n` of a number. -/
def bitAt (v n : Nat) : Bool := v / 2 ^ n % 2 = 1

/-- The number with bit `n` set. -/
def setBitN (v n : Nat) : Nat := if bitAt v n then v else v + 2 ^ n

/-- The number with bit `n` clear. -/
def clrBitN (v n : Nat) : Nat := if bitAt v n then v - 2 ^ n else v

/-- How many of the low `n` bits are set. -/
def popN : Nat → Nat → Nat
  | 0, _ => 0
  | n + 1, v => popN n v + (if bitAt v n then 1 else 0)

/-- The numbers of the set bits among the low `n`, in rising order. -/
def bitsSet (n v : Nat) : List Nat := (List.range n).filter (bitAt v)

/-- The quotient rounded up. -/
def ceilDiv (a b : Nat) : Nat := (a + b - 1) / b

/-- Round up to a multiple. -/
def roundUp (a b : Nat) : Nat := ceilDiv a b * b

/-! ### Checks -/

/-- One bit of a reflected CRC of 32 bits. -/
def crcStep32 (poly c : BitVec 32) : BitVec 32 := if c.getLsbD 0 then (c >>> 1) ^^^ poly else c >>> 1

/-- One byte of a reflected CRC of 32 bits. -/
def crcByte32 (poly : BitVec 32) (c : BitVec 32) (b : Byte) : BitVec 32 :=
  let c := c ^^^ b.setWidth 32
  let s := crcStep32 poly
  s (s (s (s (s (s (s (s c)))))))

/-- CRC-32C (Castagnoli), reflected, initial value and final complement of all ones. -/
def crc32c (b : List Byte) : BitVec 32 := ~~~(b.foldl (crcByte32 0x82F63B78#32) 0xFFFFFFFF#32)

/-- One bit of CRC-64 (ECMA-182), not reflected. -/
def crcStep64 (c : BitVec 64) : BitVec 64 := if c.getLsbD 63 then (c <<< 1) ^^^ 0x42F0E1EBA9EA3693#64 else c <<< 1

/-- One byte of CRC-64 (ECMA-182). -/
def crcByte64 (c : BitVec 64) (b : Byte) : BitVec 64 :=
  let c := c ^^^ (b.setWidth 64 <<< 56)
  let s := crcStep64
  s (s (s (s (s (s (s (s c)))))))

/-- CRC-64 (ECMA-182): initial value 0, no reflection, no final change. -/
def crc64 (b : List Byte) : BitVec 64 := b.foldl crcByte64 0#64

/-- One bit of a non-reflected CRC of 16 bits with polynomial 0x1021. -/
def crcStep16 (c : BitVec 16) : BitVec 16 := if c.getLsbD 15 then (c <<< 1) ^^^ 0x1021#16 else c <<< 1

/-- One byte of that CRC. -/
def crcByte16 (c : BitVec 16) (b : Byte) : BitVec 16 :=
  let c := c ^^^ (b.setWidth 16 <<< 8)
  let s := crcStep16
  s (s (s (s (s (s (s (s c)))))))

/-- CRC-16 from an initial value. -/
def crc16 (init : BitVec 16) (b : List Byte) : BitVec 16 := b.foldl crcByte16 init

/-! ### Records of 64 bytes -/

/-- The number in `n` bytes at an offset of a record held as a number. -/
def recAt (r : Nat) (off n : Nat) : Nat := r / 2 ^ (8 * off) % 2 ^ (8 * n)

/-- A record from its fields, each (offset, bytes, value); bytes no field names are zero. -/
def recOf (fs : List (Nat × Nat × Nat)) : Nat :=
  fs.foldl (fun acc (off, n, v) => acc + v % 2 ^ (8 * n) * 2 ^ (8 * off)) 0

end Sys2Proof.Machine
end

