-- ==== Sys2Proof/Machine/Tbl.lean ====
section
/-! DEFINITION. Sparse tables: a list of (key, value) pairs in one canonical form, keys strictly rising. Memory, the
register fields and every numbered collection of the state are held this way, so that equal contents are equal data. -/
namespace Sys2Proof.Machine

/-- A sparse table from natural numbers. -/
abbrev Tbl (α : Type) := List (Nat × α)

/-- The entry at a key, none where the table lists none. -/
def Tbl.find {α : Type} : Tbl α → Nat → Option α
  | [], _ => none
  | (j, v) :: t, k => if j = k then some v else Tbl.find t k

/-- The table without what it lists at a key. -/
def Tbl.del {α : Type} : Tbl α → Nat → Tbl α
  | [], _ => []
  | (j, v) :: t, k => if j = k then Tbl.del t k else (j, v) :: Tbl.del t k

/-- The table with an entry put at its place in the rising order, replacing an earlier one. -/
def Tbl.put {α : Type} : Tbl α → Nat → α → Tbl α
  | [], k, v => [(k, v)]
  | (j, w) :: t, k, v =>
    if k < j then (k, v) :: (j, w) :: t else if k = j then (k, v) :: t else (j, w) :: Tbl.put t k v

/-- The value at a key, the default where none is listed. -/
def Tbl.get {α : Type} (d : α) (t : Tbl α) (k : Nat) : α := (Tbl.find t k).getD d

/-- Write a value; a value equal to the default is not listed. -/
def Tbl.set {α : Type} [DecidableEq α] (d : α) (t : Tbl α) (k : Nat) (v : α) : Tbl α :=
  if v = d then Tbl.del t k else Tbl.put t k v

/-- Change the entry at a key through a function; nothing where none is listed. -/
def Tbl.upd {α : Type} (t : Tbl α) (k : Nat) (f : α → α) : Tbl α :=
  match Tbl.find t k with
  | some v => Tbl.put t k (f v)
  | none => t

/-- The keys rise strictly and all lie above a bound. -/
def Tbl.risesFrom {α : Type} : Option Nat → Tbl α → Bool
  | _, [] => true
  | b, (k, _) :: t => (match b with | none => true | some x => decide (x < k)) && Tbl.risesFrom (some k) t

/-- The canonical form: keys strictly rising. -/
def Tbl.ordered {α : Type} (t : Tbl α) : Bool := Tbl.risesFrom none t

/-- The canonical form of a table with a default: keys strictly rising, no entry equal to the default. -/
def Tbl.wf {α : Type} [DecidableEq α] (d : α) (t : Tbl α) : Bool :=
  Tbl.ordered t && t.all (fun e => decide (e.2 ≠ d))

end Sys2Proof.Machine
end

