-- ==== Sys2Proof/Machine/Field.lean ====
section
/-! DEFINITION. What a register field is (spec/00_scope.md, "Registers", R3 to R8): where it stands, how it is accessed,
what it holds after reset and which level reaches it. The map of all fields is Sys2Proof/Machine/RegMap.lean. -/
namespace Sys2Proof.Machine

/-- The access types of R5. -/
inductive Acc
  | ro | rw | rwo | w1c | w1s | wo | rc
  deriving DecidableEq, Repr

/-- One register field. `n1`, `s1`, `n2`, `s2` repeat its register (count and stride), `bn`, `bs` repeat the field within
the register; `rstep` is what its reset value grows by from one element to the next (UMB_DEVMAP: the role number); `core` names
the control core whose own copy this is, one above its number, 0 for a field that is no such copy. -/
structure Field where
  addr : Nat
  lo : Nat
  width : Nat
  acc : Acc
  reset : Nat
  level : Level
  n1 : Nat := 1
  s1 : Nat := 8
  n2 : Nat := 1
  s2 : Nat := 8
  bn : Nat := 1
  bs : Nat := 0
  rstep : Nat := 0
  core : Nat := 0
  deriving DecidableEq, Repr

/-- A field that stands once. -/
def Field.one (addr lo width : Nat) (acc : Acc) (reset : Nat) (level : Level) : Field :=
  { addr, lo, width, acc, reset, level }

/-- A field that repeats. -/
def Field.arr (addr lo width : Nat) (acc : Acc) (reset : Nat) (level : Level) (n1 s1 n2 s2 bn bs : Nat) : Field :=
  { addr, lo, width, acc, reset, level, n1, s1, n2, s2, bn, bs }

/-- One element of a repeating field. -/
def Field.el (f : Field) (i j b : Nat) : Field :=
  { addr := f.addr + i * f.s1 + j * f.s2, lo := f.lo + b * f.bs, width := f.width, acc := f.acc,
    reset := f.reset + f.rstep * (i * f.bn + b), level := f.level, core := f.core }

/-- Element `i` of a field whose register repeats. -/
abbrev Field.nth (f : Field) (i : Nat) : Field := f.el i 0 0

/-- Element `b` of a field that repeats within its register. -/
abbrev Field.bit (f : Field) (b : Nat) : Field := f.el 0 0 b

/-- The key of a field element in the state's table of fields. -/
def Field.key (f : Field) : Nat := f.core * 2 ^ 56 + (f.addr * 64 + f.lo)

/-- The elements of a field that stand in the register at an address. -/
def Field.covering (f : Field) (a : Nat) : List Field :=
  if a < f.addr then [] else
    let d := a - f.addr
    let i := d / f.s1
    let r := d % f.s1
    let j := r / f.s2
    if r % f.s2 = 0 ∧ i < f.n1 ∧ j < f.n2 then (List.range f.bn).map (fun b => f.el i j b) else []

end Sys2Proof.Machine
end

