-- ==== Sys2Proof/Machine/RegMap.lean ====
section
/-! DEFINITION. The register map: one descriptor for every field that a field map of the spec lists (chapters 02, 03,
04, 06, 08, 09, 10, 12, 13, 14, 15, 16, 17 and 18, sections "Registers"): its address, place, access type, reset value,
level and how it repeats. A reset given as strap, fuse, from record, latch or held has 0 here: RESET_RELEASE loads it. -/
namespace Sys2Proof.Machine.Reg

/-! ### Block 0: platform -/

def PLT_SREV_STEP : Field := .one 0x100000000 0 8 .ro 0xA1 .c
def PLT_SREV_PART : Field := .one 0x100000000 8 16 .ro 0x9CB .c
def PLT_STRAP_HEAD_ID : Field := .one 0x100000008 0 1 .ro 0 .c
def PLT_STRAP_RECOV : Field := .one 0x100000008 1 1 .ro 0 .s
def PLT_STRAP_SVCEN : Field := .one 0x100000008 2 1 .ro 0 .s
def PLT_RCAUSE_KIND : Field := .one 0x100000010 0 3 .ro 0 .s
def PLT_RCAUSE_DUMPED : Field := .one 0x100000010 3 1 .ro 0 .s
def PLT_RST_GO : Field := .one 0x100000018 0 1 .wo 0 .v
def PLT_RST_DUMP : Field := .one 0x100000018 1 1 .wo 0 .v
def PLT_WDOG_PERIOD : Field := .one 0x100000020 0 16 .rw 0x2710 .v
def PLT_WDOG_EN : Field := .one 0x100000020 16 1 .rwo 0 .v
def PLT_WDOG_KICK : Field := .one 0x100000020 17 1 .wo 0 .v
def PLT_WDOG_REMAIN : Field := .one 0x100000020 32 32 .ro 0 .v
def PLT_TEMP_TJ : Field := .one 0x100000028 0 12 .ro 0 .c
def PLT_TEMP_SENSOR : Field := .one 0x100000028 16 8 .ro 0 .s
def PLT_THERM_THROTTLE : Field := .one 0x100000030 0 8 .rw 0x6E .s
def PLT_THERM_ACTIVE : Field := .one 0x100000030 8 1 .ro 0 .c
def PLT_THERM_HYST : Field := .one 0x100000030 16 4 .rw 5 .s
def PLT_ERR_CFGERR : Field := .one 0x100000038 0 1 .w1c 0 .s
def DAY_STS_SLOT : Field := .one 0x100001000 0 1 .ro 0 .s
def DAY_STS_TRIAL : Field := .one 0x100001000 1 1 .ro 0 .s
def DAY_STS_RECOVERY : Field := .one 0x100001000 2 1 .ro 0 .s
def DAY_STS_PATCHDEF : Field := .one 0x100001000 3 1 .ro 0 .s
def DAY_STS_FLDEVOK : Field := .one 0x100001000 4 2 .ro 0 .s
def DAY_STS_VERIFIEDA : Field := .one 0x100001000 6 1 .ro 0 .s
def DAY_STS_VERIFIEDB : Field := .one 0x100001000 7 1 .ro 0 .s
def DAY_STS_LOGFREE : Field := .one 0x100001000 8 24 .ro 0 .s
def DAY_STS_SECVER : Field := .one 0x100001000 32 32 .ro 0 .s
def DAY_CTL_WINDOW : Field := .one 0x100001008 0 12 .rw 0x258 .v
def DAY_CTL_BURN : Field := .one 0x100001008 12 1 .rw 0 .v
def DAY_CMD_OP : Field := .one 0x100001010 0 4 .wo 0 .v
def DAY_CMD_DEV : Field := .one 0x100001010 4 2 .wo 0 .v
def DAY_CMD_IDX : Field := .one 0x100001010 6 2 .wo 0 .v
def DAY_CMD_BUSY : Field := .one 0x100001010 8 1 .ro 0 .v
def DAY_CMD_STATUS : Field := .one 0x100001010 16 8 .ro 0 .v
def DAY_FLADDR_ADDR : Field := .one 0x100001018 0 29 .rw 0 .v
def DAY_MEMADDR_ADDR : Field := .one 0x100001020 0 48 .rw 0 .v
def DAY_LEN_LEN : Field := .one 0x100001028 0 28 .rw 0 .v
def DAY_CONFIRM_GO : Field := .one 0x100001030 0 1 .wo 0 .s
def DAY_WINLEFT_EPOCHS : Field := .one 0x100001038 0 32 .ro 0 .s
def DAY_KEYS_OEMSET : Field := .one 0x100001040 0 4 .ro 0 .s
def DAY_KEYS_OEMREV : Field := .one 0x100001040 4 4 .ro 0 .s
def DAY_KEYS_DREV : Field := .one 0x100001040 8 4 .ro 0 .s
def DAY_ERR_CFGERR : Field := .one 0x100001048 0 1 .w1c 0 .s
def DAY_ERR_FLASH : Field := .one 0x100001048 1 1 .w1c 0 .s
def AG_STS_NEXTSEQ : Field := .one 0x100002000 0 32 .ro 0 .s
def AG_STS_EXHAUSTED : Field := .one 0x100002000 32 1 .ro 0 .s
def AG_STS_TOKENS : Field := .one 0x100002000 33 13 .ro 0x1000 .s
def AG_HEAD_POS : Field := .one 0x100002008 0 17 .ro 0 .s
def AG_DROP_DROP : Field := .arr 0x100002010 0 16 .ro 0 .s 1 8 1 8 4 16
def AG_POST_POST : Field := .one 0x100002018 0 64 .wo 0 .s
def AG_ERR_CFGERR : Field := .one 0x100002020 0 1 .w1c 0 .s
def OBS_CTL_LANEEN : Field := .one 0x100003000 0 4 .rw 0 .s
def OBS_CTL_TYPES : Field := .one 0x100003000 4 5 .rw 0 .s
def OBS_CTL_REPLAY : Field := .one 0x100003000 9 1 .wo 0 .s
def OBS_CTL_EPLOG : Field := .one 0x100003000 16 5 .rw 0x10 .s
def OBS_STS_DROPPED : Field := .one 0x100003008 0 32 .rc 0 .s
def OBS_STS_REPLAYING : Field := .one 0x100003008 32 1 .ro 0 .s
def OBS_CMDF_NSID : Field := .one 0x100003010 0 32 .rw 0 .s
def OBS_CMDF_ERRONLY : Field := .one 0x100003010 32 1 .rw 0 .s
def OBS_SNAPLIST_ADDR : Field := .arr 0x100003100 0 48 .rw 0 .s 32 8 1 8 1 0

/-- The fields of block 0, part 0. -/
def block0_0 : List Field := [
  PLT_SREV_STEP, PLT_SREV_PART, PLT_STRAP_HEAD_ID, PLT_STRAP_RECOV, PLT_STRAP_SVCEN,
  PLT_RCAUSE_KIND, PLT_RCAUSE_DUMPED, PLT_RST_GO, PLT_RST_DUMP, PLT_WDOG_PERIOD,
  PLT_WDOG_EN, PLT_WDOG_KICK, PLT_WDOG_REMAIN, PLT_TEMP_TJ, PLT_TEMP_SENSOR,
  PLT_THERM_THROTTLE, PLT_THERM_ACTIVE, PLT_THERM_HYST, PLT_ERR_CFGERR, DAY_STS_SLOT,
  DAY_STS_TRIAL, DAY_STS_RECOVERY, DAY_STS_PATCHDEF, DAY_STS_FLDEVOK, DAY_STS_VERIFIEDA,
  DAY_STS_VERIFIEDB, DAY_STS_LOGFREE, DAY_STS_SECVER, DAY_CTL_WINDOW, DAY_CTL_BURN,
  DAY_CMD_OP, DAY_CMD_DEV, DAY_CMD_IDX, DAY_CMD_BUSY, DAY_CMD_STATUS,
  DAY_FLADDR_ADDR, DAY_MEMADDR_ADDR, DAY_LEN_LEN, DAY_CONFIRM_GO, DAY_WINLEFT_EPOCHS]

/-- The fields of block 0, part 1. -/
def block0_1 : List Field := [
  DAY_KEYS_OEMSET, DAY_KEYS_OEMREV, DAY_KEYS_DREV, DAY_ERR_CFGERR, DAY_ERR_FLASH,
  AG_STS_NEXTSEQ, AG_STS_EXHAUSTED, AG_STS_TOKENS, AG_HEAD_POS, AG_DROP_DROP,
  AG_POST_POST, AG_ERR_CFGERR, OBS_CTL_LANEEN, OBS_CTL_TYPES, OBS_CTL_REPLAY,
  OBS_CTL_EPLOG, OBS_STS_DROPPED, OBS_STS_REPLAYING, OBS_CMDF_NSID, OBS_CMDF_ERRONLY,
  OBS_SNAPLIST_ADDR]

/-- The fields of block 0. -/
def block0 : List Field := block0_0 ++ block0_1

/-! ### Block 1: front -/

def FE_CTL_RNRT : Field := .one 0x101000000 0 5 .rw 1 .s
def FE_CTL_ACKTO : Field := .one 0x101000000 8 10 .rw 0x14 .s
def FE_CTL_HOLDCORE : Field := .one 0x101000000 24 5 .rw 0 .s
def FE_STS_NOTREADY : Field := .one 0x101000008 0 1 .ro 1 .c
def FE_STS_LAG : Field := .one 0x101000008 1 1 .ro 0 .c
def FE_STS_JRN : Field := .one 0x101000008 2 1 .ro 0 .c
def FE_STS_DUMP : Field := .one 0x101000008 3 1 .ro 0 .c
def FE_STS_CREDIT : Field := .one 0x101000008 4 1 .ro 0 .c
def FE_STS_FG : Field := .one 0x101000008 5 1 .ro 0 .c
def FE_STS_POOL : Field := .one 0x101000008 6 1 .ro 0 .c
def FE_STS_FENCED : Field := .one 0x101000008 7 1 .ro 0 .c
def FE_STS_LEAVE : Field := .one 0x101000008 8 1 .ro 0 .c
def FE_ADMIT_MAX : Field := .one 0x101000010 0 19 .rw 0x40000 .s
def FE_ADMIT_CUR : Field := .one 0x101000010 32 19 .ro 0 .s
def FE_CC_ECNEN : Field := .one 0x101000018 0 1 .rw 1 .s
def FE_CC_CNPINT : Field := .one 0x101000018 8 8 .rw 0x32 .s
def FE_CC_RAI : Field := .one 0x101000018 16 16 .rw 0x190 .s
def FE_CC_RECOVER : Field := .one 0x101000018 32 16 .rw 0x37 .s
def FE_CC_MINRATE : Field := .one 0x101000018 48 16 .rw 0xA .s
def FE_PTP_PORT : Field := .one 0x101000020 0 3 .rw 0 .s
def FE_PTP_SUB : Field := .one 0x101000020 3 2 .rw 0 .s
def FE_PTP_DOMAIN : Field := .one 0x101000020 5 8 .rw 0 .s
def FE_PTP_ENCAP : Field := .one 0x101000020 13 2 .rw 0 .s
def FE_HOLD_PI : Field := .one 0x101000028 0 16 .ro 0 .s
def FE_HOLD_BASE : Field := .one 0x101000028 19 29 .rw 0 .s
def FE_TBLBASE_BASE : Field := .one 0x101000030 21 27 .rw 0 .s
def FE_ANA_GRP : Field := .arr 0x101000040 0 4 .rw 2 .s 16 8 1 8 16 4
def FE_P_CTL_EN : Field := .arr 0x101000100 0 1 .rw 0 .s 8 32 1 8 1 0
def FE_P_CTL_SPLIT : Field := .arr 0x101000100 1 2 .rw 0 .s 8 32 1 8 1 0
def FE_P_CTL_SUBEN : Field := .arr 0x101000100 4 4 .rw 0 .s 8 32 1 8 1 0
def FE_P_CTL_PFC : Field := .arr 0x101000100 8 8 .rw 0 .s 8 32 1 8 1 0
def FE_P_CTL_MAXFRAME : Field := .arr 0x101000100 16 14 .rw 0x2400 .s 8 32 1 8 1 0
def FE_P_CTL_PMTU : Field := .arr 0x101000100 32 2 .rw 3 .s 8 32 1 8 1 0
def FE_P_STS_STATE : Field := .arr 0x101000108 0 2 .ro 0 .c 8 32 1 8 1 0
def FE_P_STS_REARM : Field := .arr 0x101000108 2 1 .ro 0 .s 8 32 1 8 1 0
def FE_P_STS_SUBUP : Field := .arr 0x101000108 3 4 .ro 0 .c 8 32 1 8 1 0
def FE_P_STS_LANEUP : Field := .arr 0x101000108 7 4 .ro 0 .s 8 32 1 8 1 0
def FE_P_LANE_MAP : Field := .arr 0x101000110 0 8 .ro 0xE4 .s 8 32 1 8 1 0
def FE_P_CNT_DROP : Field := .arr 0x101000118 0 32 .rc 0 .s 8 32 1 8 1 0
def FE_P_CNT_CNPRX : Field := .arr 0x101000118 32 16 .rc 0 .s 8 32 1 8 1 0
def FE_P_CNT_CNPTX : Field := .arr 0x101000118 48 16 .rc 0 .s 8 32 1 8 1 0
def FE_C_CTL_EN : Field := .arr 0x101010000 0 1 .rw 0 .s 4096 16 1 8 1 0
def FE_C_CTL_KILL : Field := .arr 0x101010000 1 1 .wo 0 .s 4096 16 1 8 1 0
def FE_C_STS_STATE : Field := .arr 0x101010008 0 2 .ro 0 .s 4096 16 1 8 1 0
def FE_C_STS_REARM : Field := .arr 0x101010008 2 1 .ro 0 .s 4096 16 1 8 1 0
def FE_C_STS_RDY : Field := .arr 0x101010008 3 1 .ro 0 .s 4096 16 1 8 1 0
def FE_C_STS_SHST : Field := .arr 0x101010008 4 2 .ro 0 .s 4096 16 1 8 1 0
def FE_C_STS_NIOQ : Field := .arr 0x101010008 8 8 .ro 0 .s 4096 16 1 8 1 0
def FE_C_STS_SUBSYS : Field := .arr 0x101010008 16 16 .ro 0 .s 4096 16 1 8 1 0
def FE_ERR_CFGERR : Field := .one 0x101000038 0 1 .w1c 0 .s
def FE_ERR_BADPOST : Field := .one 0x101000038 1 1 .w1c 0 .s
def FE_ERR_HOLDFULL : Field := .one 0x101000038 2 1 .w1c 0 .s
def FE_ERR_QPERR : Field := .one 0x101000038 3 1 .w1c 0 .s
def FE_ERR_LANEOUT : Field := .one 0x101000038 4 1 .w1c 0 .s

/-- The fields of block 1, part 0. -/
def block1_0 : List Field := [
  FE_CTL_RNRT, FE_CTL_ACKTO, FE_CTL_HOLDCORE, FE_STS_NOTREADY, FE_STS_LAG,
  FE_STS_JRN, FE_STS_DUMP, FE_STS_CREDIT, FE_STS_FG, FE_STS_POOL,
  FE_STS_FENCED, FE_STS_LEAVE, FE_ADMIT_MAX, FE_ADMIT_CUR, FE_CC_ECNEN,
  FE_CC_CNPINT, FE_CC_RAI, FE_CC_RECOVER, FE_CC_MINRATE, FE_PTP_PORT,
  FE_PTP_SUB, FE_PTP_DOMAIN, FE_PTP_ENCAP, FE_HOLD_PI, FE_HOLD_BASE,
  FE_TBLBASE_BASE, FE_ANA_GRP, FE_P_CTL_EN, FE_P_CTL_SPLIT, FE_P_CTL_SUBEN,
  FE_P_CTL_PFC, FE_P_CTL_MAXFRAME, FE_P_CTL_PMTU, FE_P_STS_STATE, FE_P_STS_REARM,
  FE_P_STS_SUBUP, FE_P_STS_LANEUP, FE_P_LANE_MAP, FE_P_CNT_DROP, FE_P_CNT_CNPRX]

/-- The fields of block 1, part 1. -/
def block1_1 : List Field := [
  FE_P_CNT_CNPTX, FE_C_CTL_EN, FE_C_CTL_KILL, FE_C_STS_STATE, FE_C_STS_REARM,
  FE_C_STS_RDY, FE_C_STS_SHST, FE_C_STS_NIOQ, FE_C_STS_SUBSYS, FE_ERR_CFGERR,
  FE_ERR_BADPOST, FE_ERR_HOLDFULL, FE_ERR_QPERR, FE_ERR_LANEOUT]

/-- The fields of block 1. -/
def block1 : List Field := block1_0 ++ block1_1

/-! ### Block 2: meridian -/

def MER_CTL_PRI0 : Field := .one 0x102000000 0 2 .rw 0 .s
def MER_CTL_PRI1 : Field := .one 0x102000000 2 2 .rw 1 .s
def MER_CTL_PRI2 : Field := .one 0x102000000 4 2 .rw 3 .s
def MER_CTL_PTPEN : Field := .one 0x102000000 6 1 .rw 0 .s
def MER_CTL_NONREV : Field := .one 0x102000000 7 1 .rw 0 .s
def MER_CTL_TWINSTEER : Field := .one 0x102000000 8 1 .rw 1 .s
def MER_CTL_SLEW : Field := .one 0x102000000 16 8 .rw 0xA .s
def MER_CTL_PTPWIN : Field := .one 0x102000000 24 8 .rw 5 .s
def MER_CTL_TWINTOL : Field := .one 0x102000000 32 16 .rw 0x32 .s
def MER_STS_SRC : Field := .one 0x102000008 0 3 .ro 6 .c
def MER_STS_EPVALID : Field := .one 0x102000008 3 1 .ro 0 .c
def MER_STS_ALIGNING : Field := .one 0x102000008 4 1 .ro 0 .c
def MER_STS_QUALA : Field := .one 0x102000008 5 1 .ro 0 .c
def MER_STS_QUALB : Field := .one 0x102000008 6 1 .ro 0 .c
def MER_STS_QUALP : Field := .one 0x102000008 7 1 .ro 0 .c
def MER_STS_TODOK : Field := .one 0x102000008 8 1 .ro 0 .c
def MER_STS_EPLENPEND : Field := .one 0x102000008 9 1 .ro 0 .c
def MER_EPLEN_CUR : Field := .one 0x102000030 0 11 .ro 0xFA .c
def MER_EPLEN_NEXT : Field := .one 0x102000030 16 11 .rw 0xFA .s
def MER_ERR_LOSSA : Field := .one 0x102000048 0 1 .w1c 0 .s
def MER_ERR_LOSSB : Field := .one 0x102000048 1 1 .w1c 0 .s
def MER_ERR_LOSSP : Field := .one 0x102000048 2 1 .w1c 0 .s
def MER_ERR_PULSEA : Field := .one 0x102000048 3 1 .w1c 0 .s
def MER_ERR_PULSEB : Field := .one 0x102000048 4 1 .w1c 0 .s
def MER_ERR_TODBAD : Field := .one 0x102000048 5 1 .w1c 0 .s
def MER_ERR_EPMIS : Field := .one 0x102000048 6 1 .w1c 0 .s
def MER_ERR_LENMIS : Field := .one 0x102000048 7 1 .w1c 0 .s
def MER_ERR_PHASEFAR : Field := .one 0x102000048 8 1 .w1c 0 .s
def MER_ERR_HOLDEXP : Field := .one 0x102000048 9 1 .w1c 0 .s
def MER_ERR_TWINDIFF : Field := .one 0x102000048 10 1 .w1c 0 .s
def MER_ERR_CFGERR : Field := .one 0x102000048 11 1 .w1c 0 .s
def MER_BUDA_GC : Field := .one 0x102000070 0 11 .rw 0x19 .s
def MER_BUDA_FOLD : Field := .one 0x102000070 16 11 .rw 0xD .s
def MER_BUDA_PATROL : Field := .one 0x102000070 32 11 .rw 5 .s
def MER_BUDA_SCRUB : Field := .one 0x102000070 48 11 .rw 3 .s
def MER_BUDB_CKPT : Field := .one 0x102000078 0 11 .rw 5 .s
def MER_BUDB_REBUILD : Field := .one 0x102000078 16 11 .rw 0x4B .s
def MER_BUDB_RESHAPE : Field := .one 0x102000078 32 11 .rw 0 .s
def MER_BUDB_AUDIT : Field := .one 0x102000078 48 11 .rw 0xA .s
def MER_EPOCH_EPOCH : Field := .one 0x102000010 0 63 .ro 0x7FFFFFFFFFFFFFFF .c
def MER_TIE_TIE : Field := .one 0x102000018 0 11 .ro 0 .c
def MER_TICK_TICK : Field := .one 0x102000020 0 64 .ro 0 .c
def MER_TAI_TAI : Field := .one 0x102000028 0 64 .ro 0 .c
def MER_EPLEN_AT_AT : Field := .one 0x102000038 0 63 .rw 0x7FFFFFFFFFFFFFFF .s
def MER_ORIGIN_ORIGIN : Field := .one 0x102000040 0 64 .ro 0 .c
def MER_HOLD_HOLD : Field := .one 0x102000050 0 64 .ro 0 .s
def MER_HOLDMAX_HOLDMAX : Field := .one 0x102000058 0 32 .rw 0xEE6B280 .s
def MER_TWIN_DIFF : Field := .one 0x102000060 0 16 .ro 0 .s
def MER_SEED_SEED : Field := .one 0x102000068 0 63 .wo 0 .v
def CMT_CTL_LAGMAX : Field := .one 0x102000100 0 10 .rw 0x20 .s
def CMT_CTL_SEALMAX : Field := .one 0x102000100 16 8 .rw 0x10 .s
def CMT_CTL_JLOW : Field := .one 0x102000100 32 16 .rw 0x100 .s
def CMT_STS_LAG : Field := .one 0x102000108 0 10 .ro 0 .c
def CMT_STS_BPLAG : Field := .one 0x102000108 10 1 .ro 0 .c
def CMT_STS_BPJRN : Field := .one 0x102000108 11 1 .ro 0 .c
def CMT_STS_DIVERGED : Field := .one 0x102000108 12 1 .ro 0 .s
def CMT_STS_APPLYBUSY : Field := .one 0x102000108 13 1 .ro 0 .c
def CMT_LAST_EPOCH : Field := .one 0x102000110 0 63 .ro 0x7FFFFFFFFFFFFFFF .c
def CMT_APPLIED_EPOCH : Field := .one 0x102000118 0 63 .ro 0x7FFFFFFFFFFFFFFF .c
def CMT_SEALED_EPOCH : Field := .one 0x102000120 0 63 .ro 0x7FFFFFFFFFFFFFFF .s
def CMT_TWSEALED_EPOCH : Field := .one 0x102000128 0 63 .ro 0x7FFFFFFFFFFFFFFF .s
def CMT_JBASE_BASE : Field := .one 0x102000138 0 48 .rwo 0 .s
def CMT_JSIZE_GIB : Field := .one 0x102000140 0 5 .rwo 0 .s
def CMT_NOOP_COUNT : Field := .one 0x102000150 0 32 .rc 0 .s
def CMT_DIGEST_D : Field := .arr 0x102000158 0 64 .ro 0 .s 4 8 1 8 1 0
def CMT_ASV_CUR : Field := .one 0x102000130 0 16 .ro 0 .c
def CMT_ASV_MAX : Field := .one 0x102000130 16 16 .rwo 0 .v
def CMT_ASV_LIMIT : Field := .one 0x102000130 32 16 .ro 0 .c
def CMT_ERR_CFGERR : Field := .one 0x102000148 0 1 .w1c 0 .s
def CMT_ERR_LAGHIGH : Field := .one 0x102000148 1 1 .w1c 0 .s
def CMT_ERR_SEALLATE : Field := .one 0x102000148 2 1 .w1c 0 .s
def CMT_ERR_DIVERGE : Field := .one 0x102000148 3 1 .w1c 0 .s
def CMT_ERR_INTENTCRC : Field := .one 0x102000148 4 1 .w1c 0 .s
def CMT_ERR_JRNLOW : Field := .one 0x102000148 5 1 .w1c 0 .s
def CMT_ERR_ASVREJ : Field := .one 0x102000148 6 1 .w1c 0 .s
def CMT_ERR_EPLENLATE : Field := .one 0x102000148 7 1 .w1c 0 .s
def CMT_ERR_SNAPFULL : Field := .one 0x102000148 8 1 .w1c 0 .s

/-- The fields of block 2, part 0. -/
def block2_0 : List Field := [
  MER_CTL_PRI0, MER_CTL_PRI1, MER_CTL_PRI2, MER_CTL_PTPEN, MER_CTL_NONREV,
  MER_CTL_TWINSTEER, MER_CTL_SLEW, MER_CTL_PTPWIN, MER_CTL_TWINTOL, MER_STS_SRC,
  MER_STS_EPVALID, MER_STS_ALIGNING, MER_STS_QUALA, MER_STS_QUALB, MER_STS_QUALP,
  MER_STS_TODOK, MER_STS_EPLENPEND, MER_EPLEN_CUR, MER_EPLEN_NEXT, MER_ERR_LOSSA,
  MER_ERR_LOSSB, MER_ERR_LOSSP, MER_ERR_PULSEA, MER_ERR_PULSEB, MER_ERR_TODBAD,
  MER_ERR_EPMIS, MER_ERR_LENMIS, MER_ERR_PHASEFAR, MER_ERR_HOLDEXP, MER_ERR_TWINDIFF,
  MER_ERR_CFGERR, MER_BUDA_GC, MER_BUDA_FOLD, MER_BUDA_PATROL, MER_BUDA_SCRUB,
  MER_BUDB_CKPT, MER_BUDB_REBUILD, MER_BUDB_RESHAPE, MER_BUDB_AUDIT, MER_EPOCH_EPOCH]

/-- The fields of block 2, part 1. -/
def block2_1 : List Field := [
  MER_TIE_TIE, MER_TICK_TICK, MER_TAI_TAI, MER_EPLEN_AT_AT, MER_ORIGIN_ORIGIN,
  MER_HOLD_HOLD, MER_HOLDMAX_HOLDMAX, MER_TWIN_DIFF, MER_SEED_SEED, CMT_CTL_LAGMAX,
  CMT_CTL_SEALMAX, CMT_CTL_JLOW, CMT_STS_LAG, CMT_STS_BPLAG, CMT_STS_BPJRN,
  CMT_STS_DIVERGED, CMT_STS_APPLYBUSY, CMT_LAST_EPOCH, CMT_APPLIED_EPOCH, CMT_SEALED_EPOCH,
  CMT_TWSEALED_EPOCH, CMT_JBASE_BASE, CMT_JSIZE_GIB, CMT_NOOP_COUNT, CMT_DIGEST_D,
  CMT_ASV_CUR, CMT_ASV_MAX, CMT_ASV_LIMIT, CMT_ERR_CFGERR, CMT_ERR_LAGHIGH,
  CMT_ERR_SEALLATE, CMT_ERR_DIVERGE, CMT_ERR_INTENTCRC, CMT_ERR_JRNLOW, CMT_ERR_ASVREJ,
  CMT_ERR_EPLENLATE, CMT_ERR_SNAPFULL]

/-- The fields of block 2. -/
def block2 : List Field := block2_0 ++ block2_1

/-! ### Block 3: cores -/

def CORE_VBASE_S_BASE : Field := .one 0x103000000 12 36 .rw 0 .s
def CORE_VBASE_V_BASE : Field := .one 0x103000008 12 36 .rw 0 .v
def CORE_EPC_S_PC : Field := .one 0x103000010 0 64 .rw 0 .s
def CORE_EPC_V_PC : Field := .one 0x103000090 0 64 .rw 0 .v
def CORE_EST_S_ST : Field := .one 0x103000018 0 64 .rw 0 .s
def CORE_EST_V_ST : Field := .one 0x103000098 0 64 .rw 0 .v
def CORE_EADDR_S_ADDR : Field := .one 0x103000028 0 48 .ro 0 .s
def CORE_EADDR_V_ADDR : Field := .one 0x1030000A8 0 48 .ro 0 .v
def CORE_IPEND_PEND : Field := .one 0x103000030 0 5 .w1c 0 .s
def CORE_IMASK_MASK : Field := .one 0x103000038 0 5 .rw 0 .s
def CORE_RTBASE_BASE : Field := .one 0x103000100 6 42 .rw 0 .s
def CORE_RTROWS_ROWS : Field := .one 0x103000108 0 15 .rw 1 .s
def CORE_DBELL_RING : Field := .one 0x103000110 0 32 .wo 0 .s
def CORE_RELEASE_CORE : Field := .one 0x103000118 1 31 .w1s 0 .v
def CORE_ECAUSE_S_CODE : Field := .one 0x103000020 0 8 .ro 0 .s
def CORE_ECAUSE_V_CODE : Field := .one 0x1030000A0 0 8 .ro 0 .v
def CORE_ECAUSE_S_FROM : Field := .one 0x103000020 8 2 .ro 0 .s
def CORE_ECAUSE_V_FROM : Field := .one 0x1030000A0 8 2 .ro 0 .v
def CORE_ECAUSE_S_STORE : Field := .one 0x103000020 10 1 .ro 0 .s
def CORE_ECAUSE_V_STORE : Field := .one 0x1030000A0 10 1 .ro 0 .v
def CORE_ECAUSE_S_FETCH : Field := .one 0x103000020 11 1 .ro 0 .s
def CORE_ECAUSE_V_FETCH : Field := .one 0x1030000A0 11 1 .ro 0 .v
def CORE_ECAUSE_S_IRQ : Field := .one 0x103000020 16 5 .ro 0 .s
def CORE_ECAUSE_V_IRQ : Field := .one 0x1030000A0 16 5 .ro 0 .v
def CORE_GRANT_BASE : Field := .arr 0x103000040 20 28 .rw 0 .v 8 8 1 8 1 0
def CORE_GRANT_SIZE : Field := .arr 0x103000040 48 6 .rw 0 .v 8 8 1 8 1 0
def CORE_GRANT_R : Field := .arr 0x103000040 54 1 .rw 0 .v 8 8 1 8 1 0
def CORE_GRANT_W : Field := .arr 0x103000040 55 1 .rw 0 .v 8 8 1 8 1 0
def CORE_GRANT_X : Field := .arr 0x103000040 56 1 .rw 0 .v 8 8 1 8 1 0
def CORE_CL_CTL_EN : Field := .arr 0x103001000 0 1 .rw 0 .s 24 16 1 8 1 0
def CORE_CL_CTL_MON : Field := .arr 0x103001000 8 5 .rw 0 .s 24 16 1 8 1 0
def CORE_CL_STS_STATE : Field := .arr 0x103001008 0 2 .ro 0 .s 24 16 1 8 1 0
def CORE_CL_STS_REARM : Field := .arr 0x103001008 2 1 .ro 0 .s 24 16 1 8 1 0
def CORE_CL_STS_ACTIVE : Field := .arr 0x103001008 3 9 .ro 0xFF .s 24 16 1 8 1 0
def CORE_CL_STS_RETIRED : Field := .arr 0x103001008 12 9 .ro 0 .s 24 16 1 8 1 0
def CORE_CL_STS_LIBID : Field := .arr 0x103001008 32 32 .ro 0 .s 24 16 1 8 1 0

/-- The fields of block 3, part 0. -/
def block3_0 : List Field := [
  CORE_VBASE_S_BASE, CORE_VBASE_V_BASE, CORE_EPC_S_PC, CORE_EPC_V_PC, CORE_EST_S_ST,
  CORE_EST_V_ST, CORE_EADDR_S_ADDR, CORE_EADDR_V_ADDR, CORE_IPEND_PEND, CORE_IMASK_MASK,
  CORE_RTBASE_BASE, CORE_RTROWS_ROWS, CORE_DBELL_RING, CORE_RELEASE_CORE, CORE_ECAUSE_S_CODE,
  CORE_ECAUSE_V_CODE, CORE_ECAUSE_S_FROM, CORE_ECAUSE_V_FROM, CORE_ECAUSE_S_STORE, CORE_ECAUSE_V_STORE,
  CORE_ECAUSE_S_FETCH, CORE_ECAUSE_V_FETCH, CORE_ECAUSE_S_IRQ, CORE_ECAUSE_V_IRQ, CORE_GRANT_BASE,
  CORE_GRANT_SIZE, CORE_GRANT_R, CORE_GRANT_W, CORE_GRANT_X, CORE_CL_CTL_EN,
  CORE_CL_CTL_MON, CORE_CL_STS_STATE, CORE_CL_STS_REARM, CORE_CL_STS_ACTIVE, CORE_CL_STS_RETIRED,
  CORE_CL_STS_LIBID]

/-- The fields of block 3. -/
def block3 : List Field := block3_0

/-! ### Block 4: accelerators -/

def ACC_CL_CTL_EN : Field := .arr 0x104000000 0 12 .rw 0 .s 24 16 1 8 1 0
def ACC_CL_STS_STATE : Field := .arr 0x104000008 0 24 .ro 0 .s 24 16 1 8 1 0
def ACC_CL_STS_REARM : Field := .arr 0x104000008 24 12 .ro 0 .s 24 16 1 8 1 0
def ACC_CL_STS_FAILED : Field := .arr 0x104000008 36 12 .ro 0 .s 24 16 1 8 1 0
def ACC_QW_CTL_QUEUE : Field := .arr 0x104000200 0 16 .rw 0 .s 32 16 1 8 1 0
def ACC_QW_CTL_CORE : Field := .arr 0x104000200 16 5 .rw 0 .s 32 16 1 8 1 0
def ACC_QW_CTL_ARM : Field := .arr 0x104000200 21 1 .rw 0 .s 32 16 1 8 1 0
def ACC_QW_THR_THRESH : Field := .arr 0x104000208 0 64 .rw 0 .s 32 16 1 8 1 0

/-- The fields of block 4, part 0. -/
def block4_0 : List Field := [
  ACC_CL_CTL_EN, ACC_CL_STS_STATE, ACC_CL_STS_REARM, ACC_CL_STS_FAILED, ACC_QW_CTL_QUEUE,
  ACC_QW_CTL_CORE, ACC_QW_CTL_ARM, ACC_QW_THR_THRESH]

/-- The fields of block 4. -/
def block4 : List Field := block4_0

/-! ### Block 5: coalesce -/

def CX_CTL_LOG : Field := .one 0x105000000 0 6 .rwo 0 .s
def CX_IDXBASE_BASE : Field := .one 0x105000008 30 18 .rwo 0 .s
def CX_RECBASE_BASE : Field := .one 0x105000010 30 18 .rwo 0 .s
def CX_OWNBASE_BASE : Field := .one 0x105000018 30 18 .rwo 0 .s
def CX_IDLOW_IDLOW : Field := .one 0x105000020 0 24 .rw 0x100000 .s
def CX_FREE_COUNT : Field := .one 0x105000028 0 38 .ro 0 .s
def CX_LIVE_COUNT : Field := .one 0x105000030 0 38 .ro 0 .s
def CX_INFL_COUNT : Field := .one 0x105000038 0 17 .ro 0 .s
def CX_INFLPEAK_PEAK : Field := .one 0x105000040 0 17 .rc 0 .s
def CX_EVICT_COUNT : Field := .one 0x105000048 0 64 .rc 0 .s
def CX_ALIAS_COUNT : Field := .one 0x105000050 0 64 .rc 0 .s
def CX_PINNED_COUNT : Field := .one 0x105000058 0 64 .rc 0 .s
def CX_ERR_CFGERR : Field := .one 0x105000060 0 1 .w1c 0 .s
def CX_ERR_UNDERFLOW : Field := .one 0x105000060 1 1 .w1c 0 .s
def CX_ERR_RECCRC : Field := .one 0x105000060 2 1 .w1c 0 .s
def CX_ERR_IDLOW : Field := .one 0x105000060 3 1 .w1c 0 .s
def CX_ERR_SIZEMIS : Field := .one 0x105000060 4 1 .w1c 0 .s

/-- The fields of block 5, part 0. -/
def block5_0 : List Field := [
  CX_CTL_LOG, CX_IDXBASE_BASE, CX_RECBASE_BASE, CX_OWNBASE_BASE, CX_IDLOW_IDLOW,
  CX_FREE_COUNT, CX_LIVE_COUNT, CX_INFL_COUNT, CX_INFLPEAK_PEAK, CX_EVICT_COUNT,
  CX_ALIAS_COUNT, CX_PINNED_COUNT, CX_ERR_CFGERR, CX_ERR_UNDERFLOW, CX_ERR_RECCRC,
  CX_ERR_IDLOW, CX_ERR_SIZEMIS]

/-- The fields of block 5. -/
def block5 : List Field := block5_0

/-! ### Block 6: fogbank -/

def FB_CTL_HEADBP : Field := .one 0x106000000 0 10 .rw 0x32 .s
def FB_CTL_IDLEGC : Field := .one 0x106000000 10 1 .rw 1 .s
def FB_CTL_FGBP : Field := .one 0x106000000 12 12 .rw 0x12C .s
def FB_CTL_BGBP : Field := .one 0x106000000 24 12 .rw 0x5DC .s
def FB_CTL_CLOSEMAX : Field := .one 0x106000000 36 12 .rw 0x400 .s
def FB_CTL_FGMIN : Field := .one 0x106000000 48 16 .rw 0x40 .s
def FB_STS_FG : Field := .one 0x106000008 0 1 .ro 0 .c
def FB_STS_BUFDIRECT : Field := .one 0x106000008 1 1 .ro 0 .c
def FB_STS_CKLATE : Field := .one 0x106000008 2 1 .ro 0 .s
def FB_STS_FULL : Field := .one 0x106000008 3 1 .ro 0 .c
def FB_GEOM0_MODS : Field := .one 0x106000010 0 6 .rwo 0 .s
def FB_GEOM0_SPBF : Field := .one 0x106000010 8 8 .rwo 0 .s
def FB_GEOM0_SPB1 : Field := .one 0x106000010 16 8 .rwo 0 .s
def FB_GEOM1_ROW0 : Field := .one 0x106000018 0 24 .rwo 0 .s
def FB_GEOM1_ROWS : Field := .one 0x106000018 24 24 .rwo 0 .s
def FB_BTBASE_BASE : Field := .one 0x106000020 30 18 .rwo 0 .s
def FB_RMBASE_BASE : Field := .one 0x106000028 30 18 .rwo 0 .s
def FB_MPBASE_BASE : Field := .one 0x106000030 30 18 .rwo 0 .s
def FB_MPSIZE_GIB : Field := .one 0x106000038 0 13 .rwo 0 .s
def FB_BUF_FILL : Field := .one 0x106000040 0 14 .ro 0 .s
def FB_BUF_TARGET : Field := .one 0x106000040 16 14 .ro 0x258 .s
def FB_BUF_CUR : Field := .one 0x106000040 32 14 .ro 0 .s
def FB_GC_BGMAX : Field := .one 0x106000048 0 14 .rw 0x1F40 .s
def FB_GC_WEARGAP : Field := .one 0x106000048 16 16 .rw 0x1F4 .s
def FB_GC_VICTIMS : Field := .one 0x106000048 32 32 .rc 0 .s
def FB_PATROL_DAYS : Field := .one 0x106000050 0 7 .rw 0xE .s
def FB_PATROL_THRESH : Field := .one 0x106000050 8 8 .rw 0x30 .s
def FB_CKCTL_SWEEPLOG : Field := .one 0x106000058 0 5 .rw 0x11 .s
def FB_CKPT_EPOCH : Field := .one 0x106000060 0 63 .ro 0x7FFFFFFFFFFFFFFF .s
def FB_CAPU_MIB : Field := .one 0x106000068 0 48 .ro 0 .c
def FB_CAPF_MIB : Field := .one 0x106000070 0 48 .ro 0 .c
def FB_CAPH_MIB : Field := .one 0x106000078 0 48 .ro 0 .c
def FB_CREDIT_KIB : Field := .one 0x106000080 0 31 .ro 0 .s
def FB_FLOOR_EPOCH : Field := .one 0x106000088 0 63 .ro 0 .s
def FB_PCL_VALID : Field := .arr 0x106000100 0 1 .rw 0 .s 15 8 1 8 1 0
def FB_PCL_BUF : Field := .arr 0x106000100 1 1 .rw 0 .s 15 8 1 8 1 0
def FB_PCL15_VALID : Field := .one 0x106000178 0 1 .ro 1 .s
def FB_PCL15_BUF : Field := .one 0x106000178 1 1 .ro 0 .s
def FB_SPARE_SPARE : Field := .arr 0x106000200 0 24 .ro 0 .s 32 8 1 8 1 0
def FB_SPARE_RETIRED : Field := .arr 0x106000200 24 24 .ro 0 .s 32 8 1 8 1 0
def FB_ERR_CFGERR : Field := .one 0x106000090 0 1 .w1c 0 .s
def FB_ERR_SPARESOUT : Field := .one 0x106000090 1 1 .w1c 0 .s
def FB_ERR_PATROLUNC : Field := .one 0x106000090 2 1 .w1c 0 .s
def FB_ERR_CKPTLATE : Field := .one 0x106000090 3 1 .w1c 0 .s

/-- The fields of block 6, part 0. -/
def block6_0 : List Field := [
  FB_CTL_HEADBP, FB_CTL_IDLEGC, FB_CTL_FGBP, FB_CTL_BGBP, FB_CTL_CLOSEMAX,
  FB_CTL_FGMIN, FB_STS_FG, FB_STS_BUFDIRECT, FB_STS_CKLATE, FB_STS_FULL,
  FB_GEOM0_MODS, FB_GEOM0_SPBF, FB_GEOM0_SPB1, FB_GEOM1_ROW0, FB_GEOM1_ROWS,
  FB_BTBASE_BASE, FB_RMBASE_BASE, FB_MPBASE_BASE, FB_MPSIZE_GIB, FB_BUF_FILL,
  FB_BUF_TARGET, FB_BUF_CUR, FB_GC_BGMAX, FB_GC_WEARGAP, FB_GC_VICTIMS,
  FB_PATROL_DAYS, FB_PATROL_THRESH, FB_CKCTL_SWEEPLOG, FB_CKPT_EPOCH, FB_CAPU_MIB,
  FB_CAPF_MIB, FB_CAPH_MIB, FB_CREDIT_KIB, FB_FLOOR_EPOCH, FB_PCL_VALID,
  FB_PCL_BUF, FB_PCL15_VALID, FB_PCL15_BUF, FB_SPARE_SPARE, FB_SPARE_RETIRED]

/-- The fields of block 6, part 1. -/
def block6_1 : List Field := [
  FB_ERR_CFGERR, FB_ERR_SPARESOUT, FB_ERR_PATROLUNC, FB_ERR_CKPTLATE]

/-- The fields of block 6. -/
def block6 : List Field := block6_0 ++ block6_1

/-! ### Block 7: redundancy -/

def PAR_CTL_PACE : Field := .one 0x107000000 0 1 .rw 0 .s
def PAR_CTL_ABSENTS : Field := .one 0x107000000 16 12 .rw 0x3C .s
def PAR_STS_RESHAPING : Field := .one 0x107000008 0 1 .ro 0 .c
def PAR_STS_DUMPREADY : Field := .one 0x107000008 1 1 .ro 0 .c
def PAR_STS_TWINREADY : Field := .one 0x107000008 2 1 .ro 0 .c
def PAR_STS_HELD : Field := .one 0x107000008 3 1 .ro 0 .c
def PAR_STS_REBUILDING : Field := .one 0x107000008 4 1 .ro 0 .c
def PAR_GEOM_CURK : Field := .one 0x107000010 0 5 .ro 0 .c
def PAR_GEOM_CURM : Field := .one 0x107000010 8 2 .ro 0 .c
def PAR_GEOM_NEWK : Field := .one 0x107000010 16 5 .ro 0 .c
def PAR_GEOM_NEWM : Field := .one 0x107000010 24 2 .ro 0 .c
def PAR_BOUND_BAND : Field := .one 0x107000018 0 24 .ro 0 .c
def PAR_HTBASE_BASE : Field := .one 0x107000020 30 18 .rwo 0 .s
def PAR_LOST_COUNT : Field := .one 0x107000028 0 17 .ro 0 .s
def PAR_RBREM_BANDS : Field := .one 0x107000030 0 25 .ro 0 .s
def PAR_DUMP_COPIES : Field := .one 0x107000038 0 3 .ro 0 .s
def PAR_DUMP_TWINSRC : Field := .one 0x107000038 3 1 .ro 0 .s
def PAR_DUMP_FORCE : Field := .one 0x107000038 4 1 .wo 0 .v
def PAR_DUMP_SEQ : Field := .one 0x107000038 32 32 .ro 0 .s
def PAR_MOD_STATE : Field := .arr 0x107000100 0 3 .ro 0 .c 32 8 1 8 1 0
def PAR_MOD_REACH : Field := .arr 0x107000100 3 1 .ro 0 .s 32 8 1 8 1 0
def PAR_MOD_FAIL : Field := .arr 0x107000100 8 1 .wo 0 .s 32 8 1 8 1 0
def PAR_MOD_ACCEPT : Field := .arr 0x107000100 9 1 .wo 0 .s 32 8 1 8 1 0
def PAR_MOD_HOLES : Field := .arr 0x107000100 32 24 .ro 0 .s 32 8 1 8 1 0
def PAR_ERR_CFGERR : Field := .one 0x107000040 0 1 .w1c 0 .s
def PAR_ERR_STRIPELOST : Field := .one 0x107000040 1 1 .w1c 0 .s
def PAR_ERR_LOSTFULL : Field := .one 0x107000040 2 1 .w1c 0 .s
def PAR_ERR_DUMPSPACE : Field := .one 0x107000040 3 1 .w1c 0 .s
def PAR_ERR_DUMPLOST : Field := .one 0x107000040 4 1 .w1c 0 .s
def PAR_ERR_NOSPARE : Field := .one 0x107000040 5 1 .w1c 0 .s

/-- The fields of block 7, part 0. -/
def block7_0 : List Field := [
  PAR_CTL_PACE, PAR_CTL_ABSENTS, PAR_STS_RESHAPING, PAR_STS_DUMPREADY, PAR_STS_TWINREADY,
  PAR_STS_HELD, PAR_STS_REBUILDING, PAR_GEOM_CURK, PAR_GEOM_CURM, PAR_GEOM_NEWK,
  PAR_GEOM_NEWM, PAR_BOUND_BAND, PAR_HTBASE_BASE, PAR_LOST_COUNT, PAR_RBREM_BANDS,
  PAR_DUMP_COPIES, PAR_DUMP_TWINSRC, PAR_DUMP_FORCE, PAR_DUMP_SEQ, PAR_MOD_STATE,
  PAR_MOD_REACH, PAR_MOD_FAIL, PAR_MOD_ACCEPT, PAR_MOD_HOLES, PAR_ERR_CFGERR,
  PAR_ERR_STRIPELOST, PAR_ERR_LOSTFULL, PAR_ERR_DUMPSPACE, PAR_ERR_DUMPLOST, PAR_ERR_NOSPARE]

/-- The fields of block 7. -/
def block7 : List Field := block7_0

/-! ### Block 8: module link -/

def ML_CTL_TREAD : Field := .one 0x108000000 0 12 .rw 0xA .s
def ML_CTL_TPROG : Field := .one 0x108000000 12 12 .rw 0x14 .s
def ML_CTL_TERASE : Field := .one 0x108000000 24 12 .rw 0x64 .s
def ML_CTL_RETRYMAX : Field := .one 0x108000000 36 4 .rw 7 .s
def ML_P_CTL_EN : Field := .arr 0x108001000 0 1 .rw 0 .s 32 32 1 8 1 0
def ML_P_STS_STATE : Field := .arr 0x108001008 0 2 .ro 0 .c 32 32 1 8 1 0
def ML_P_STS_REARM : Field := .arr 0x108001008 2 1 .ro 0 .s 32 32 1 8 1 0
def ML_P_STS_LINKUP : Field := .arr 0x108001008 3 1 .ro 0 .s 32 32 1 8 1 0
def ML_P_STS_SPEED : Field := .arr 0x108001008 4 3 .ro 0 .s 32 32 1 8 1 0
def ML_P_STS_X1 : Field := .arr 0x108001008 7 1 .ro 0 .s 32 32 1 8 1 0
def ML_P_STS_FENCED : Field := .arr 0x108001008 8 1 .ro 0 .c 32 32 1 8 1 0
def ML_P_STS_HOLDER : Field := .arr 0x108001008 9 2 .ro 0 .s 32 32 1 8 1 0
def ML_P_CNT_RETRIES : Field := .arr 0x108001010 0 16 .rc 0 .s 32 32 1 8 1 0
def ML_P_CNT_UNREAD : Field := .arr 0x108001010 16 16 .rc 0 .s 32 32 1 8 1 0
def ML_P_CNT_LENERR : Field := .arr 0x108001010 32 16 .rc 0 .s 32 32 1 8 1 0
def ML_P_CNT_TIMEOUTS : Field := .arr 0x108001010 48 16 .rc 0 .s 32 32 1 8 1 0
def ML_P_SWCQ_BASE : Field := .arr 0x108001018 16 32 .rw 0 .s 32 32 1 8 1 0
def ML_ERR_CFGERR : Field := .one 0x108000008 0 1 .w1c 0 .s
def ML_ERR_DMAVIOL : Field := .one 0x108000008 1 1 .w1c 0 .s
def ML_ERR_PROTO : Field := .one 0x108000008 2 1 .w1c 0 .s
def ML_ERR_TIMEOUT : Field := .one 0x108000008 3 1 .w1c 0 .s
def ML_ERR_IDENT : Field := .one 0x108000008 4 1 .w1c 0 .s

/-- The fields of block 8, part 0. -/
def block8_0 : List Field := [
  ML_CTL_TREAD, ML_CTL_TPROG, ML_CTL_TERASE, ML_CTL_RETRYMAX, ML_P_CTL_EN,
  ML_P_STS_STATE, ML_P_STS_REARM, ML_P_STS_LINKUP, ML_P_STS_SPEED, ML_P_STS_X1,
  ML_P_STS_FENCED, ML_P_STS_HOLDER, ML_P_CNT_RETRIES, ML_P_CNT_UNREAD, ML_P_CNT_LENERR,
  ML_P_CNT_TIMEOUTS, ML_P_SWCQ_BASE, ML_ERR_CFGERR, ML_ERR_DMAVIOL, ML_ERR_PROTO,
  ML_ERR_TIMEOUT, ML_ERR_IDENT]

/-- The fields of block 8. -/
def block8 : List Field := block8_0

/-! ### Block 9: Sundog and pairing -/

def SD_CTL_RTO0 : Field := .one 0x109000000 0 6 .rw 8 .s
def SD_CTL_RTOMAX : Field := .one 0x109000000 6 10 .rw 0x3E8 .s
def SD_CTL_ETYPE : Field := .one 0x109000000 16 16 .rw 0x88B5 .v
def SD_CTL_UDPPORT : Field := .one 0x109000000 32 16 .rw 0xE81C .s
def SD_CTL_EVCORE : Field := .one 0x109000000 48 5 .rw 0 .s
def SD_STS_LINKUP : Field := .one 0x109000008 0 1 .ro 0 .c
def SD_STS_LINKFAIL : Field := .one 0x109000008 1 1 .ro 0 .c
def SD_STS_ACTIVE : Field := .one 0x109000008 2 6 .ro 0 .c
def SD_CNT_RETRIES : Field := .one 0x109000018 0 16 .rc 0 .s
def SD_CNT_NAKS : Field := .one 0x109000018 16 16 .rc 0 .s
def SD_CNT_AUTHFAIL : Field := .one 0x109000018 32 16 .rc 0 .s
def SD_CNT_DUPS : Field := .one 0x109000018 48 16 .rc 0 .s
def SD_RTT_TICKS : Field := .one 0x109000020 0 16 .ro 0 .s
def SD_CNBASE_BASE : Field := .one 0x109000028 16 32 .rw 0 .s
def SD_SWCQ_BASE : Field := .one 0x109000030 20 28 .rw 0 .s
def SD_MRBASE_LOG : Field := .one 0x109000038 0 5 .rw 4 .s
def SD_MRBASE_BASE : Field := .one 0x109000038 12 36 .rw 0 .s
def SD_MRREG_INDEX : Field := .one 0x109000040 0 24 .wo 0 .s
def SD_MRREV_INDEX : Field := .one 0x109000048 0 24 .wo 0 .s
def SD_MRREV_BUSY : Field := .one 0x109000048 63 1 .ro 0 .s
def SD_EVRING_PI : Field := .one 0x109000050 0 8 .ro 0 .s
def SD_EVRING_BASE : Field := .one 0x109000050 14 34 .rw 0 .s
def SD_CRED_VC : Field := .arr 0x109000058 0 16 .ro 0 .s 1 8 1 8 4 16
def SD_CNCTL_CONN : Field := .one 0x109000060 0 10 .wo 0 .s
def SD_CNCTL_ACTION : Field := .one 0x109000060 10 2 .wo 0 .s
def SD_G_CTL_EN : Field := .arr 0x109000100 0 1 .rw 0 .s 6 16 1 8 1 0
def SD_G_STS_STATE : Field := .arr 0x109000108 0 2 .ro 0 .s 6 16 1 8 1 0
def SD_G_STS_REARM : Field := .arr 0x109000108 2 1 .ro 0 .s 6 16 1 8 1 0
def SD_G_STS_TRAINED : Field := .arr 0x109000108 3 1 .ro 0 .s 6 16 1 8 1 0
def SD_G_STS_ACTIVE : Field := .arr 0x109000108 4 1 .ro 0 .c 6 16 1 8 1 0
def SD_G_STS_FAILED : Field := .arr 0x109000108 5 1 .ro 0 .s 6 16 1 8 1 0
def SD_G_STS_CAUSE : Field := .arr 0x109000108 8 4 .ro 0 .s 6 16 1 8 1 0
def SD_ERR_CFGERR : Field := .one 0x109000010 0 1 .w1c 0 .s
def SD_ERR_PROTO : Field := .one 0x109000010 1 1 .w1c 0 .s
def SD_ERR_AUTH : Field := .one 0x109000010 2 1 .w1c 0 .s
def SD_ERR_LENGTH : Field := .one 0x109000010 3 1 .w1c 0 .s
def SD_ERR_CONNERR : Field := .one 0x109000010 4 1 .w1c 0 .s
def SD_ERR_LINKFAIL : Field := .one 0x109000010 5 1 .w1c 0 .s
def SD_PAIR_CTL_HBSLACK : Field := .one 0x109000200 0 9 .rw 0x64 .s
def SD_PAIR_CTL_PROMOTE : Field := .one 0x109000200 9 1 .rw 1 .s
def SD_PAIR_CTL_LEAVE : Field := .one 0x109000200 10 1 .wo 0 .s
def SD_PAIR_CTL_CLAIM : Field := .one 0x109000200 11 1 .wo 0 .s
def SD_PAIR_STS_ROLE : Field := .one 0x109000208 0 3 .ro 0 .c
def SD_PAIR_STS_TWINALIVE : Field := .one 0x109000208 3 1 .ro 0 .c
def SD_PAIR_STS_MISSED : Field := .one 0x109000208 4 6 .ro 0 .s
def SD_PAIR_STS_WON : Field := .one 0x109000208 16 6 .ro 0 .s
def SD_PAIR_STS_TWINSOLE : Field := .one 0x109000208 22 6 .ro 0 .s
def SD_PAIR_EP_EPOCH : Field := .one 0x109000210 0 63 .ro 0x7FFFFFFFFFFFFFFF .s
def SD_SYNC_EPOCH : Field := .one 0x109000220 0 63 .rw 0 .s
def SD_SYNCGRP_MASK : Field := .arr 0x109000228 0 64 .rw 0 .s 4 8 1 8 1 0
def SD_PAIR_ERR_CFGERR : Field := .one 0x109000218 0 1 .w1c 0 .s
def SD_PAIR_ERR_MISMATCH : Field := .one 0x109000218 1 1 .w1c 0 .s
def SD_PAIR_ERR_BIDLOST : Field := .one 0x109000218 2 1 .w1c 0 .s
def SD_PAIR_ERR_NOQUORUM : Field := .one 0x109000218 3 1 .w1c 0 .s
def SD_PAIR_ERR_JOINFAIL : Field := .one 0x109000218 4 1 .w1c 0 .s

/-- The fields of block 9, part 0. -/
def block9_0 : List Field := [
  SD_CTL_RTO0, SD_CTL_RTOMAX, SD_CTL_ETYPE, SD_CTL_UDPPORT, SD_CTL_EVCORE,
  SD_STS_LINKUP, SD_STS_LINKFAIL, SD_STS_ACTIVE, SD_CNT_RETRIES, SD_CNT_NAKS,
  SD_CNT_AUTHFAIL, SD_CNT_DUPS, SD_RTT_TICKS, SD_CNBASE_BASE, SD_SWCQ_BASE,
  SD_MRBASE_LOG, SD_MRBASE_BASE, SD_MRREG_INDEX, SD_MRREV_INDEX, SD_MRREV_BUSY,
  SD_EVRING_PI, SD_EVRING_BASE, SD_CRED_VC, SD_CNCTL_CONN, SD_CNCTL_ACTION,
  SD_G_CTL_EN, SD_G_STS_STATE, SD_G_STS_REARM, SD_G_STS_TRAINED, SD_G_STS_ACTIVE,
  SD_G_STS_FAILED, SD_G_STS_CAUSE, SD_ERR_CFGERR, SD_ERR_PROTO, SD_ERR_AUTH,
  SD_ERR_LENGTH, SD_ERR_CONNERR, SD_ERR_LINKFAIL, SD_PAIR_CTL_HBSLACK, SD_PAIR_CTL_PROMOTE]

/-- The fields of block 9, part 1. -/
def block9_1 : List Field := [
  SD_PAIR_CTL_LEAVE, SD_PAIR_CTL_CLAIM, SD_PAIR_STS_ROLE, SD_PAIR_STS_TWINALIVE, SD_PAIR_STS_MISSED,
  SD_PAIR_STS_WON, SD_PAIR_STS_TWINSOLE, SD_PAIR_EP_EPOCH, SD_SYNC_EPOCH, SD_SYNCGRP_MASK,
  SD_PAIR_ERR_CFGERR, SD_PAIR_ERR_MISMATCH, SD_PAIR_ERR_BIDLOST, SD_PAIR_ERR_NOQUORUM, SD_PAIR_ERR_JOINFAIL]

/-- The fields of block 9. -/
def block9 : List Field := block9_0 ++ block9_1

/-! ### Block 10: memory -/

def MEM_CFG_CHANS : Field := .one 0x10A000000 0 4 .rwo 0 .v
def MEM_CFG_DPC : Field := .one 0x10A000000 4 2 .rwo 0 .v
def MEM_CFG_ORDER : Field := .one 0x10A000000 6 2 .rwo 0 .v
def MEM_CFG_RBITS : Field := .one 0x10A000000 8 2 .rwo 0 .v
def MEM_CFG_WBITS : Field := .one 0x10A000000 10 5 .rwo 0 .v
def MEM_CTL_RATE : Field := .one 0x10A000008 0 3 .rw 0 .v
def MEM_CTL_GO : Field := .one 0x10A000008 3 1 .wo 0 .v
def MEM_CTL_FCHG : Field := .one 0x10A000008 4 1 .wo 0 .v
def MEM_STS_RUN : Field := .one 0x10A000010 0 1 .ro 0 .s
def MEM_STS_FILLDONE : Field := .one 0x10A000010 1 1 .ro 0 .s
def MEM_STS_FCHGBUSY : Field := .one 0x10A000010 2 1 .ro 0 .s
def MEM_STS_TEST : Field := .one 0x10A000010 3 1 .ro 0 .s
def MEM_STS_HOTREF : Field := .one 0x10A000010 4 12 .ro 0 .s
def MEM_STS_RATE : Field := .one 0x10A000010 16 3 .ro 0 .s
def MEM_ERR_CFGERR : Field := .one 0x10A000018 0 1 .w1c 0 .s
def MEM_ERR_CE : Field := .one 0x10A000018 1 1 .w1c 0 .s
def MEM_ERR_UE : Field := .one 0x10A000018 2 1 .w1c 0 .s
def MEM_ERR_PPRFAIL : Field := .one 0x10A000018 3 1 .w1c 0 .s
def MEM_ELOG0_ADDR : Field := .one 0x10A000020 0 48 .ro 0 .s
def MEM_ELOG0_UNC : Field := .one 0x10A000020 48 1 .ro 0 .s
def MEM_ELOG1_CHAN : Field := .one 0x10A000028 0 4 .ro 0 .s
def MEM_ELOG1_SUB : Field := .one 0x10A000028 4 1 .ro 0 .s
def MEM_ELOG1_RANK : Field := .one 0x10A000028 5 3 .ro 0 .s
def MEM_ELOG1_BG : Field := .one 0x10A000028 8 3 .ro 0 .s
def MEM_ELOG1_BA : Field := .one 0x10A000028 11 2 .ro 0 .s
def MEM_ELOG1_ROW : Field := .one 0x10A000028 13 17 .ro 0 .s
def MEM_ELOG1_COL : Field := .one 0x10A000028 30 7 .ro 0 .s
def MEM_ELOG1_DEV : Field := .one 0x10A000028 37 4 .ro 0 .s
def MEM_SCRPOS_NEXT : Field := .one 0x10A000030 6 42 .ro 0 .s
def MEM_SCRPOS_PASSES : Field := .one 0x10A000030 48 16 .ro 0 .s
def MEM_PPRTHR_ROWCE : Field := .one 0x10A000038 0 8 .rw 4 .s
def MEM_PPR_LOC : Field := .one 0x10A000040 0 13 .rw 0 .v
def MEM_PPR_ROW : Field := .one 0x10A000040 13 17 .rw 0 .v
def MEM_PPR_GO : Field := .one 0x10A000040 30 1 .rw 0 .v
def MEM_PPR_RESULT : Field := .one 0x10A000040 32 2 .ro 0 .v
def MEM_TEST_EN : Field := .one 0x10A000048 0 1 .rw 0 .v
def MEM_TEST_OP : Field := .one 0x10A000048 1 2 .wo 0 .v
def MEM_TEST_BUSY : Field := .one 0x10A000048 63 1 .ro 0 .v
def MEM_TADDR_LINE : Field := .one 0x10A000050 6 42 .rw 0 .v
def MEM_TDATA_D : Field := .arr 0x10A000058 0 64 .rw 0 .v 8 8 1 8 1 0
def MEM_TCHK_D : Field := .arr 0x10A000098 0 64 .rw 0 .v 2 8 1 8 1 0
def MEM_CE_CE : Field := .arr 0x10A000100 0 32 .rc 0 .s 12 8 1 8 1 0
def MEM_CE_UE : Field := .arr 0x10A000100 32 16 .rc 0 .s 12 8 1 8 1 0
def MEM_TIM_SET : Field := .arr 0x10A000200 0 64 .ro 0 .v 16 8 1 8 1 0
def MEM_DLY_SET : Field := .arr 0x10A004000 0 64 .ro 0 .v 12 1024 128 8 1 0
def MEM_STIM_SET : Field := .arr 0x10A000280 0 64 .rw 0 .v 16 8 1 8 1 0
def MEM_SDLY_SET : Field := .arr 0x10A008000 0 64 .rw 0 .v 12 1024 128 8 1 0
def BLW_CTL_LOCK : Field := .one 0x10A001000 0 1 .rwo 0 .s
def BLW_ERR_CFGERR : Field := .one 0x10A001008 0 1 .w1c 0 .s
def BLW_POOL_BASE_BASE : Field := .arr 0x10A001100 12 36 .rw 0 .s 8 32 1 8 1 0
def BLW_POOL_CNT_COUNT : Field := .arr 0x10A001108 0 21 .rw 0 .s 8 32 1 8 1 0
def BLW_POOL_RES_HOST : Field := .arr 0x10A001110 0 16 .rw 0 .s 8 32 1 8 1 0
def BLW_POOL_RES_COMMAND : Field := .arr 0x10A001110 16 16 .rw 0 .s 8 32 1 8 1 0
def BLW_POOL_RES_BACKGROUND : Field := .arr 0x10A001110 32 16 .rw 0 .s 8 32 1 8 1 0
def BLW_POOL_RES_CONTROL : Field := .arr 0x10A001110 48 16 .rw 0 .s 8 32 1 8 1 0
def BLW_POOL_STS_FREE : Field := .arr 0x10A001118 0 21 .ro 0 .s 8 32 1 8 1 0
def BLW_POOL_STS_LOW : Field := .arr 0x10A001118 21 21 .ro 0 .s 8 32 1 8 1 0
def BLW_POOL_STS_FAILS : Field := .arr 0x10A001118 42 22 .rc 0 .s 8 32 1 8 1 0
def VEIL_C_CTL_EN : Field := .arr 0x10A002000 0 1 .rw 0 .s 28 64 1 8 1 0
def VEIL_C_STS_STATE : Field := .arr 0x10A002008 0 2 .ro 0 .s 28 64 1 8 1 0
def VEIL_C_STS_REARM : Field := .arr 0x10A002008 2 1 .ro 0 .s 28 64 1 8 1 0
def VEIL_C_STS_DIRTY : Field := .arr 0x10A002008 3 6 .ro 0 .s 28 64 1 8 1 0
def VEIL_C_STS_FILLS : Field := .arr 0x10A002008 9 4 .ro 0 .s 28 64 1 8 1 0
def VEIL_C_RET_RETIRED : Field := .arr 0x10A002010 0 48 .ro 0 .s 28 64 1 8 1 0
def VEIL_C_CNT_HITS : Field := .arr 0x10A002018 0 32 .rc 0 .s 28 64 1 8 1 0
def VEIL_C_CNT_MISSES : Field := .arr 0x10A002018 32 32 .rc 0 .s 28 64 1 8 1 0
def VEIL_C_MASK_MASK : Field := .arr 0x10A002020 0 48 .rw 0xFFFFFFFFFFFF .s 28 64 4 8 1 0
def VEIL_OP_OP : Field := .one 0x10A002800 0 2 .rw 0 .s
def VEIL_OP_BY : Field := .one 0x10A002800 2 1 .rw 0 .s
def VEIL_OP_ALL : Field := .one 0x10A002800 3 1 .rw 0 .s
def VEIL_OP_CACHE : Field := .one 0x10A002800 4 5 .rw 0 .s
def VEIL_OP_INDEX : Field := .one 0x10A002800 10 6 .rw 0 .s
def VEIL_OP_BUSY : Field := .one 0x10A002800 63 1 .ro 0 .s
def VEIL_OPADDR_PAGE : Field := .one 0x10A002808 12 36 .rw 0 .s
def VEIL_ERR_CFGERR : Field := .one 0x10A002810 0 1 .w1c 0 .s
def VEIL_ERR_UNC : Field := .one 0x10A002810 1 1 .w1c 0 .s

/-- The fields of block 10, part 0. -/
def block10_0 : List Field := [
  MEM_CFG_CHANS, MEM_CFG_DPC, MEM_CFG_ORDER, MEM_CFG_RBITS, MEM_CFG_WBITS,
  MEM_CTL_RATE, MEM_CTL_GO, MEM_CTL_FCHG, MEM_STS_RUN, MEM_STS_FILLDONE,
  MEM_STS_FCHGBUSY, MEM_STS_TEST, MEM_STS_HOTREF, MEM_STS_RATE, MEM_ERR_CFGERR,
  MEM_ERR_CE, MEM_ERR_UE, MEM_ERR_PPRFAIL, MEM_ELOG0_ADDR, MEM_ELOG0_UNC,
  MEM_ELOG1_CHAN, MEM_ELOG1_SUB, MEM_ELOG1_RANK, MEM_ELOG1_BG, MEM_ELOG1_BA,
  MEM_ELOG1_ROW, MEM_ELOG1_COL, MEM_ELOG1_DEV, MEM_SCRPOS_NEXT, MEM_SCRPOS_PASSES,
  MEM_PPRTHR_ROWCE, MEM_PPR_LOC, MEM_PPR_ROW, MEM_PPR_GO, MEM_PPR_RESULT,
  MEM_TEST_EN, MEM_TEST_OP, MEM_TEST_BUSY, MEM_TADDR_LINE, MEM_TDATA_D]

/-- The fields of block 10, part 1. -/
def block10_1 : List Field := [
  MEM_TCHK_D, MEM_CE_CE, MEM_CE_UE, MEM_TIM_SET, MEM_DLY_SET,
  MEM_STIM_SET, MEM_SDLY_SET, BLW_CTL_LOCK, BLW_ERR_CFGERR, BLW_POOL_BASE_BASE,
  BLW_POOL_CNT_COUNT, BLW_POOL_RES_HOST, BLW_POOL_RES_COMMAND, BLW_POOL_RES_BACKGROUND, BLW_POOL_RES_CONTROL,
  BLW_POOL_STS_FREE, BLW_POOL_STS_LOW, BLW_POOL_STS_FAILS, VEIL_C_CTL_EN, VEIL_C_STS_STATE,
  VEIL_C_STS_REARM, VEIL_C_STS_DIRTY, VEIL_C_STS_FILLS, VEIL_C_RET_RETIRED, VEIL_C_CNT_HITS,
  VEIL_C_CNT_MISSES, VEIL_C_MASK_MASK, VEIL_OP_OP, VEIL_OP_BY, VEIL_OP_ALL,
  VEIL_OP_CACHE, VEIL_OP_INDEX, VEIL_OP_BUSY, VEIL_OPADDR_PAGE, VEIL_ERR_CFGERR,
  VEIL_ERR_UNC]

/-- The fields of block 10. -/
def block10 : List Field := block10_0 ++ block10_1

/-! ### Block 11: Umbra -/

def UMB_STS_OWNED : Field := .one 0x10B000000 0 1 .ro 0 .s
def UMB_STS_UNLOCKED : Field := .one 0x10B000000 1 1 .ro 0 .s
def UMB_STS_LATCH : Field := .one 0x10B000000 2 1 .ro 0 .s
def UMB_STS_AKEK : Field := .one 0x10B000000 3 1 .ro 0 .s
def UMB_STS_RETIRED : Field := .one 0x10B000000 4 1 .ro 0 .s
def UMB_STS_RNGOK : Field := .one 0x10B000000 5 1 .ro 1 .s
def UMB_STS_METAKEY : Field := .one 0x10B000000 6 1 .ro 0 .s
def UMB_STS_DUMPKEY : Field := .one 0x10B000000 7 1 .ro 0 .s
def UMB_STS_LINKKEY : Field := .one 0x10B000000 8 1 .ro 0 .s
def UMB_STS_FAILCNT : Field := .one 0x10B000000 12 17 .ro 0 .s
def UMB_STS_CREDFAILS : Field := .one 0x10B000000 32 4 .ro 0 .s
def UMB_CMD_OP : Field := .one 0x10B000010 0 4 .wo 0 .s
def UMB_CMD_SLOT : Field := .one 0x10B000010 16 16 .wo 0 .s
def UMB_ADDR_ADDR : Field := .one 0x10B000018 3 45 .rw 0 .s
def UMB_CMDSTS_STATUS : Field := .one 0x10B000020 0 8 .ro 0 .s
def UMB_CMDSTS_BUSY : Field := .one 0x10B000020 8 1 .ro 0 .s
def UMB_NONCE_N : Field := .arr 0x10B000028 0 64 .ro 0 .s 6 8 1 8 1 0
def UMB_SLOTQ_SLOT : Field := .one 0x10B000058 0 16 .rw 0 .s
def UMB_SLOTINFO_STATE : Field := .one 0x10B000060 0 2 .ro 0 .s
def UMB_SLOTINFO_KIND : Field := .one 0x10B000060 8 3 .ro 0 .s
def UMB_SLOTINFO_USE : Field := .one 0x10B000060 16 3 .ro 0 .s
def UMB_KEYID_KEYID : Field := .one 0x10B000068 0 64 .ro 0 .s
def UMB_DEVMAP_SLOT : Field := { Field.arr 0x10B000070 0 8 .rw 0 .v 2 8 1 8 8 8 with rstep := 1 }
def UMB_RBBASE_BASE : Field := .one 0x10B000080 12 36 .rw 0 .s
def UMB_ALARM_LAST : Field := .one 0x10B000088 0 5 .ro 0 .s
def UMB_ALARM_ACTIVE : Field := .one 0x10B000088 8 5 .ro 0 .s
def UMB_TLIM_LOW : Field := .one 0x10B000090 0 8 .ro 0xC4 .s
def UMB_TLIM_HIGH : Field := .one 0x10B000090 8 8 .ro 0x87 .s
def UMB_SERIAL_SERIAL : Field := .arr 0x10B0000A0 0 64 .ro 0 .c 2 8 1 8 1 0
def UMB_RAND_VALUE : Field := .one 0x10B0000B0 0 64 .rc 0 .s
def UMB_DG_CTL_ALG : Field := .arr 0x10B000100 0 3 .rw 0 .s 4 96 1 8 1 0
def UMB_DG_CTL_GO : Field := .arr 0x10B000100 3 1 .wo 0 .s 4 96 1 8 1 0
def UMB_DG_CTL_BUSY : Field := .arr 0x10B000100 4 1 .ro 0 .s 4 96 1 8 1 0
def UMB_DG_CTL_ERR : Field := .arr 0x10B000100 5 1 .ro 0 .s 4 96 1 8 1 0
def UMB_DG_ADDR_ADDR : Field := .arr 0x10B000108 0 48 .rw 0 .s 4 96 1 8 1 0
def UMB_DG_LEN_LEN : Field := .arr 0x10B000110 0 40 .rw 0 .s 4 96 1 8 1 0
def UMB_DG_RES_D : Field := .arr 0x10B000118 0 64 .ro 0 .c 4 96 8 8 1 0
def UMB_ERR_CFGERR : Field := .one 0x10B000008 0 1 .w1c 0 .s
def UMB_ERR_RNGFAIL : Field := .one 0x10B000008 1 1 .w1c 0 .s
def UMB_ERR_CREDFAIL : Field := .one 0x10B000008 2 1 .w1c 0 .s
def UMB_ERR_SLOTFAIL : Field := .one 0x10B000008 3 1 .w1c 0 .s
def UMB_ERR_LINKKEY : Field := .one 0x10B000008 4 1 .w1c 0 .s

/-- The fields of block 11, part 0. -/
def block11_0 : List Field := [
  UMB_STS_OWNED, UMB_STS_UNLOCKED, UMB_STS_LATCH, UMB_STS_AKEK, UMB_STS_RETIRED,
  UMB_STS_RNGOK, UMB_STS_METAKEY, UMB_STS_DUMPKEY, UMB_STS_LINKKEY, UMB_STS_FAILCNT,
  UMB_STS_CREDFAILS, UMB_CMD_OP, UMB_CMD_SLOT, UMB_ADDR_ADDR, UMB_CMDSTS_STATUS,
  UMB_CMDSTS_BUSY, UMB_NONCE_N, UMB_SLOTQ_SLOT, UMB_SLOTINFO_STATE, UMB_SLOTINFO_KIND,
  UMB_SLOTINFO_USE, UMB_KEYID_KEYID, UMB_DEVMAP_SLOT, UMB_RBBASE_BASE, UMB_ALARM_LAST,
  UMB_ALARM_ACTIVE, UMB_TLIM_LOW, UMB_TLIM_HIGH, UMB_SERIAL_SERIAL, UMB_RAND_VALUE,
  UMB_DG_CTL_ALG, UMB_DG_CTL_GO, UMB_DG_CTL_BUSY, UMB_DG_CTL_ERR, UMB_DG_ADDR_ADDR,
  UMB_DG_LEN_LEN, UMB_DG_RES_D, UMB_ERR_CFGERR, UMB_ERR_RNGFAIL, UMB_ERR_CREDFAIL]

/-- The fields of block 11, part 1. -/
def block11_1 : List Field := [
  UMB_ERR_SLOTFAIL, UMB_ERR_LINKKEY]

/-- The fields of block 11. -/
def block11 : List Field := block11_0 ++ block11_1

/-- The fields of the subsystem whose number is `n` (R10); blocks 12 to 255 hold none (R11). -/
def block (n : Nat) : List Field :=
  match n with
  | 0 => block0
  | 1 => block1
  | 2 => block2
  | 3 => block3
  | 4 => block4
  | 5 => block5
  | 6 => block6
  | 7 => block7
  | 8 => block8
  | 9 => block9
  | 10 => block10
  | 11 => block11
  | _ => []

end Sys2Proof.Machine.Reg
end

