-- ==== Sys2Proof/Machine/State.lean ====
section
/-! DEFINITION. The state of the head: plain data, holding every register field, memory, table, queue and mode the spec gives
it, and the queue of waiting commands. -/
namespace Sys2Proof.Machine

/-! ### Event records and outputs -/

/-- An event record (R502), its fields as numbers; `crc` follows from them. -/
structure EvRec where
  code : Nat
  sev : Nat
  source : Nat
  epoch : Nat
  tai : Nat
  p0 : Nat
  p1 : Nat
  p2 : Nat
  p3 : Nat
  seq : Nat
  deriving DecidableEq, Repr

/-- The answer to a bus request (R3, R8, R13): the value read, a completed write, a bus error, a completer abort, or the
exception a Terdan core takes. -/
inductive BusReply
  | value (v : Word)
  | bytes (b : List Byte)
  | done
  | busError
  | abort
  | exception (code : Nat)
  deriving DecidableEq, Repr

/-- A trace frame (R508): its lane, per-lane count, type, tick number and payload words. -/
structure TraceFrame where
  lane : Nat
  count : Nat
  type : Nat
  tick : Nat
  payload : List Nat
  deriving DecidableEq, Repr

/-! ### Meridian (spec/02_meridian_epochs.md) -/

/-- What Meridian keeps of one source beside its register bits: the frequency rule, the consecutive good pulses, whether
R41 bars it until reset, the tick number of its last pulse near a frame tick, when its last pulse was sampled, in ticks since
the release of reset, and its phase then: the counters' tick number minus the frame tick (R24, R35, R36, R41, R50). -/
structure MerSource where
  freqOk : Bool
  good : Nat
  barred : Bool
  lastPulse : Option Nat
  pulseAt : Option Nat
  phase : Int
  deriving DecidableEq, Repr

/-- A source of which nothing is known yet. -/
def MerSource.none : MerSource :=
  { freqOk := false, good := 0, barred := false, lastPulse := Option.none, pulseAt := Option.none, phase := 0 }

/-- A time-of-day message held for the frame it announces, with the tick of its arrival (R24); `ok`: it was found consistent and
the line is in use (R25). -/
structure TodHeld where
  epoch : Nat
  tick : Nat
  tai : Nat
  len : Nat
  arrived : Nat
  ok : Bool
  deriving DecidableEq, Repr

/-- The time-of-day line: the message held, whether the line is ignored, and the consistent messages since (R24, R25). -/
structure TodLine where
  held : Option TodHeld
  ignored : Bool
  good : Nat
  deriving DecidableEq, Repr

/-- The PTP slave (R26): the newest Sync, with its arrival and, once known, the time the master sent it; the Delay_Req under way,
with the time it was sent; the next Delay_Req's sequence number. -/
structure PtpSlave where
  sync : Option (Nat × Nat × Option Nat)
  request : Option (Nat × Nat)
  nextSeq : Nat
  deriving DecidableEq, Repr

/-- Meridian's state beside its registers. `tick` and `tie` are the running counters, which MER_TICK and MER_TIE show
only latched (R49); `early` is the epoch number while the counters are loaded and EPVALID is 0, which MER_EPOCH does not show;
`sinceReset` counts generated ticks from the release of reset, `loadedAt` is its value when a pair first loaded the counters, and
`forced` says that the twin override has discarded counters that the twin has not replaced yet (R43). `todBefore` is the
time-of-day line as it stood before the messages that the next pulse may still find too late (R24). -/
structure Mer where
  tick : Nat
  tie : Nat
  loaded : Bool
  loader : Option Bool
  early : Nat
  loadedAt : Option Nat
  forced : Bool
  sinceReset : Nat
  a : MerSource
  b : MerSource
  p : MerSource
  tod : Option TodHeld
  todSuspended : Bool
  todGood : Nat
  todBefore : TodLine
  ptp : PtpSlave
  seed : Option Nat
  aligning : Option Bool
  savedSrc : Nat
  diffOver : Nat
  diffWithin : Nat
  diffPosted : Bool
  spent : List (Nat × Nat)
  debt : List (Nat × Nat)
  deriving DecidableEq, Repr

/-- Meridian at reset: nothing counted, nothing held (R43). -/
def Mer.reset : Mer :=
  { tick := 0, tie := 0, loaded := false, loader := none, early := 0, loadedAt := none, forced := false, sinceReset := 0,
    a := .none, b := .none, p := .none,
    tod := none, todSuspended := false, todGood := 0,
    todBefore := { held := none, ignored := false, good := 0 }, ptp := { sync := none, request := none, nextSeq := 0 },
    seed := none, aligning := none, savedSrc := 6, diffOver := 0,
    diffWithin := 0, diffPosted := false, spent := [], debt := [] }

/-! ### Commit (spec/03_commit_and_determinism.md) -/

/-- The contents of a SEAL (R57). -/
structure SealInfo where
  n : Nat
  commands : Nat
  crc : BitVec 32
  asvMax : Nat
  ea : Nat
  d : Dig
  deriving DecidableEq, Repr

/-- What a head holds of one epoch not yet committed: its own half in issue order, the twin's intents as received, the
commands of its own that hold the seal, the number of commands it stamped and of descriptors the twin sent, and which messages of R57 have passed. -/
structure EpochSt where
  own : List Rec64
  twin : List Rec64
  open_ : Nat
  commands : Nat
  descs : Nat
  sealed : Bool
  twinSeal : Option SealInfo
  ackSent : Bool
  ackRecv : Bool
  naks : Nat
  late : Bool
  deriving DecidableEq, Repr

/-- An epoch of which nothing is known yet. -/
def EpochSt.empty : EpochSt :=
  { own := [], twin := [], open_ := 0, commands := 0, descs := 0, sealed := false, twinSeal := none, ackSent := false,
    ackRecv := false, naks := 0, late := false }

/-- A stored chunk in the data ring (R63, R164): its chunk ID once known, the head of origin, its byte offset and stored
units, the epoch of the job that placed it, its location, and whether its epoch has committed. -/
structure RingRef where
  chunk : Nat
  origin : Nat
  offset : Nat
  units : Nat
  epoch : Option Nat
  loc : Nat
  deriving DecidableEq, Repr

/-- A committed epoch's span of the intent ring (R63). -/
structure Span where
  off : Nat
  len : Nat
  n0 : Nat
  n1 : Nat
  nref : Nat
  asv : Nat
  deriving DecidableEq, Repr

/-- The outcome of an intent (R71). -/
structure Outcome where
  code : Nat
  count : Nat
  prior : Nat
  deriving DecidableEq, Repr

/-- An entry of the apply log (R71, R72): the outcome records of an epoch, the digests before and after it, and where its span
stands in the journal. -/
structure LogEntry where
  outcomes : List Outcome
  before : Dig
  after : Dig
  span : Option Span
  deriving DecidableEq, Repr

/-- A divergence under resolution (R74): the epoch, whether this head's rerun agreed, the twin's answer once it came. -/
structure Diverge where
  ea : Nat
  own : Bool
  twin : Option Bool
  deriving DecidableEq, Repr

/-- The commit sequencer's state beside the CMT_ registers. -/
structure Cmt where
  epochs : List (Nat × EpochSt)
  spans : List (Nat × Span)
  applyLog : List (Nat × LogEntry)
  digest : Dig
  twinDigests : List (Nat × Dig)
  notes : List Nat
  ring : List RingRef
  intentHead : Nat
  intentUsed : Nat
  lagHighArmed : Bool
  diverge : Option Diverge
  applyStopped : Bool
  pendingAsv : Option (Nat × Nat)
  snapshots : List (Nat × Nat)
  stopped : Bool
  soft : Nat
  background : Nat
  softEpoch : Nat
  deriving DecidableEq, Repr

/-- Commit at reset: nothing stamped, nothing journalled. -/
def Cmt.reset : Cmt :=
  { epochs := [], spans := [], applyLog := [], digest := 0, twinDigests := [], notes := [], ring := [],
    intentHead := 0, intentUsed := 0, lagHighArmed := true, diverge := none, applyStopped := false, pendingAsv := none, snapshots := [], stopped := false,
    soft := 0, background := 0, softEpoch := 0 }

/-! ### Terdan contexts and jobs (spec/04_terdan_programming_model.md, spec/06_terdan_stream_instructions.md) -/

/-- What a handle register names (R89): nothing, a Billow buffer, or a stream descriptor. -/
inductive Handle
  | empty
  | buffer (b : Nat)
  | desc (d : Nat)
  deriving DecidableEq, Repr

/-- What a context does (R86, R97, R134, R142, R169, R171, R172): a wait names the general register its result goes to. -/
inductive Run
  | reset
  | idle
  | running
  | halted
  | interrupt
  | ticket (t : Nat) (rd : Nat)
  | queue (q count : Nat) (rd : Nat)
  | epoch (target : Nat) (rd : Nat)
  | applied (target : Nat) (rd : Nat)
  | ending (status : Nat) (data : Handle) (offset : Nat)
  deriving DecidableEq, Repr

/-- A digest in progress (R151, R153): algorithm, bytes hashed, chaining state, bytes not yet forming a block. -/
structure DigestSt where
  alg : Nat
  total : Nat
  chain : List Byte
  pend : List Byte
  deriving DecidableEq, Repr

/-- A GCM operation in progress (R156): direction, key slot, nonce counter, associated data and the bytes passed so far. -/
structure CipherSt where
  decrypt : Bool
  slot : Nat
  key : List Byte
  nonce : List Byte
  aad : List Byte
  cipher : List Byte
  deriving DecidableEq, Repr

/-- A chunk that the base library has posted for placement: its job and buffer, chunk ID, index position, PDIG, FDIG, CALG and SLEN, and
its length; `old` is the location that a background job moves it from. -/
structure LibChunk where
  job : Nat
  buf : Nat
  chunk : Nat
  pos : Nat
  pdig : Nat
  fdig : Nat
  calg : Nat
  slen : Nat
  len : Nat
  old : Nat
  deriving DecidableEq, Repr

/-- How far the base library has come with a command or a background job (ch. 07): the bytes reduced, the chunks found as (ID, length),
the chunk being placed, and whether that is the manifest; of a background job whether its chunk list is read, and the chunks still to be
worked through as (ID, location, SLEN); `wait`: it waits for the next epoch and then retries its step (R185). -/
structure LibSt where
  done : Nat
  found : List (Nat × Nat)
  placing : Option LibChunk
  manifest : Bool
  listed : Bool
  todo : List (Nat × Nat × Nat)
  wait : Bool
  deriving DecidableEq, Repr

/-- The base library at the start of a command. -/
def LibSt.start : LibSt :=
  { done := 0, found := [], placing := none, manifest := false, listed := false, todo := [], wait := false }

/-- A Terdan context: a control core or a recipe context (R86, R88). `work` is the job it is bound to (R87), `bufs` and
`descs` what it has allocated (R149), `intents` its list (R166); `lib` is the progress of a base-library entry. -/
structure Context where
  g : Vector Word 32
  h : Vector Handle 8
  pc : Word
  level : Level
  ie : Bool
  exls : Bool
  exlv : Bool
  tk : Word
  run : Run
  work : Option Nat
  bufs : List Nat
  descs : List Nat
  intents : List Rec64
  digests : List (Nat × DigestSt)
  ciphers : List (Nat × CipherSt)
  lib : LibSt
  deriving DecidableEq, Repr

/-- A context whose registers hold their reset values. -/
def Context.fresh (level : Level) (run : Run) : Context :=
  { g := Vector.replicate 32 0, h := Vector.replicate 8 .empty, pc := 0, level := level, ie := false, exls := false,
    exlv := false, tk := 0, run := run, work := none, bufs := [], descs := [], intents := [], digests := [], ciphers := [],
    lib := LibSt.start }

/-- The kinds of posted job (R137). -/
inductive JobKind
  | chunk | digest | dgsave | dgload | pack | unpack | encx | decx | ctxsv | ctxld | pargen | parfix
  | lookupFp | lookupMap | lookupKey | lookupRec | mread | mprog
  deriving DecidableEq, Repr

/-- A job block (R138). -/
structure JobBlock where
  ioff : Nat
  ilen : Nat
  ooff : Nat
  ocap : Nat
  arg0 : Nat
  arg1 : Nat
  deriving DecidableEq, Repr

/-- A posted job not yet collected (R139 to R142). `ended` holds its status and result; `accel` the unit that runs it; `resume`
the input offset at which it was pre-empted (R146). `place` and `mirrored` serve MPROG (R164), `bind` is the
key slot binding of the issuer's row at posting (R467), `rerun` the failed
unit whose job this was, until another takes it (R147). `touched`: the ranges of bytes, by address and length, that HSTx has
stored to its buffers since (R127). `before`: what its output range held before it ended, with its address (R127). `save`: what a
pre-emption wrote to the save area, with its address (R146). -/
structure Job where
  owner : Nat
  ticket : Word
  kind : JobKind
  blk : JobBlock
  inp : Handle
  outp : Handle
  level : Level
  posted : Nat
  accel : Option (Nat × Nat)
  resume : Nat
  place : Option Nat
  mirrored : Bool
  ended : Option (Nat × Nat)
  bind : Nat
  rerun : Option (Nat × Nat)
  touched : List (Nat × Nat)
  before : Option (Nat × List Byte)
  save : Option (Nat × List Byte)
  deriving DecidableEq, Repr

/-- Where a unit of work came from: a host command on a queue pair, or a background queue entry. -/
inductive WorkFrom
  | host (qp cid : Nat)
  | background (cls : Nat) (count : Nat)
  deriving DecidableEq, Repr

/-- Where a unit of work stands: a host command fetching data (the bytes not yet requested and those not yet landed), given up
before acceptance with the status it will complete with once its READs have ended (R346; none: dropped), accepted and
waiting for dispatch, running on a context, held for software in a slot (R349), waiting for its epoch (R61), or sending its
response once its queue's completion count reaches a value (R345). -/
inductive WorkState
  | fetching (unasked left : Nat)
  | cancelled (status : Option Nat) (left : Nat)
  | ready
  | running (ctx : Nat)
  | held (slot : Nat)
  | sealed_
  | sending (status : Nat) (after : Nat)
  deriving DecidableEq, Repr

/-- A range of a buffer: the member of a stream descriptor (R89) or a part of a command's data. -/
structure Seg where
  buf : Nat
  off : Nat
  len : Nat
  deriving DecidableEq, Repr

/-- What a dispatch bound (R103, R106): the slot, the library, the entry's index and the slot's ARG. -/
structure Binding where
  slot : Nat
  lib : Nat
  index : Nat
  arg : Nat
  deriving DecidableEq, Repr

/-- A command or background job (R101, R103, R106, R172). `reads`: read-class; `writes`: write-class (R339). `keys` are the
host's keyed descriptors as (key, address, length); `repair`: replica repair was on at its
acceptance (R180); `bound`: what its dispatch bound; `left`: the context its first run left by MCHK (R100); `discard`: its completion is dropped (R355); `cap` is the
buffer its capsule lies in (R443), `data` its data buffers, `segs` where its data lies; `since` the tick its capsule arrived (R508), `abort` the CID of an Abort waiting for it (R346);
`starved` the epoch in which no buffers were free for its data (R342). -/
structure Work where
  from_ : WorkFrom
  capsule : Rec64
  nsid : Nat
  ctrl : Nat
  row : Nat
  group : Nat
  cset : Nat
  opc : Nat
  len : Nat
  lba : Nat
  keyBytes : List Byte
  reads : Bool
  writes : Bool
  stamp : Nat
  cseq : Nat
  readEpoch : Option Nat
  cap : Option Nat
  data : List Nat
  segs : List Seg
  hostData : List Byte
  keys : List (Nat × Nat × Nat)
  inval : Bool
  credit : Bool
  bound : Option Binding
  left : Option Nat
  repair : Bool
  rstatus : Nat
  dw0 : Nat
  discard : Bool
  since : Nat
  abort : Option Nat
  starved : Option Nat
  state : WorkState
  deriving DecidableEq, Repr

/-- An entry of a hardware queue not yet begun: its posted count, whether the checks made at its posting passed (R309, R387),
and its bytes. -/
structure QEntry where
  count : Nat
  ok : Bool
  body : Rec64
  cpl : Option Nat
  deriving DecidableEq, Repr

/-- A hardware queue (R167): entries posted and completed, and those not yet begun. -/
structure Queue where
  posted : Nat
  done : Nat
  waiting : List QEntry
  deriving DecidableEq, Repr

/-- A queue with nothing posted. -/
def Queue.fresh : Queue := { posted := 0, done := 0, waiting := [] }

/-- A recipe library as the loader holds it for a cluster (R102, R115): its code and read-only data, and its entries by
index with their offsets. -/
structure Library where
  libid : Nat
  code : List Byte
  rodata : List Byte
  entries : List (Nat × Nat)
  deriving DecidableEq, Repr

/-- An entry of the in-flight table (R205). -/
structure Inflight where
  digest : Dig
  domain : Nat
  id : Nat
  owner : Nat
  deriving DecidableEq, Repr

/-! ### Namespaces and metadata pages (spec/07_data_path.md, spec/09_fogbank_flash.md) -/

/-- A namespace (R180): its kind (true: object), chunk size code and key slot, the attribute word once formatted, the map entry
count once set, replica repair, and the epochs of its creation and deletion. -/
structure Ns where
  object : Bool
  fsize : Nat
  keyslot : Nat
  attrs : Option Nat
  size : Option Nat
  repair : Bool
  created : Nat
  deleted : Option Nat
  deriving DecidableEq, Repr

/-- An entry of a metadata page: of a map page the chunk ID alone, of a key-directory page the key with it. -/
structure PageSlot where
  len : Nat
  key : Nat
  chunk : Nat
  deriving DecidableEq, Repr

/-- A version of a metadata page (R226, R227): the epoch whose apply made it, whether it holds the references of its entries,
and its entries by slot. -/
structure PageVer where
  epoch : Nat
  refs : Bool
  entries : List (Nat × PageSlot)
  deriving DecidableEq, Repr

/-! ### Fogbank and redundancy (spec/09_fogbank_flash.md, spec/10_redundancy.md) -/

/-- Where a placed stripe stands (R221, R223, R260): receiving chunks, closed, its strips being programmed, or held for missing
positions. -/
inductive StripePhase
  | open_ | closed | programming | held
  deriving DecidableEq, Repr

/-- A stripe placed on this head and not durable (R220 to R223, R291): its class and mode, whether a collection band holds it,
the epoch it was opened, DATAEND, the directory in placement order as (chunk, OFFSET, SLEN), the segments of class 15 as
(unit, bytes), the oldest and newest epochs of its data references, the positions whose program has not completed, and those
left out as missing, and the budget class that its programs are charged to, none where host data filled it (R47, R252). -/
structure StripeSt where
  cls : Nat
  oneBit : Bool
  opened : Nat
  dataEnd : Nat
  dir : List (Nat × Nat × Nat)
  segments : List (Nat × List Byte)
  first : Nat
  last : Nat
  phase : StripePhase
  todo : List Nat
  skip : List Nat
  charge : Option Nat
  deriving DecidableEq, Repr

/-- A band of this head under erase (R238, R242): the positions whose erase has not completed. -/
structure EraseSt where
  todo : List Nat
  deriving DecidableEq, Repr

/-- A patrol pass (R240, R241): the epoch it began, the epoch its period ends (R45), whether PATROL_BEHIND was posted, and where its walk
stands: the stripe whose strips it reads, and the positions of it not yet asked for. -/
structure Patrol where
  epoch : Nat
  ends : Nat
  behind : Bool
  stripe : Nat
  left : List Nat
  deriving DecidableEq, Repr

/-- A segment that a checkpoint writes (R299): KIND, TABLE, NSID, page, version epoch and plaintext. -/
structure SegJob where
  kind : Nat
  table : Nat
  nsid : Nat
  page : Nat
  vepoch : Nat
  plain : List Byte
  deriving DecidableEq, Repr

/-- The checkpoint being written (R248, R249): its cut, the stripes that hold its segments, the locations of its segments, the
location of its root once written, the first 80 bytes of its root as of the cut, and whether it is late; the segments not
yet placed, and the page versions that its base pages hold (R229). -/
structure CkptSt where
  cut : Nat
  plain : List Byte
  stripes : List Nat
  segs : List Nat
  root : Option Nat
  late : Bool
  todo : List SegJob
  pages : List (Nat × Nat)
  deriving DecidableEq, Repr

/-- What a checkpoint root records (R301) beside the tables: its cut, location and next nonce. -/
structure RootInfo where
  cut : Nat
  loc : Nat
  segs : List Nat
  deriving DecidableEq, Repr

/-- A rebuild of a band position under way (R269): the stripes rebuilt and lost so far. -/
structure RebuildSt where
  rebuilt : Nat
  lost : Nat
  deriving DecidableEq, Repr

/-- A copy of the power-fail dump being written (R277, R278): the units not yet issued or not yet durable, and
whether its trailer was issued. -/
structure DumpCopy where
  left : List Nat
  trailer : Bool
  dead : Bool
  done : Bool
  deriving DecidableEq, Repr

/-- A power-fail dump (R278, R531): the epoch register and tick at PWR_FAIL_N, its sequence and three copies, the kind of the
reset that follows it (R484), and whether it has ended. -/
structure DumpSt where
  epoch : Nat
  tick : Nat
  seq : Nat
  copies : List (Nat × DumpCopy)
  reset : Option Nat
  finished : Bool
  deriving DecidableEq, Repr

/-- Fogbank's state beside its tables: the stripes not durable, the open bands by class × 4 + kind (0 one-bit host, 1
full-density host, 2 collection), bands under erase, slots to be retired at the next erase as (band, position), the stripes
under re-placement (R223), the bands with hole entries, the twin's read floor, the release list, chunks that KEY_PUT installed, undone record values as
(chunk, epoch of the change, value before), the entries changed since the last cut as (table, NSID, key, version epoch), the
next nonce of the metadata key, the sweep's position, the newest root and the consumed dump sequence; `lostDump` holds, while a
restore waits for FORCE (R281), the highest CMT_LAST that a dump header names. `resident` are the page versions in the page pool, the last
used first, and `clean` those written as base pages since their last change, as (page key, version epoch) (R229); `absentUntil` the epoch
in which a position's absence limit ends (R45, R261). -/
structure Fb where
  stripes : List (Nat × StripeSt)
  opens : List (Nat × Nat)
  erases : List (Nat × EraseSt)
  badSlots : List (Nat × Nat)
  replaced : List Nat
  holed : List Nat
  spareUsed : List (Nat × Nat)
  twinFloor : Option Nat
  release : List (Nat × Nat)
  manifests : List Nat
  recOld : List (Nat × Nat × Nat)
  wordOld : List (Nat × Nat × Nat)
  touched : List (Nat × Nat × Nat × Nat)
  nonce : Nat
  sweep : Nat
  root : Option RootInfo
  ckpt : Option CkptSt
  consumed : Nat
  patrol : Option Patrol
  lowPosted : Bool
  lost : List (Nat × Nat × Nat)
  absentUntil : List (Nat × Nat)
  modIds : List (Nat × BitVec 128)
  rebuilds : List (Nat × RebuildSt)
  unreadyPosted : Bool
  dump : Option DumpSt
  dirty : Bool
  credited : Nat
  placedBg : Nat
  noteSent : List (Nat × Nat)
  unreach : List Nat
  modAt : List (Nat × Nat)
  lostDump : Option Nat
  resident : List (Nat × Nat)
  clean : List (Nat × Nat)
  deriving DecidableEq, Repr

/-- Fogbank at reset. -/
def Fb.reset : Fb :=
  { stripes := [], opens := [], erases := [], badSlots := [], replaced := [], holed := [], spareUsed := [], twinFloor := none,
    release := [], manifests := [], recOld := [], wordOld := [], touched := [], nonce := 0, sweep := 0, root := none, ckpt := none,
    consumed := 0, patrol := none, lowPosted := false, lost := [], absentUntil := [], modIds := [], rebuilds := [],
    unreadyPosted := false, dump := none, dirty := false, credited := 0, placedBg := 0, noteSent := [], unreach := [], modAt := [], lostDump := none,
    resident := [], clean := [] }

/-! ### Raw flash modules and the module link (spec/12_module_link.md) -/

/-- A programmed strip of a block: its 262,144 bytes with trailing zeros left out, and its seal (R289, R313). -/
structure Strip where
  data : List Byte
  sealRec : Rec64
  deriving DecidableEq, Repr

/-- A physical block: the mode its first program fixed (true: one-bit), its strips in slot order, erase count and whether it
is factory bad (R313, R316). -/
structure Block where
  oneBit : Bool
  strips : List Strip
  erases : Nat
  bad : Bool
  deriving DecidableEq, Repr

/-- An erased good block. -/
def Block.blank : Block := { oneBit := false, strips := [], erases := 0, bad := false }

/-- A raw flash module: geometry (R323), lease word and fences (R319), blocks not blank, and whether it declares itself
failed or can do nothing more (R316). -/
structure Module where
  serial : BitVec 128
  nblk : Nat
  spbf : Nat
  spb1 : Nat
  progfd : Nat
  prog1 : Nat
  readmb : Nat
  holdms : Nat
  temp : Nat
  life : Nat
  holder : Nat
  fence : Nat
  gen : Nat
  hb0 : Nat
  hb1 : Nat
  blocks : List (Nat × Block)
  failed : Bool
  fatal : Bool
  deriving DecidableEq, Repr

/-- Why the controller issued a module operation: what its completion is for. -/
inductive Purpose
  | software (queue : Nat) (count : Nat)
  | read (job : Nat) (part : Nat)
  | strip (stripe : Nat) (pos : Nat)
  | erase (band : Nat) (pos : Nat)
  | patrol (stripe : Nat) (pos : Nat)
  | heartbeat
  | leaseRead
  | bid
  | keeper
  | joinShared
  | form
  | release
  | fence
  | moduleRecord (gen : Nat)
  | dumpUnit (copy unit : Nat)
  | dumpRow (row : Nat)
  | rebuild (stripe : Nat) (pos : Nat)
  | target (band : Nat) (pos : Nat)
  | abandoned
  deriving DecidableEq, Repr

/-- An operation outstanding on a port (R307, R318), its queue and its purpose. -/
structure Outstanding where
  op : ModOp
  queue : Nat
  purpose : Purpose
  deriving DecidableEq, Repr

/-- What the head keeps of one module port beside its registers: outstanding operations by CID, the next CID, the newest
lease word, whether one was read since reset, the identity last reported (R306, R319, R326), and a record owed for a replacement (R325). -/
structure Port where
  outstanding : List (Nat × Outstanding)
  nextCid : Nat
  perstHeld : Bool
  leaseKnown : Bool
  gen : Nat
  holder : Nat
  fence : Nat
  hb0 : Nat
  hb1 : Nat
  serial : BitVec 128
  pool : Word
  posn : Nat
  recordGen : Nat
  recordOwed : Bool
  deriving DecidableEq, Repr

/-- A port at reset. -/
def Port.reset : Port :=
  { outstanding := [], nextCid := 0, perstHeld := true, leaseKnown := false, gen := 0, holder := 0, fence := 0, hb0 := 0,
    hb1 := 0, serial := 0, pool := 0, posn := 0, recordGen := 0, recordOwed := false }

/-! ### The front complex (spec/13_host_front.md) -/

/-- An Ethernet frame the front complex answers with or sends of itself (R332, R333). -/
inductive FrameOut
  | arpReply (ip : Nat)
  | neighbourAdvert (ip : Nat)
  | echoReply (ip : Nat) (data : List Byte)
  | gratuitousArp (ip : Nat)
  | unsolicitedAdvert (ip : Nat)
  | ptpDelayReq (encap domain seq : Nat)
  deriving DecidableEq, Repr

/-- What the front complex sends on a queue pair or for its connection (R334 to R344). -/
inductive RoceOut
  | read (psn key addr len : Nat)
  | write (psn key addr : Nat) (data : List Byte)
  | response (psn : Nat) (inval : Option Nat) (cid status : Nat) (dw0 : Nat)
  | ack (psn : Nat)
  | nakRemoteAccess (psn : Nat)
  | rnrNak (psn code : Nat)
  | nakSequence (psn : Nat)
  | cnp
  | reply
  | reject
  | disconnected
  deriving DecidableEq, Repr

/-- An operation the controller issues on a queue pair (R334, R345, R350): an RDMA READ of a command's data, an RDMA WRITE, a
response, or an RDMA WRITE that is only a part of a posted DATA entry. -/
inductive QpOp
  | read (work off len : Nat)
  | write (len : Nat)
  | response (cid : Nat)
  | part (len : Nat)
  deriving DecidableEq, Repr

/-- An operation outstanding on a queue pair: its posted count, the PSNs it takes, the bytes of a READ that have come back,
and what it sends. -/
structure QpEntry where
  count : Nat
  psn : Nat
  npsn : Nat
  op : QpOp
  got : Nat
  msg : RoceOut
  deriving DecidableEq, Repr

/-- A queue pair (R334 to R341): its controller, whether it is the admin queue, its submission queue size, sub-port (4 × port +
sub-port), path MTU, receive buffers posted and unused, the operations outstanding, PSNs, retries and the wait of R336, and
its send rate in Mb/s; `due` counts the buffers that capsules other than write-class took and that are not replaced (R342). `ready` after RTU, `linked` after Connect, `gone` once in the error state. -/
structure Qp where
  ctrl : Option Nat
  admin : Bool
  qid : Nat
  size : Nat
  subport : Nat
  pmtu : Nat
  ready : Bool
  linked : Bool
  gone : Bool
  rx : List Nat
  out : List QpEntry
  sendPsn : Nat
  expPsn : Nat
  retries : Nat
  rnrTries : Nat
  rnrWait : Bool
  wait : Nat
  rate : Nat
  lastCut : Option Nat
  lastCnp : Option Nat
  due : Nat
  deriving DecidableEq, Repr

/-- An NVMe controller (R338, R346, R352, R354, R356): admin queue pair, KATO in ms and the tick the count began, CC, the
Asynchronous Event Requests held, the ANA events not yet reported, whether the ANA notice is enabled and the Aborts waiting. -/
structure Ctl where
  adminQp : Nat
  kato : Nat
  since : Nat
  cc : Nat
  aers : List Nat
  events : Nat
  notice : Bool
  aborts : List Nat
  ending : Bool
  deriving DecidableEq, Repr

/-- What the front complex keeps beside its registers: queue pairs, controllers, the hold ring's slots, the ANA log's change
count and its value at each group's last change, the epoch in which a data-buffer allocation failed (R342) and what is left of the allowance in KiB (R236). -/
structure Fe where
  qps : List (Nat × Qp)
  ctls : List (Nat × Ctl)
  holds : List (Nat × Nat)
  anaChanges : Nat
  anaAt : List (Nat × Nat)
  poolFailed : Option Nat
  allowance : Nat
  deriving DecidableEq, Repr

/-- The front complex at reset. -/
def Fe.reset : Fe := { qps := [], ctls := [], holds := [], anaChanges := 0, anaAt := [], poolFailed := none, allowance := 0 }

/-! ### Sundog and pairing (spec/14_sundog_and_rdma.md, spec/15_twin_operation.md) -/

/-- The body of a message a connection sends (R368). -/
inductive ChrtBody
  | control (m : TwinMsg)
  | send (mtype : Nat) (data : List Byte)
  | write (raddr rkey : Nat) (data : List Byte)
  | read (raddr rkey len laddr : Nat)
  deriving DecidableEq, Repr

/-- A message of a connection not yet acknowledged: its first PSN, the PSNs it takes, what it carries, the posted count of the
send-queue entry or the job it serves, how many of its packets were sent, and for a READ the bytes placed. -/
structure ChrtMsg where
  psn : Nat
  npsn : Nat
  body : ChrtBody
  entry : Option Nat
  job : Option Nat
  sent : Nat
  got : Nat
  deriving DecidableEq, Repr

/-- A message in reception (R375 to R378). `region` is the key-check result of its FIRST packet (R392). -/
structure Incoming where
  firstPsn : Nat
  mlen : Nat
  got : Nat
  write : Bool
  mtype : Nat
  raddr : Nat
  region : Nat
  data : List Byte
  deriving DecidableEq, Repr

/-- A READ_RESP packet that waits for credits (R368, R373). -/
structure ReadAnswer where
  psn : Nat
  mlen : Nat
  first : Bool
  last : Bool
  data : List Byte
  deriving DecidableEq, Repr

/-- A connection (R371, R375, R379, R385): state 0 RESET, 1 READY, 2 ERROR with the status that caused it; for a UDP
connection its sub-port, path MTU and key slot. `carrier` is the group its packets travel on, `nacked` a NAK SEQ not yet made
good, `moved` an exhaustion since the last acknowledgement, `freed` the units returned on a UDP connection. -/
structure Conn where
  state : Nat
  cause : Nat
  udp : Bool
  sub : Nat
  pmtu : Nat
  peer : Nat
  keySlot : Nat
  sendPsn : Nat
  expPsn : Nat
  out : List ChrtMsg
  carrier : Option Nat
  retries : Nat
  wait : Nat
  moved : Bool
  nacked : Bool
  rnr : Bool
  incoming : Option Incoming
  unacked : Nat
  credUsed : Nat
  credGrant : Nat
  freed : Nat
  rate : Nat
  lastCnp : Nat
  cnpIn : Nat
  lastCut : Option Nat
  answers : List ReadAnswer
  deriving DecidableEq, Repr

/-- A connection in RESET. -/
def Conn.reset : Conn :=
  { state := 0, cause := 0, udp := false, sub := 0, pmtu := 4096, peer := 0, keySlot := 0, sendPsn := 0, expPsn := 0,
    out := [], carrier := none, retries := 0, wait := 0, moved := false, nacked := false, rnr := false, incoming := none,
    unacked := 0, credUsed := 0, credGrant := 0, freed := 0, rate := 4000, lastCnp := 0,
    cnpIn := 0, lastCut := none, answers := [] }

/-- A CHRT packet as it goes on the wire (R367, R368). -/
inductive ChrtOut
  | data (conn opc vc mtype : Nat) (first last : Bool) (psn mlen raddr rkey : Nat) (payload : List Byte)
  | control (conn psn : Nat) (m : TwinMsg)
  | ack (conn apsn : Nat)
  | nak (conn syn apsn : Nat)
  | credit (conn : Nat) (grants : List Nat)
  | cnp (conn : Nat)
  | heartbeat (group : Nat) (hb : Heartbeat)
  | linkKey (group : Nat) (f : LinkKeyFrame)
  deriving DecidableEq, Repr

/-- The key-check stage's copy of a region (R391). -/
structure Region where
  base : Nat
  len : Nat
  key : Nat
  perm : Nat
  conn : Nat
  valid : Bool
  admitted : Nat
  deriving DecidableEq, Repr

/-- The CLOCK message held (R401). -/
structure ClockMsg where
  e0 : Nat
  t0 : Nat
  origin : Word
  cur : Nat
  next : Nat
  at_ : Nat
  deriving DecidableEq, Repr

/-- What Sundog keeps beside its registers. Counts of four are per virtual channel (R373). -/
structure Sd where
  conns : List (Nat × Conn)
  used : Vector Nat 4
  grants : Vector Nat 4
  freed : Vector Nat 4
  hbSeq : Nat
  newest : Option Heartbeat
  newestTick : Nat
  rtt : List Nat
  groupSeen : List (Nat × Nat)
  groupMiss : List (Nat × Nat)
  clock : Option ClockMsg
  regions : List (Nat × Region)
  revoking : Option Nat
  authEpoch : Option Nat
  linkFormed : Bool
  deriving DecidableEq, Repr

/-- Sundog at reset: no link formed. -/
def Sd.reset : Sd :=
  { conns := [], used := #v[0, 0, 0, 0], grants := #v[0, 0, 0, 0], freed := #v[0, 0, 0, 0], hbSeq := 0,
    newest := none, newestTick := 0, rtt := [], groupSeen := [], groupMiss := [], clock := none, regions := [],
    revoking := none, authEpoch := none, linkFormed := false }

/-- The reason a head is fenced: those of R17, R79 and R196 bar CLAIM (R412). -/
inductive FenceCause
  | sameHead | asv | indexSize
  deriving DecidableEq, Repr

/-- A bid (R406 to R409): modules whose ACQUIRE is outstanding, won, named by the twin, and without a word; those tried once more, and how
many the head reached when it began. -/
structure Bid where
  open_ : List Nat
  won : List Nat
  twins : List Nat
  unknown : List Nat
  retried : List Nat
  reached : Nat
  since : Nat
  decided : Bool
  deriving DecidableEq, Repr

/-- Pairing state beside its registers (R399 to R416). `pool` is the pool identity; `formEpoch` is P, `formCkpt` this head's
formation checkpoint being complete, `formedRecv` the P of the twin's FORMED; `joinCut` is the cut that a keeper offered,
`joinAt` J, `joinWait` the epochs of back-pressure during a join, `readySent` JOIN_READY having been sent, `copied` the epochs
replayed, `joinPending` a twin that waits for an offer; `leaveEpoch` is L; `twinFailed` the twin being declared failed and
`deaf` its messages being ignored until the link forms anew; `aliveHb` the last three heartbeat values of the twin by port;
`keeperOf` the modules not won at a takeover; `twinMax` the twin's CMT_ASV.MAX. -/
structure Pair where
  pool : Word
  formEpoch : Option Nat
  formedRecv : Option Nat
  formCkpt : Bool
  joinCut : Option Nat
  joinAt : Option Nat
  joinWait : Nat
  readySent : Bool
  copied : Nat
  joinPending : Bool
  leaveEpoch : Option Nat
  bid : Option Bid
  twinFailed : Bool
  deaf : Bool
  fence : Option FenceCause
  aliveHb : List (Nat × List Nat)
  keeperOf : List Nat
  twinMax : Nat
  deriving DecidableEq, Repr

/-- Pairing at reset: ALONE, no pair formed. -/
def Pair.reset : Pair :=
  { pool := 0, formEpoch := none, formedRecv := none, formCkpt := false, joinCut := none, joinAt := none, joinWait := 0,
    readySent := false, copied := 0, joinPending := false, leaveEpoch := none, bid := none, twinFailed := false,
    deaf := false, fence := none, aliveHb := [], keeperOf := [], twinMax := 0 }

/-! ### Memory: DRAM, Billow and Veil (spec/16_memory.md) -/

/-- A DRAM line whose cells no longer hold what the controller wrote: ciphertext and check bits written raw (R440), or an
error the code reported (R437); `poison` marks the controller's poison pattern (R439). -/
structure RawLine where
  cipher : List Byte
  check : List Byte
  poison : Bool
  deriving DecidableEq, Repr

/-- The DRAM controller's state beside its registers: raw lines by line number, the merge buffer's lines with the oldest
first (R436), corrections per row in this pass (R434), pass counts (R441), the
epoch at which an armed frequency change opens (R433) and the tick of GO (R430). -/
structure MemCtl where
  lines : List (Nat × RawLine)
  merge : List Nat
  rowCe : List (Nat × Nat)
  passCe : Nat
  passUe : Nat
  fchgAt : Option Nat
  goTick : Nat
  key : List Byte
  deriving DecidableEq, Repr

/-- The DRAM controller at reset. -/
def MemCtl.reset : MemCtl :=
  { lines := [], merge := [], rowCe := [], passCe := 0, passUe := 0, fchgAt := none, goTick := 0, key := [] }

/-- A Billow pool: the freed buffers, newest first (R445), the first index never given out, and USE per class (R444). -/
structure Pool where
  freed : List Nat
  next : Nat
  use : Vector Nat 4
  deriving DecidableEq, Repr

/-- A pool with every buffer free. -/
def Pool.fresh : Pool := { freed := [], next := 0, use := #v[0, 0, 0, 0] }

/-- A Veil entry (R449, R451): its page address, a valid and a dirty bit for each of 64 lines, the order of its last use,
the error count and window start, a fill in progress, and what DRAM holds under its dirty lines. An entry that holds a version of a
metadata page keeps in `old` the entries that version had when the first of its lines became dirty. -/
structure VeilEntry where
  page : Nat
  valid : BitVec 64
  dirty : BitVec 64
  used : Nat
  count : Nat
  start : Nat
  filling : Bool
  under : List (Nat × List Byte)
  old : Option (List (Nat × PageSlot))
  deriving DecidableEq, Repr

/-- An entry that holds no page. -/
def VeilEntry.none : VeilEntry :=
  { page := 0, valid := 0, dirty := 0, used := 0, count := 0, start := 0, filling := false, under := [], old := Option.none }

/-! ### Umbra (spec/17_umbra_security.md) -/

/-- A key record (R464). -/
structure KeyRec where
  key : List Byte
  salt : List Byte
  kind : Nat
  use : Nat
  keyid : Nat
  deriving DecidableEq, Repr

/-- A slot that is not EMPTY (R456). -/
inductive Slot
  | loaded (k : KeyRec)
  | failed
  deriving DecidableEq, Repr

/-- A control-plane digest under way (R475): what it will show. -/
structure DigestRun where
  result : List Byte
  err : Bool
  deriving DecidableEq, Repr

/-- Umbra's state beside its registers. `staged` is the key an operation loads when BUSY falls, `answer` its status. `saves` holds what the
records of CTXSV stand for (R158). -/
structure Umb where
  slots : List (Nat × Slot)
  nonce : Option (List Byte)
  staged : Option (Nat × KeyRec)
  answer : Option Nat
  latch : Bool
  lastAlarm : Nat
  holding : Bool
  drsDamaged : Bool
  digests : List (Nat × DigestRun)
  ownNonce : Option (BitVec 256)
  twinNonce : Option (BitVec 256)
  mismatchPosted : Bool
  linkKey : Option (List Byte)
  linkSalt : List Byte
  saves : List (List Byte × CipherSt)
  deriving DecidableEq, Repr

/-- Umbra at reset: every slot empty, no challenge (R456, R462). -/
def Umb.reset : Umb :=
  { slots := [], nonce := none, staged := none, answer := none, latch := false, lastAlarm := 0, holding := false,
    drsDamaged := false, digests := [], ownNonce := none, twinNonce := none, mismatchPosted := false, linkKey := none,
    linkSalt := [], saves := [] }

/-! ### Platform (spec/18_platform.md) -/

/-- An entry of the retirement log (R489). -/
inductive Retirement
  | engine (cluster engine : Nat)
  | accelerator (cluster a : Nat)
  | laneGroup (g : Nat)
  | veil (cache entry : Nat)
  | keySlot (slot : Nat)
  | block (pos slot pblk : Nat)
  | remap (pos slot pblk : Nat)
  | lost (stripe mask epoch : Nat)
  | found (stripe : Nat)
  deriving DecidableEq, Repr

/-- The fuses of the part (R461, R476, R492, R495). -/
structure Fuses where
  oemHash : List (Nat × List Byte)
  oemRevoked : Nat
  dorbeyrRevoked : Nat
  secver : Nat
  ownHash : Option (List Byte)
  retired : Bool
  serial : BitVec 128
  vcore : Nat
  deriving DecidableEq, Repr

/-- A boot-flash or set operation whose BUSY is 1, with the operands it was started with (R487, R498). -/
structure DayOp where
  op : Nat
  dev : Nat
  idx : Nat
  fl : Nat
  mem : Nat
  len : Nat
  deriving DecidableEq, Repr

/-- Platform state beside its registers. `logBase` is how many entries of the retirement log the newest generation of the
configuration record folds, `logSeq` its SEQ, `recorded` what its body records where it was written since the last reset; `unlogged` names the entries that found the log full (R489). `started`: the start of
R485 has run since the last reset. -/
structure Platform where
  inReset : Bool
  started : Bool
  resetKind : Nat
  dumped : Bool
  straps : Straps
  flash0 : List (Nat × Byte)
  flash1 : List (Nat × Byte)
  fuses : Fuses
  dayOp : Option DayOp
  wdogStart : Nat
  lastKick : Nat
  tokenTicks : Nat
  windowOpen : Bool
  released : Nat
  traceNext : Nat
  traceCount : Vector Nat 4
  manifest : List Byte
  bootVersion : Nat
  bootSecver : Nat
  bootSource : BootSource
  svcReset : Bool
  patchMask : Nat
  logBase : Nat
  recorded : Option (List Retirement)
  logSeq : Nat
  unlogged : List Nat
  stopped : Bool
  deriving DecidableEq, Repr

/-- The fuses of a part that no OEM has fused yet; the serial number and the fused operating voltage are the part's own
(assumption log 8, DESIGN CHOICE). -/
def Fuses.blank : Fuses :=
  { oemHash := [], oemRevoked := 0, dorbeyrRevoked := 0, secver := 0, ownHash := none, retired := false, serial := 0, vcore := 750 }

/-- Platform at reset. -/
def Platform.reset : Platform :=
  { inReset := false, started := false, resetKind := 0, dumped := false, straps := { headId := false, recov := false, svcEn := false },
    flash0 := [], flash1 := [], fuses := Fuses.blank, dayOp := none, wdogStart := 0, lastKick := 0, tokenTicks := 0,
    windowOpen := false, released := 0, traceNext := 0, traceCount := #v[0, 0, 0, 0], manifest := [], bootVersion := 0,
    bootSecver := 0, bootSource := .slotA, svcReset := false, patchMask := 0, logBase := 0, recorded := none, logSeq := 0, unlogged := [], stopped := false }

/-! ### Frames and pins given to the outside -/

/-- A pin or wire the head drives. -/
inductive PinOut
  | pfDone (level : Bool)
  | perst (port : Nat) (released : Bool)
  | pmbus (address : Nat) (value : Nat)
  | throttle (half : Bool)
  deriving DecidableEq, Repr

/-! ### What the head gives to the outside -/

/-- What the head gives to the outside world, newest first: the model's own record of the effects the spec gives a step on
a wire. -/
inductive Out
  | bus (r : BusReply)
  | trace (f : TraceFrame)
  | chrt (p : ChrtOut)
  | module (port : Nat) (cid : Nat) (op : ModOp)
  | strip (port : Nat) (cid : Nat) (data : List Byte) (sealRec : Rec64)
  | moduleReset (port : Nat)
  | moduleReply (module : Nat) (port : Bool) (status : Nat) (data : List Byte) (sealRec : Rec64)
  | frame (subport : Nat) (f : FrameOut)
  | roce (qp : Nat) (p : RoceOut)
  | pin (p : PinOut)
  | refresh (chan ranks times : Nat)
  deriving DecidableEq, Repr

/-! ### How a step can stop -/

/-- The faults of a step. -/
inductive Fault
  /-- Nobody raises it: the spec gives every command of the table an effect, and a bus error, an abort or an exception is an
  effect. Safe. -/
  | noEffect
  deriving DecidableEq, Repr

/-- The refusals of a step. -/
inductive Refusal
  /-- An arm of the dispatch whose command has no meaning yet raises it, with the command's mnemonic. Safe: nothing is
  claimed of such a command. -/
  | notModelled (mnemonic : String)
  deriving DecidableEq, Repr

/-! ### The head and the state -/

/-- Everything the spec gives one head. -/
structure Head where
  /-- Memory: DRAM, Billow and the local memories, byte by byte, in canonical form (R12, R430). -/
  mem : List Host.Cell
  /-- The register fields that differ from their reset values. -/
  fields : Tbl (BitVec 64)
  /-- The RWO fields written since reset (R5). -/
  rwo : List Nat
  /-- The model's own counter of free values drawn. -/
  free : Nat
  /-- What the head has given to the outside, newest first. -/
  out : List Out
  /-- Meridian. -/
  mer : Mer
  /-- The commit sequencer. -/
  cmt : Cmt
  /-- The Terdan contexts that differ from their reset state. -/
  ctxs : Tbl Context
  /-- Commands and background jobs. -/
  works : Tbl Work
  /-- The number of the next command or job. -/
  nextWork : Nat
  /-- Posted accelerator, lookup and media jobs. -/
  jobs : Tbl Job
  /-- The number of the next posted job. -/
  nextJob : Nat
  /-- LENGTH of the Billow buffers (R139, R143). -/
  lens : Tbl Nat
  /-- Stream descriptors: the members of each (R89). -/
  descTbl : Tbl (List Seg)
  /-- The number of the next stream descriptor. -/
  nextDesc : Nat
  /-- The hardware queues (R167). -/
  queues : Tbl Queue
  /-- The libraries loaded, by cluster (R115). -/
  libs : Tbl Library
  /-- Engines marked failed and not yet replaced: cluster, engine and cause (R102). -/
  failedEngines : List (Nat × Nat × Nat)
  /-- The namespaces by NSID (R180). -/
  nss : Tbl Ns
  /-- The metadata pages: the versions of each, newest first (R76). -/
  pages : Tbl (List PageVer)
  /-- The in-flight table (R205). -/
  inflight : List Inflight
  /-- Records with ALLOC 1, of even and of odd IDs (R199, CX_LIVE). -/
  liveIds : Nat × Nat
  /-- Chunk IDs allocated and not yet applied (R197). -/
  pendingIds : List Nat
  /-- Chunk IDs freed by apply with the epoch of the free (R198). -/
  freedIds : List (Nat × Nat)
  /-- ID_LOW was posted since CX_FREE last rose above IDLOW (R199). -/
  idLowPosted : Bool
  /-- The front complex. -/
  fe : Fe
  /-- Fogbank and redundancy. -/
  fb : Fb
  /-- The module ports. -/
  ports : Tbl Port
  /-- The raw flash modules. -/
  modules : Tbl Module
  /-- Sundog. -/
  sd : Sd
  /-- Pairing. -/
  pair : Pair
  /-- The DRAM controller. -/
  memc : MemCtl
  /-- The Billow pools. -/
  pools : Tbl Pool
  /-- The requester class of each buffer given out (R444). -/
  owners : Tbl Nat
  /-- The entries of the Veil caches. -/
  veilEntries : Tbl VeilEntry
  /-- Counts Veil accesses, for the order of last use (R449). -/
  veilClock : Nat
  /-- Umbra. -/
  umb : Umb
  /-- Platform. -/
  plt : Platform
  /-- The Afterglow positions written (R502, R503). -/
  ag : Tbl EvRec
  /-- The retirement log of the configuration record (R489). -/
  retiredLog : List Retirement
  deriving DecidableEq, Repr

/-- The head right after reset. -/
def Head.reset : Head :=
  { mem := [],
    fields := [],
    rwo := [],
    free := 0,
    out := [],
    mer := Mer.reset,
    cmt := Cmt.reset,
    ctxs := [],
    works := [],
    nextWork := 1,
    jobs := [],
    nextJob := 1,
    lens := [],
    descTbl := [],
    nextDesc := 1,
    queues := [],
    libs := [],
    failedEngines := [],
    nss := [],
    pages := [],
    inflight := [],
    liveIds := (0, 0),
    pendingIds := [],
    freedIds := [],
    idLowPosted := false,
    fe := Fe.reset,
    fb := Fb.reset,
    ports := [],
    modules := [],
    sd := Sd.reset,
    pair := Pair.reset,
    memc := MemCtl.reset,
    pools := [],
    owners := [],
    veilEntries := [],
    veilClock := 0,
    umb := Umb.reset,
    plt := Platform.reset,
    ag := [],
    retiredLog := [] }

/-- The state: the commands waiting, first in first out, and the head. -/
structure State where
  /-- The commands that wait, the front first. -/
  pending : List Instr
  /-- The head. -/
  head : Head
  deriving DecidableEq, Repr

/-- The state right after reset, with no command waiting. -/
def State.reset : State := { pending := [], head := Head.reset }

end Sys2Proof.Machine
end

