-- ==== Sys2Proof/Machine/Ops.lean ====
section
/-! DEFINITION. The named operations over the state that every family shares: register fields, memory bytes, free values,
outputs. Exception entry and the other shared operations of a subsystem stand in that subsystem's file. -/
namespace Sys2Proof.Machine
open Reg

/-! ### Running a command -/

/-- A command whose effect is a change of the head whether or not it is in reset: the queue is not touched. -/
def State.applyAlways (s : State) (f : Head → Head) : Host.Outcome State Fault Refusal := .next { s with head := f s.head }

/-- A command whose effect is a change of the head; a head held in reset does nothing (R483, R473). -/
def State.apply (s : State) (f : Head → Head) : Host.Outcome State Fault Refusal :=
  s.applyAlways (fun h => if h.plt.inReset then h else f h)

/-! ### Register fields -/

/-- The value of a register field: what the table holds, its reset value where it lists none. -/
def Head.rd (h : Head) (f : Field) : Nat := (Tbl.get (BitVec.ofNat 64 f.reset) h.fields f.key).toNat

/-- Set a register field to a value, cut to its width. -/
def Head.wr (h : Head) (f : Field) (v : Nat) : Head :=
  { h with fields := Tbl.set (BitVec.ofNat 64 f.reset) h.fields f.key (BitVec.ofNat 64 (v % 2 ^ f.width)) }

/-- Set several fields in turn. -/
def Head.wrList (h : Head) : List (Field × Nat) → Head
  | [] => h
  | (f, v) :: l => (h.wr f v).wrList l

/-- A one-bit field is 1. -/
def Head.is (h : Head) (f : Field) : Bool := h.rd f = 1

/-- Add to a counter field, saturating at all ones. -/
def Head.bump (h : Head) (f : Field) (n : Nat) : Head := h.wr f (min (h.rd f + n) (2 ^ f.width - 1))

/-- Set a bit of a bit-mask field. -/
def Head.wrBit (h : Head) (f : Field) (b : Nat) (v : Bool) : Head :=
  h.wr f (if v then setBitN (h.rd f) b else clrBitN (h.rd f) b)

/-- The copy of a self-window field that control core `c` reaches (spec/04_terdan_programming_model.md, "Registers"). -/
def Field.ofCore (f : Field) (c : Nat) : Field := { f with core := c + 1 }

/-- The head number, from the strap (R17). -/
def Head.headId (h : Head) : Nat := h.rd PLT_STRAP_HEAD_ID

/-- The current epoch (R28). -/
def Head.epoch (h : Head) : Nat := h.rd MER_EPOCH_EPOCH

/-! ### Free values and outputs -/

/-- Draw a free value: the constant `Config.freeValue` at the state's counter, which advances. -/
def Head.draw (h : Head) : Word × Head := (Config.freeValue h.free, { h with free := h.free + 1 })

/-- Draw a number of free values. -/
def Head.drawN (h : Head) : Nat → List Word × Head
  | 0 => ([], h)
  | n + 1 => let (w, h) := h.draw; let (ws, h) := h.drawN n; (w :: ws, h)

/-- `n` free bytes. -/
def Head.drawBytes (h : Head) (n : Nat) : List Byte × Head :=
  let (ws, h) := h.drawN (ceilDiv n 8)
  ((ws.flatMap (fun w => toBytes 8 w.toNat)).take n, h)

/-- Give something to the outside. -/
def Head.emit (h : Head) (o : Out) : Head := { h with out := o :: h.out }

/-- Answer a bus request. -/
def Head.reply (h : Head) (r : BusReply) : Head := h.emit (.bus r)

/-! ### Memory bytes -/

/-- What a byte that nothing has written reads as: the DRAM fill writes zeros (R430), and the model takes zero for the rest
(assumption log 5, DESIGN CHOICE). -/
def memDefault : Byte := 0

/-- One byte of memory. -/
def Memory.read (m : List Host.Cell) (a : Nat) : Byte := Tbl.get memDefault m a

/-- Write one byte of memory, keeping the canonical form. -/
def Memory.write (m : List Host.Cell) (a : Nat) (v : Byte) : List Host.Cell := Tbl.set memDefault m a v

/-- The canonical form of memory: addresses strictly rising, no byte equal to the default listed. -/
def Memory.wf (m : List Host.Cell) : Bool := Tbl.wf memDefault m

/-- Write bytes from an address upward. -/
def Memory.writeAll (m : List Host.Cell) (a : Nat) : List Byte → List Host.Cell
  | [] => m
  | b :: t => Memory.writeAll (Memory.write m a b) (a + 1) t

/-- `n` bytes from an address upward. -/
def Memory.readAll (m : List Host.Cell) (a : Nat) : Nat → List Byte
  | 0 => []
  | n + 1 => Memory.read m a :: Memory.readAll m (a + 1) n

/-- The byte at an address reads as a default value: the fill of R430, or nothing written yet. -/
def Head.byte (h : Head) (a : Nat) : Byte := Memory.read h.mem a

/-- `n` bytes of memory. -/
def Head.bytes (h : Head) (a n : Nat) : List Byte := Memory.readAll h.mem a n

/-- Base of DRAM. -/
def dramBase : Nat := 0x100000000000

/-- A raw line that no data can be read from: a poisoned one, or cells beyond what the code corrects (R439). -/
def RawLine.lost (l : RawLine) : Bool := l.poison || (Config.lineDecode l.cipher l.check).isNone

/-- The raw lines left by a write of bytes [a, a+n) that the controller makes: it replaces the cells of the lines it covers, and
those it covers in part after reading them (R436); from one that cannot be read it stays away. -/
def rawAfter (lines : List (Nat × RawLine)) (a n : Nat) : List (Nat × RawLine) :=
  lines.filter (fun e =>
    let l := dramBase + 64 * e.1
    n = 0 || a + n ≤ l || l + 64 ≤ a || (e.2.lost && ! (a ≤ l && l + 64 ≤ a + n)))

/-- Write bytes to memory. -/
def Head.put (h : Head) (a : Nat) (b : List Byte) : Head :=
  { h with mem := Memory.writeAll h.mem a b, memc := { h.memc with lines := rawAfter h.memc.lines a b.length } }

/-- A little-endian number of `n` bytes in memory (R2). -/
def Head.load (h : Head) (a n : Nat) : Nat := ofBytes (h.bytes a n)

/-- Store a little-endian number of `n` bytes (R2). -/
def Head.store (h : Head) (a n v : Nat) : Head := h.put a (toBytes n v)

/-! ### The address map (R12) -/

/-- Base of Billow SRAM. -/
def billowBase : Nat := 0x200000000
/-- Size of Billow SRAM. -/
def billowSize : Nat := 192 * 2 ^ 20
/-- Base of the Afterglow window. -/
def afterglowBase : Nat := 0x300000000
/-- Base of the register blocks. -/
def regBase : Nat := 0x100000000
/-- Base of the local-memory alias. -/
def localBase : Nat := 0x10000000
/-- Size of boot ROM. -/
def romSize : Nat := 16 * 2 ^ 20

/-- The key of a byte of a core's own local memory: local memories are private, so each stands apart (R92). -/
def localKey (unit off : Nat) : Nat := 2 ^ 48 + unit * 2 ^ 20 + off

/-- Installed DRAM in bytes, by the population MEM_CFG states (R426, R427); none before it is written. -/
def Head.installed (h : Head) : Nat :=
  if h.rd MEM_CFG_CHANS = 0 then 0 else h.rd MEM_CFG_CHANS * 2 ^ (19 + h.rd MEM_CFG_RBITS + h.rd MEM_CFG_WBITS)

/-- Bytes [a, a+n) lie in DRAM as installed (R12, R13). -/
def Head.inDram (h : Head) (a n : Nat) : Bool := dramBase ≤ a && a + n ≤ dramBase + h.installed

/-- Bytes [a, a+n) lie in Billow SRAM. -/
def inBillow (a n : Nat) : Bool := billowBase ≤ a && a + n ≤ billowBase + billowSize

/-- Bytes [a, a+n) lie in installed DRAM or in Billow. -/
def Head.inMemory (h : Head) (a n : Nat) : Bool := h.inDram a n || inBillow a n

end Sys2Proof.Machine
end

