-- ==== Sys2Proof/Machine/Flash.lean ====
section
/-! DEFINITION. The boot flash as its devices hold it, the generations of the configuration record and the room of its retirement
log (spec/18_platform.md, R486 to R489). -/
namespace Sys2Proof.Machine
open Reg

/-- The bytes of a device that differ from an erased byte. -/
def Head.flashTbl (h : Head) (dev : Nat) : Tbl Byte := if dev = 0 then h.plt.flash0 else h.plt.flash1

/-- `n` bytes of a device; an erased byte reads as all ones (assumption log 23, PRESUMED). -/
def Head.flashBytes (h : Head) (dev a n : Nat) : List Byte :=
  (List.range n).map (fun i => Tbl.get (255 : Byte) (h.flashTbl dev) (a + i))

/-- A device is good (DAY_STS.FLDEVOK). -/
def Head.flashOk (h : Head) (dev : Nat) : Bool := bitAt (h.rd DAY_STS_FLDEVOK) dev

/-- Replace a device's contents. -/
def Head.setFlash (h : Head) (dev : Nat) (t : Tbl Byte) : Head :=
  if dev = 0 then { h with plt := { h.plt with flash0 := t } } else { h with plt := { h.plt with flash1 := t } }

/-- Program bytes into a device: an erased byte takes its value; programming another value over one that is not erased leaves a free
value (assumption log 23, PRESUMED). -/
def Head.flashProgram (h : Head) (dev a : Nat) : List Byte → Head
  | [] => h
  | b :: t =>
    let old := Tbl.get (255 : Byte) (h.flashTbl dev) a
    let h := if old = 255 ∨ old = b then h.setFlash dev (Tbl.set (255 : Byte) (h.flashTbl dev) a b)
      else
        let (v, h) := h.draw
        h.setFlash dev (Tbl.set (255 : Byte) (h.flashTbl dev) a (v.setWidth 8))
    h.flashProgram dev (a + 1) t

/-- Erase a range of a device. -/
def Head.flashErase (h : Head) (dev a n : Nat) : Head :=
  h.setFlash dev ((h.flashTbl dev).filter (fun e => decide (e.1 < a ∨ a + n ≤ e.1)))

/-- The offset of a generation of the configuration record. -/
def genBase (g : Nat) : Nat := if g = 0 then 0x01000000 else 0x05000000

/-- The bytes of a generation's region. -/
def genSize : Nat := 64 * 2 ^ 20

/-- SEQ and BLEN of a generation on a device, where its header, COMMIT and BCRC are right (R488). -/
def Head.generation (h : Head) (dev g : Nat) : Option (Nat × Nat) :=
  let a := genBase g
  let b := h.flashBytes dev a 64
  let seq := leAt b 8 8
  let blen := leAt b 16 8
  if leAt b 0 4 ≠ 0x47464E43 ∨ leAt b 4 1 ≠ 1 ∨ leAt b 5 3 ≠ 0 ∨ leAt b 32 24 ≠ 0 then none
  else if leAt b 56 8 ≠ setBitN seq 63 ∨ blen % 16 ≠ 0 ∨ genSize < 64 + blen then none
  else if (crc64 (h.flashBytes dev (a + 64) blen)).toNat ≠ leAt b 24 8 then none
  else some (seq, blen)

/-- A generation as a reader takes it: device 0's copy, or device 1's where that fails (R487). -/
def Head.readGeneration (h : Head) (g : Nat) : Option (Nat × Nat) :=
  match h.generation 0 g with
  | some x => some x
  | none => h.generation 1 g

/-- The newest generation: its number, SEQ and BLEN. -/
def Head.newestGeneration (h : Head) : Option (Nat × Nat × Nat) :=
  match h.readGeneration 0, h.readGeneration 1 with
  | some a, some b => if a.1 < b.1 then some (1, b) else some (0, a)
  | some a, none => some (0, a)
  | none, some b => some (1, b)
  | none, none => none

/-- The log entries of a retirement: two for a lost stripe entered (R489). -/
def Retirement.size : Retirement → Nat
  | .lost .. => 2
  | _ => 1

/-- KIND of a retirement's first log entry. -/
def Retirement.kind : Retirement → Nat
  | .engine .. => 1
  | .accelerator .. => 2
  | .laneGroup _ => 3
  | .veil .. => 4
  | .keySlot _ => 5
  | .block .. => 6
  | .remap .. => 7
  | .lost .. => 8
  | .found _ => 10

/-- An entry of the log: KIND and three indexes. -/
def logEntry (kind first second third : Nat) : List Byte :=
  let b := toBytes 12 (recOf [(0, 1, kind), (2, 2, first), (4, 4, second), (8, 4, third)])
  b ++ toBytes 4 (crc32c b).toNat

/-- The bytes that a retirement appends to the log (R489). -/
def Retirement.bytes : Retirement → List Byte
  | .engine c e => logEntry 1 c e 0
  | .accelerator c a => logEntry 2 c a 0
  | .laneGroup g => logEntry 3 g 0 0
  | .veil n e => logEntry 4 n e 0
  | .keySlot s => logEntry 5 s 0 0
  | .block j slot b => logEntry 6 j slot b
  | .remap j slot b => logEntry 7 j slot b
  | .lost s mask e => logEntry 8 0 s mask ++ logEntry 9 0 (e % 2 ^ 32) (e / 2 ^ 32)
  | .found s => logEntry 10 0 s 0

/-- The retirements of the body's sections 3 to 5 (R488): remaps as R488 lays them out and lost stripes as R272 does; a remap whose
position has bit 7 set is a block retired, and section 3 holds entries in the form of the log (assumption log 24, DESIGN CHOICE). -/
def retiredIn (type : Nat) (b : List Byte) : List Retirement :=
  match type with
  | 3 => (List.range (b.length / 16)).filterMap (fun i =>
      let v := ofBytes ((b.drop (16 * i)).take 16)
      let first := recAt v 2 2
      let second := recAt v 4 4
      match recAt v 0 1 with
      | 1 => some (.engine first second)
      | 2 => some (.accelerator first second)
      | 3 => some (.laneGroup first)
      | 4 => some (.veil first second)
      | 5 => some (.keySlot first)
      | _ => none)
  | 4 => (List.range (b.length / 8)).map (fun i =>
      let v := ofBytes ((b.drop (8 * i)).take 8)
      let j := recAt v 0 1
      if bitAt j 7 then .block (j % 128) (recAt v 1 3) (recAt v 4 4) else .remap j (recAt v 1 3) (recAt v 4 4))
  | 5 => (List.range (b.length / 16)).map (fun i =>
      let v := ofBytes ((b.drop (16 * i)).take 16)
      .lost (recAt v 0 4) (recAt v 4 4) (recAt v 8 8))
  | _ => []

/-- The sections of a body in order; `fuel` bounds their number. -/
def recordSections : Nat → List Byte → List (Nat × List Byte)
  | 0, _ => []
  | fuel + 1, b =>
    if b.length < 16 then []
    else
      let n := leAt b 8 8
      (leAt b 0 2, (b.drop 16).take n) :: recordSections fuel (b.drop (16 + roundUp n 16))

/-- The retirements that a generation's body records, from device 0's copy or else device 1's (R487, R488). -/
def Head.bodyRetired (h : Head) (g blen : Nat) : List Retirement :=
  let dev := if (h.generation 0 g).isSome then 0 else 1
  let b := h.flashBytes dev (genBase g + 64) blen
  (recordSections (blen / 16) b).flatMap (fun s => retiredIn s.1 s.2)

/-- The entries of the log in use. -/
def Head.logUsed (h : Head) : Nat := ((h.retiredLog.drop h.plt.logBase).map Retirement.size).foldl (· + ·) 0

/-- Log entries still free (R489); without a valid generation the log counts as that of an empty body (assumption log 24, DESIGN CHOICE). -/
def Head.logFree (h : Head) : Nat :=
  let blen := (h.newestGeneration.map (·.2.2)).getD 0
  (genSize - 64 - blen) / 16 - h.logUsed

/-- An entry is written into the log of the newest generation, on both devices that are good (R487, R489). -/
def Head.writeLog (h : Head) (r : Retirement) : Head :=
  match h.newestGeneration with
  | none => h
  | some (g, _, blen) =>
    let a := genBase g + 64 + blen + 16 * h.logUsed
    [0, 1].foldl (fun (h : Head) dev => if h.flashOk dev then h.flashProgram dev a r.bytes else h) h

/-- A new generation: what its body records holds from the next start on, and its log is empty (R23, R489). -/
def Head.foldLog (h : Head) : Head :=
  match h.newestGeneration with
  | some (g, seq, blen) =>
    if seq = h.plt.logSeq then h
    else { h with plt := { h.plt with logSeq := seq, logBase := h.retiredLog.length, recorded := some (h.bodyRetired g blen) } }
  | none => h

end Sys2Proof.Machine
end

