-- ==== Sys2Proof/Machine/Link.lean ====
section
/-! DEFINITION. The sending half of Sundog and CHRT: carriers, credits, packets, control messages and EVENT messages
(spec/14_sundog_and_rdma.md, R362, R367 to R374, R384, R395). -/
namespace Sys2Proof.Machine
open Reg

/-! ### Sub-ports (R331) -/

/-- SPLIT of a port. -/
def Head.split (h : Head) (p : Nat) : Nat := h.rd (FE_P_CTL_SPLIT.nth p)

/-- The sub-ports a split has. -/
def subports (split : Nat) : List Nat := if split = 0 then [0] else if split = 1 then [0, 1] else [0, 1, 2, 3]

/-- The enabled sub-ports of a port. -/
def Head.enabledSubs (h : Head) (p : Nat) : List Nat := (subports (h.split p)).filter (bitAt (h.rd (FE_P_CTL_SUBEN.nth p)))

/-- The rate of a sub-port in Gb/s. -/
def Head.subRate (h : Head) (p : Nat) : Nat := if h.split p = 0 then 400 else if h.split p = 1 then 200 else 100

/-! ### Connections, carriers and credits -/

/-- A connection's state. -/
def Head.conn (h : Head) (c : Nat) : Conn := Tbl.get Conn.reset h.sd.conns c

/-- Replace a connection's state. -/
def Head.setConn (h : Head) (c : Nat) (x : Conn) : Head :=
  { h with sd := { h.sd with conns := Tbl.set Conn.reset h.sd.conns c x } }

/-- The virtual channel of a twin connection (R371, R385). -/
def connVc (c : Nat) : Nat := if c = 0 then 0 else if c = 1 then 1 else if c ≤ 11 then 2 else 3

/-- The largest payload a packet of a connection may carry (R368). -/
def Conn.payload (x : Conn) : Nat := if x.udp then x.pmtu else 4096

/-- The groups active at both heads, in rising order (R362). -/
def Head.bothActive (h : Head) : List Nat := bitsSet 6 (h.rd SD_STS_ACTIVE)

/-- The carrier a connection takes when it is chosen (R372). -/
def Head.carrierFor (h : Head) (c : Nat) : Option Nat := h.bothActive[c % h.bothActive.length]?

/-- a ≤ b among cumulative counts modulo 2^32. -/
def serialLe (a b : Nat) : Bool := (b + 2 ^ 32 - a % 2 ^ 32) % 2 ^ 32 < 2 ^ 31

/-- Element `i` of a count kept for each virtual channel. -/
def vcGet (v : Vector Nat 4) (i : Nat) : Nat := v.toList.getD i 0

/-- Replace element `i`. -/
def vcSet (v : Vector Nat 4) (i x : Nat) : Vector Nat 4 := v.setIfInBounds i x

/-- The receiver's buffer of a virtual channel in credit units (R373). -/
def vcBuffer (v : Nat) : Nat := [256, 4096, 32768, 8192].getD v 0

/-- The units of a packet of `n` payload bytes (R373). -/
def unitsOf (n : Nat) : Nat := max 1 (ceilDiv n 256)

/-- A packet of `u` units may be sent on a connection (R373, R374). -/
def Head.creditOk (h : Head) (c : Nat) (u : Nat) : Bool :=
  let x := h.conn c
  if x.udp then serialLe (x.credUsed + u) x.credGrant
  else serialLe (vcGet h.sd.used (connVc c) + u) (vcGet h.sd.grants (connVc c))

/-- SD_CRED follows the counts. -/
def Head.showCredits (h : Head) : Head :=
  (List.range 4).foldl (fun h v =>
    h.wr (SD_CRED_VC.bit v) (min 65535 ((vcGet h.sd.grants v + 2 ^ 32 - vcGet h.sd.used v) % 2 ^ 32))) h

/-- The units of a packet are consumed (R373). -/
def Head.creditSpend (h : Head) (c : Nat) (u : Nat) : Head :=
  let x := h.conn c
  if x.udp then h.setConn c { x with credUsed := (x.credUsed + u) % 2 ^ 32 }
  else
    let v := connVc c
    ({ h with sd := { h.sd with used := vcSet h.sd.used v ((vcGet h.sd.used v + u) % 2 ^ 32) } }).showCredits

/-- The cumulative grants this head gives (R373): the buffers and what was freed. -/
def Head.ownGrants (h : Head) : List Nat := (List.range 4).map (fun v => (vcBuffer v + vcGet h.sd.freed v) % 2 ^ 32)

/-- A received packet's units are returned, and a CREDIT carries the new grants (R374). -/
def Head.creditReturn (h : Head) (c : Nat) (u : Nat) : Head :=
  let x := h.conn c
  if x.udp then
    let h := h.setConn c { x with freed := (x.freed + u) % 2 ^ 32 }
    h.emit (.chrt (.credit c [(1024 + x.freed + u) % 2 ^ 32, 0, 0, 0]))
  else
    let v := connVc c
    let h := { h with sd := { h.sd with freed := vcSet h.sd.freed v ((vcGet h.sd.freed v + u) % 2 ^ 32) } }
    h.emit (.chrt (.credit 0xFFFF h.ownGrants))

/-! ### Messages and packets -/

/-- The length of a message (MLEN). -/
def ChrtBody.length : ChrtBody → Nat
  | .control (.intents r) => 64 * r.length
  | .control _ => 64
  | .send _ d => d.length
  | .write _ _ d => d.length
  | .read _ _ n _ => n

/-- The packets of a message at a payload: a READ_REQ is one packet (R368). -/
def ChrtBody.packets (b : ChrtBody) (p : Nat) : Nat :=
  match b with
  | .read .. => 1
  | _ => max 1 (ceilDiv b.length p)

/-- The PSNs a message takes: a READ_REQ reserves one for each answer (R368). -/
def ChrtBody.psns (b : ChrtBody) (p : Nat) : Nat := max 1 (ceilDiv b.length p)

/-- The payload bytes of packet `i` of a message. -/
def ChrtBody.packetLen (b : ChrtBody) (p i : Nat) : Nat :=
  match b with
  | .read .. => 0
  | _ => min p (b.length - i * p)

/-- Packet `i` of a message on a connection (R367, R368). -/
def ChrtMsg.packet (m : ChrtMsg) (c p vc i : Nat) : ChrtOut :=
  let n := m.body.packets p
  let psn := (m.psn + i) % 2 ^ 32
  match m.body with
  | .control t => .control c psn t
  | .send mt d => .data c 1 vc mt (i = 0) (i + 1 = n) psn d.length 0 0 ((d.drop (i * p)).take p)
  | .write a k d => .data c 2 vc 0 (i = 0) (i + 1 = n) psn d.length a k ((d.drop (i * p)).take p)
  | .read a k len _ => .data c 3 vc 0 true true psn len a k []

/-- A connection may transmit: READY, and over Sundog the link up (R394, R364); no wait after a NAK RNR is under way. -/
def Head.canSend (h : Head) (c : Nat) : Bool :=
  let x := h.conn c
  x.state = 1 && ! x.rnr && (x.udp || (h.is SD_STS_LINKUP && h.bothActive ≠ []))

/-- Send the packets of one message that are not sent yet, as far as credits go; at most `fuel` packets. -/
def Head.pumpMsg (h : Head) (c : Nat) : Nat → ChrtMsg → Head × ChrtMsg
  | 0, m => (h, m)
  | fuel + 1, m =>
    let p := (h.conn c).payload
    if m.body.packets p ≤ m.sent then (h, m)
    else
      let u := unitsOf (m.body.packetLen p m.sent)
      if h.creditOk c u then
        let vc := if (h.conn c).udp then 0 else connVc c
        ((h.creditSpend c u).emit (.chrt (m.packet c p vc m.sent))).pumpMsg c fuel { m with sent := m.sent + 1 }
      else (h, m)

/-- Send what a list of messages still holds, in order; a message not wholly sent holds those after it. -/
def Head.pumpList (h : Head) (c : Nat) : List ChrtMsg → Head × List ChrtMsg
  | [] => (h, [])
  | m :: t =>
    let p := (h.conn c).payload
    let (h, m) := h.pumpMsg c (m.body.packets p) m
    if m.sent < m.body.packets p then (h, m :: t)
    else let (h, t) := h.pumpList c t; (h, m :: t)

/-- Send READ_RESP packets in order, as far as credits go; the rest wait (R373). -/
def Head.pumpAnswers (h : Head) (c : Nat) : List ReadAnswer → Head × List ReadAnswer
  | [] => (h, [])
  | a :: t =>
    let u := unitsOf a.data.length
    let vc := if (h.conn c).udp then 0 else connVc c
    if h.creditOk c u then
      ((h.creditSpend c u).emit (.chrt (.data c 4 vc 0 a.first a.last a.psn a.mlen 0 0 a.data))).pumpAnswers c t
    else (h, a :: t)

/-- The READ_RESP packets of a connection go out as far as credits go, on any active group (R372). -/
def Head.sendAnswers (h : Head) (c : Nat) : Head :=
  let x := h.conn c
  if x.state ≠ 1 ∨ (x.udp = false ∧ (h.is SD_STS_LINKUP = false ∨ h.bothActive = [])) then h
  else
    let (h, left) := h.pumpAnswers c x.answers
    h.setConn c { h.conn c with answers := left }

/-- A connection sends its messages as far as it may. With nothing outstanding it first takes the carrier of R372. -/
def Head.pumpOut (h : Head) (c : Nat) : Head :=
  if h.canSend c = false then h else
    let x := h.conn c
    let x := if x.udp ∨ (x.carrier.isSome ∧ x.out.any (fun m => m.sent ≠ 0)) then x
      else { x with carrier := h.carrierFor c }
    let h := h.setConn c x
    let (h, out) := h.pumpList c x.out
    h.setConn c { h.conn c with out := out }

/-- A connection transmits what it may: its READ_RESP packets, then its messages. -/
def Head.pump (h : Head) (c : Nat) : Head := (h.sendAnswers c).pumpOut c

/-- Every connection with something to send transmits what it may. -/
def Head.pumpAll (h : Head) : Head := (h.sd.conns.map (·.1)).foldl Head.pump h

/-- A message is put on a connection and sent as far as credits go. -/
def Head.sendBody (h : Head) (c : Nat) (body : ChrtBody) (entry job : Option Nat) : Head :=
  let x := h.conn c
  if x.state ≠ 1 then h else
    let n := body.psns x.payload
    let m : ChrtMsg := { psn := x.sendPsn, npsn := n, body, entry, job, sent := 0, got := 0 }
    (h.setConn c { x with sendPsn := (x.sendPsn + n) % 2 ^ 32, out := x.out ++ [m] }).pump c

/-- The connection of a control message (R384). -/
def twinConn : TwinMsg → Nat
  | .intents _ | .descriptor .. => 1
  | _ => 0

/-- A control message to the twin, while the link is up. -/
def Head.sendTwin (h : Head) (m : TwinMsg) : Head :=
  if h.is SD_STS_LINKUP then h.sendBody (twinConn m) (.control m) none none else h

/-! ### EVENT messages (R395) -/

/-- The 64 bytes of an EVENT payload. -/
def eventBytes (code side conn epoch p0 p1 p2 : Nat) : List Byte :=
  toBytes 64 (recOf [(0, 2, code), (2, 1, side), (4, 4, conn), (8, 8, epoch), (16, 8, p0), (24, 8, p1), (32, 8, p2)])

/-- The READY UDP connections. -/
def Head.udpConns (h : Head) : List Nat :=
  ((h.sd.conns.filter (fun e => e.2.udp && e.2.state = 1)).map (·.1))

/-- SIDE of a UDP connection, from its table entry (R385). -/
def Head.connSide (h : Head) (c : Nat) : Nat := h.load (h.rd SD_CNBASE_BASE * 65536 + 64 * c + 6) 1 % 2

/-- An EVENT over one UDP connection (R395). -/
def Head.udpEvent (h : Head) (c code about p0 p1 p2 : Nat) : Head :=
  h.sendBody c (.send 0x20 (eventBytes code (h.connSide c) about h.epoch p0 p1 p2)) none none

/-- An EVENT to the twin and, where its row of R395 says so, to the UDP peers named. -/
def Head.sendEvent (h : Head) (code about p0 p1 p2 : Nat) (peers : List Nat) : Head :=
  let h := h.sendTwin (.event code h.headId about h.epoch p0 p1 p2)
  peers.foldl (fun h c => h.udpEvent c code about p0 p1 p2) h

end Sys2Proof.Machine
end

