-- ==== Sys2Proof/Machine/Events.lean ====
section
/-! DEFINITION. Event records, the Afterglow recorder and the observation lanes (spec/18_platform.md, R502 to R510;
spec/02_meridian_epochs.md, R46), and what a hardware record of severity 2 or 3 raises (R98, R395). -/
namespace Sys2Proof.Machine
open Reg

/-! ### Trace frames (R508) -/

/-- The enabled lanes. -/
def Head.lanes (h : Head) : List Nat := bitsSet 4 (h.rd OBS_CTL_LANEEN)

/-- A frame of a type is dealt to the next enabled lane (R508); none is built while LANEEN is zero (R509). -/
def Head.trace (h : Head) (type : Nat) (payload : List Nat) : Head :=
  if h.lanes = [] ∨ bitAt (h.rd OBS_CTL_TYPES) (type - 1) = false then h else
    let lane := h.lanes.getD (h.plt.traceNext % h.lanes.length) 0
    let n := h.plt.traceCount.toList.getD lane 0
    let h := { h with plt := { h.plt with traceNext := h.plt.traceNext + 1,
                                          traceCount := h.plt.traceCount.setIfInBounds lane ((n + 1) % 65536) } }
    h.emit (.trace { lane := lane, count := n, type := type, tick := h.mer.tick, payload := payload })

/-! ### Records (R502) -/

/-- The 64 bytes of a record. -/
def EvRec.bytes (r : EvRec) : List Byte :=
  let b := toBytes 60 (recOf [(0, 2, r.code), (2, 1, r.sev), (3, 1, r.source), (4, 8, r.epoch), (12, 8, r.tai), (20, 8, r.p0),
    (28, 8, r.p1), (36, 8, r.p2), (44, 8, r.p3), (52, 4, r.seq)])
  b ++ toBytes 4 (crc32c b).toNat

/-- A record as the payload of an EVENT frame: its words. -/
def EvRec.words (r : EvRec) : List Nat := (List.range 8).map (fun i => leAt r.bytes (8 * i) 8)

/-- The lowest empty position of an area: records are never removed, so it is the count of those it holds. -/
def Head.agUsed (h : Head) (fatal : Bool) : Nat := (h.ag.filter (fun e => decide (e.1 < 4096) = fatal)).length

/-- The position a record takes (R503), none where it is dropped. -/
def Head.agPosition (h : Head) (sev : Nat) : Option Nat :=
  if sev = 3 ∧ h.agUsed true < 4096 then some (h.agUsed true)
  else if h.agUsed false < 126976 then some (4096 + h.agUsed false)
  else
    ((h.ag.filter (fun e => 4096 ≤ e.1 && e.2.sev ≤ sev)).foldl (fun b e =>
      match b with
      | none => some e
      | some x => if e.2.seq < x.2.seq then some e else some x) none).map (·.1)

/-- A record is dropped and counted (R503). -/
def Head.agDrop (h : Head) (sev : Nat) : Head := h.bump (AG_DROP_DROP.bit sev) 1

/-- The record that a source posts now (R502): its epoch and time are those of a valid epoch, and its number the next one. -/
def Head.newRecord (h : Head) (source code sev p0 p1 p2 p3 : Nat) : EvRec :=
  let valid := h.is MER_STS_EPVALID
  { code, sev, source, epoch := if valid then h.epoch else noEpoch,
    tai := if valid then (h.rd MER_ORIGIN_ORIGIN + 40 * h.mer.tick) % 2 ^ 64 else 0,
    p0, p1, p2, p3, seq := h.rd AG_STS_NEXTSEQ }

/-- A record takes its position. -/
def Head.agPlace (h : Head) (pos : Nat) (r : EvRec) : Head := { h with ag := Tbl.put h.ag pos r }

/-- A record of severity 0 to 2 takes a token (R504). -/
def Head.agSpend (h : Head) (sev : Nat) : Head :=
  if sev < 3 then h.wr AG_STS_TOKENS (h.rd AG_STS_TOKENS - 1) else h

/-- The number after a record's; after the last one the recorder is exhausted (R505). -/
def Head.agNext (h : Head) (seq : Nat) : Head :=
  if seq = 0xFFFFFFFF then h.wr AG_STS_EXHAUSTED 1 else h.wr AG_STS_NEXTSEQ (seq + 1)

/-- A record is placed in Afterglow, or dropped (R503 to R505). -/
def Head.record (h : Head) (source code sev p0 p1 p2 p3 : Nat) : Head :=
  if h.is AG_STS_EXHAUSTED then h.agDrop sev
  else if sev < 3 ∧ h.rd AG_STS_TOKENS = 0 then h.agDrop sev
  else
    match h.agPosition sev with
    | none => h.agDrop sev
    | some pos =>
      let r := h.newRecord source code sev p0 p1 p2 p3
      ((((h.agPlace pos r).agSpend sev).agNext r.seq).wr AG_HEAD_POS pos).trace 1 r.words

/-- An interrupt source becomes pending at a control core (R98). -/
def Head.raise (h : Head) (core bit : Nat) : Head := h.wrBit (CORE_IPEND_PEND.ofCore core) bit true

/-- An interrupt source becomes pending at every control core. -/
def Head.raiseAll (h : Head) (bit : Nat) : Head := (List.range 32).foldl (fun h c => h.raise c bit) h

/-- A hardware record (R10): placed first, then, at severity 2 or 3, the EVENT interrupt (R98, R507) and DEVICE_FAULT to the
twin (R395). -/
def Head.post (h : Head) (source code sev p0 p1 p2 p3 : Nat) : Head :=
  let h := h.record source code sev p0 p1 p2 p3
  if 2 ≤ sev then (h.raiseAll 3).sendEvent 0x0004 0 code source sev [] else h

/-! ### The Afterglow window and AG_POST -/

/-- An entry is appended to the retirement log (R489); with the log full the retirement takes effect all the same but is not recorded,
and CONFIG_LOG_FULL is posted. -/
def Head.logRetired (h : Head) (r : Retirement) : Head :=
  let full : Bool := decide (h.logFree < r.size)
  let n := h.retiredLog.length
  let w := if full then h else h.writeLog r
  let h := { w with retiredLog := w.retiredLog ++ [r] }
  if full then
    ({ h with plt := { h.plt with unlogged := h.plt.unlogged ++ [n] } }).post 0 0x000B 2 h.plt.logSeq r.kind 0 0
  else h

/-- Bytes of the Afterglow window (R506): an empty position holds zeros. -/
def Head.agBytes (h : Head) (off n : Nat) : List Byte :=
  (List.range n).map (fun i =>
    match Tbl.find h.ag ((off + i) / 64) with
    | some r => r.bytes.getD ((off + i) % 64) 0
    | none => 0)

/-- The bucket gains a token (R504). -/
def Head.agToken (h : Head) : Head := h.wr AG_STS_TOKENS (min 4096 (h.rd AG_STS_TOKENS + 1))

/-- Replay (R508): an EVENT frame for every position in order; ignored while REPLAYING is 1. -/
def Head.agReplay (h : Head) : Head :=
  if h.is OBS_STS_REPLAYING then h else h.ag.foldl (fun h e => h.trace 1 e.2.words) h

end Sys2Proof.Machine
end

