-- ==== Sys2Proof/Machine/Meridian.lean ====
section
/-! DEFINITION. Meridian: the reference sources, the counters, qualification, switchover, holdover, alignment, start-up and
the background budgets (spec/02_meridian_epochs.md, R24 to R50). -/
namespace Sys2Proof.Machine
open Reg

/-! ### The counters -/

/-- The epoch length in force (R28). -/
def Head.cur (h : Head) : Nat := h.rd MER_EPLEN_CUR

/-- TAI time of a tick number (R46). -/
def Head.taiOf (h : Head) (tick : Nat) : Nat := (h.rd MER_ORIGIN_ORIGIN + 40 * tick) % 2 ^ 64

/-- The epoch number of the counters: MER_EPOCH, or what it does not show yet while EPVALID is 0 (R43). -/
def Head.counted (h : Head) : Nat := if h.is MER_STS_EPVALID then h.epoch else h.mer.early

/-- The number of the last frame at or before the current epoch. -/
def Head.lastFrame (h : Head) : Nat := h.counted / 65536 * 65536

/-- The tick number of the first tick of the last frame: lengths change only at frames (R30). -/
def Head.lastFrameTick (h : Head) : Nat := h.mer.tick - h.mer.tie - (h.counted - h.lastFrame) * h.cur

/-- The tick number the counters predict for the first tick of the next frame. -/
def Head.nextFrameTick (h : Head) : Nat := h.lastFrameTick + 65536 * h.cur

/-- The frame nearest the counters, and the counters' offset from its first tick (positive: the counters are past it). -/
def Head.nearestFrame (h : Head) : Nat × Int :=
  let past := h.mer.tick - h.lastFrameTick
  let ahead := h.nextFrameTick - h.mer.tick
  if past ≤ ahead then (h.lastFrame, (past : Int)) else (h.lastFrame + 65536, -(ahead : Int))

/-- The epoch length the counters predict from a frame onward: the armed one at and after the armed epoch (R30). -/
def Head.predictedLen (h : Head) (frame : Nat) : Nat :=
  if h.rd MER_EPLEN_AT_AT ≤ frame ∧ h.counted < h.rd MER_EPLEN_AT_AT then h.rd MER_EPLEN_NEXT else h.cur

/-- The tick number the counters predict for the first tick of a frame, at the lengths armed. -/
def Head.predictedTick (h : Head) (frame : Nat) : Nat :=
  let at_ := h.rd MER_EPLEN_AT_AT
  let start := h.lastFrameTick
  if frame ≤ h.lastFrame then start - (h.lastFrame - frame) * h.cur
  else if at_ < frame ∧ h.counted < at_ then
    start + (at_ - h.lastFrame) * h.cur + (frame - at_) * h.rd MER_EPLEN_NEXT
  else start + (frame - h.lastFrame) * h.cur

/-! ### Sources -/

/-- What is kept of a source: 0 pair A, 1 pair B, 2 PTP. -/
def Mer.source (m : Mer) (n : Nat) : MerSource := if n = 0 then m.a else if n = 1 then m.b else m.p

/-- Replace what is kept of a source. -/
def Head.setSource (h : Head) (n : Nat) (x : MerSource) : Head :=
  { h with mer := if n = 0 then { h.mer with a := x } else if n = 1 then { h.mer with b := x } else { h.mer with p := x } }

/-- The number of a clock pair's source. -/
def pairSource (p : ClockPair) : Nat := if p then 1 else 0

/-- The QUAL bit of a source. -/
def qualField (n : Nat) : Field := if n = 0 then MER_STS_QUALA else if n = 1 then MER_STS_QUALB else MER_STS_QUALP

/-- The loss bit of a source (R36). -/
def lossField (n : Nat) : Field := if n = 0 then MER_ERR_LOSSA else if n = 1 then MER_ERR_LOSSB else MER_ERR_LOSSP

/-- The pulse-fault bit of a source; PTP has only LOSSP (R36). -/
def pulseField (n : Nat) : Field := if n = 0 then MER_ERR_PULSEA else if n = 1 then MER_ERR_PULSEB else MER_ERR_LOSSP

/-- The MER_ERR register as a number, for the parameter of REF_LOST. -/
def Head.merErr (h : Head) : Nat :=
  [MER_ERR_LOSSA, MER_ERR_LOSSB, MER_ERR_LOSSP, MER_ERR_PULSEA, MER_ERR_PULSEB, MER_ERR_TODBAD, MER_ERR_EPMIS, MER_ERR_LENMIS,
    MER_ERR_PHASEFAR, MER_ERR_HOLDEXP, MER_ERR_TWINDIFF, MER_ERR_CFGERR].foldr (fun f n => h.rd f + 2 * n) 0

/-- A source is qualified; PTP counts only while PTPEN is 1 (R37). -/
def Head.qualified (h : Head) (n : Nat) : Bool :=
  h.is (qualField n) && (n ≠ 2 || h.is MER_CTL_PTPEN)

/-- The order of R37, a source named twice counting at its first position: the source of each place, none for 3. -/
def Head.priorities (h : Head) : List Nat :=
  ([h.rd MER_CTL_PRI0, h.rd MER_CTL_PRI1, h.rd MER_CTL_PRI2].filter (· < 3)).eraseDups

/-- The first qualified source in the order (R37). -/
def Head.bestSource (h : Head) : Option Nat := h.priorities.find? h.qualified

/-- The place of a source in the order; a source not named stands after all. -/
def Head.rankOf (h : Head) (n : Nat) : Nat := h.priorities.findIdx (· = n)

/-- A source is selected: SRC shows it and no alignment is under way. -/
def Head.selected (h : Head) : Option Nat :=
  let s := h.rd MER_STS_SRC
  if s < 3 ∧ h.is MER_STS_ALIGNING = false then some s else none

/-- End an alignment without more (R40): another source was selected or the pair qualified. -/
def Head.endAlignment (h : Head) : Head :=
  { (h.wr MER_STS_ALIGNING 0) with mer := { h.mer with aligning := none } }

/-- The twin permits TWIN (R39): TWINSTEER, Sundog up, and the twin in A, B or PTP, or this head 1 and the twin in HOLDOVER
or FREERUN, by its newest heartbeat. -/
def Head.twinPermits (h : Head) : Bool :=
  h.is MER_CTL_TWINSTEER && h.is SD_STS_LINKUP &&
    (match h.sd.newest with
      | some hb => hb.src.val ≤ 2 || (h.headId = 1 && (hb.src.val = 3 || hb.src.val = 5))
      | none => false)

/-- TWIN_STATE_EXIT (R39): in TWIN with the conditions ended, the head goes to FREERUN. -/
def Head.twinExit (h : Head) : Head :=
  if h.rd MER_STS_SRC = 4 ∧ h.twinPermits = false then h.wr MER_STS_SRC 5 else h

/-- Abandon alignment (R40): SRC returns to the state held before, and MER_HOLD resumes from its value; a TWIN whose conditions
have ended in the meantime does not last (R39). -/
def Head.abandonAlignment (h : Head) : Head :=
  ((h.endAlignment).wr MER_STS_SRC h.mer.savedSrc).twinExit

/-- Select a source and post REF_SELECT with the phase of its last pulse (R37, R50); any alignment ends. -/
def Head.selectSource (h : Head) (n : Nat) : Head :=
  let old := if h.is MER_STS_ALIGNING then h.mer.savedSrc else h.rd MER_STS_SRC
  ((h.endAlignment).wr MER_STS_SRC n).post 2 0x0201 1 old n h.mer.tick (wrap64 (h.mer.source n).phase)

/-- HOLDOVER_ENTER (R37, R38): no source is qualified; MER_HOLD is cleared and starts counting. -/
def Head.enterHoldover (h : Head) : Head :=
  ((h.wr MER_STS_SRC 3).wr MER_HOLD_HOLD 0).post 2 0x0203 2 (h.rd MER_STS_SRC) h.mer.tick 0 0

/-- A source that has become qualified is selected from HOLDOVER, TWIN, FREERUN or a start without a source, and over a
lower source unless NONREV is 1 (R37, R39). One that was qualified before a write of MER_CTL names it is not selected by the
write; it is when it qualifies again, or when the selected source fails (assumption log 72, DESIGN CHOICE). -/
def Head.promote (h : Head) (n : Nat) : Head :=
  if ¬ h.priorities.contains n ∨ h.qualified n = false then h else
    match h.selected with
    | none => h.selectSource n
    | some s =>
      if h.qualified s = false then h
      else if h.is MER_CTL_NONREV = false ∧ h.rankOf n < h.rankOf s then h.selectSource n else h

/-- A qualified source is disqualified: its MER_ERR bit is set and REF_LOST posted (R36). A clock loss of a source that was
not qualified sets the bit and posts nothing. -/
def Head.disqualify (h : Head) (n : Nat) (bit : Field) (loss : Bool) : Head :=
  let was := h.is (qualField n)
  let h := if was ∨ loss then h.wr bit 1 else h
  let h := h.setSource n { h.mer.source n with good := 0, freqOk := (h.mer.source n).freqOk && !loss }
  if was then (h.wr (qualField n) 0).post 2 0x0202 1 n h.merErr h.mer.tick 0 else h

/-- Alignment of a pair ends when the pair fails (R40). -/
def Head.alignmentLost (h : Head) (n : Nat) : Head :=
  if h.mer.aligning = some (decide (n = 1)) ∧ n < 2 then h.abandonAlignment else h

/-- PHASE_FAR (R41): the source is barred until reset; an alignment toward it is abandoned. -/
def Head.phaseFar (h : Head) (n : Nat) (off : Int) (announced : Nat) : Head :=
  let h := h.alignmentLost n
  let h := h.setSource n { h.mer.source n with barred := true, good := 0 }
  (h.wr MER_ERR_PHASEFAR 1).post 2 0x0206 2 n (wrap64 off) announced 0

/-! ### The time-of-day line -/

/-- The fields of a time-of-day message that passes the checks of R24 on its own bytes. -/
def parseTod (b : List Byte) : Option (Nat × Nat × Nat × Nat) :=
  if b.length = 40 ∧ leAt b 0 2 = 0xC3A5 ∧ leAt b 2 1 = 1 ∧ leAt b 3 1 < 2 ∧ leAt b 6 2 = 0
      ∧ leAt b 8 8 < 2 ^ 63 ∧ (crc32c (b.take 36)).toNat = leAt b 36 4 then
    some (leAt b 8 8, leAt b 16 8, leAt b 24 8, leAt b 4 2)
  else none

/-- TODBAD (R24): a message that may not be used is discarded. -/
def Head.todBad (h : Head) : Head :=
  { (h.wr MER_ERR_TODBAD 1).wr MER_STS_TODOK 0 with mer := { h.mer with todGood := 0 } }

/-- A message of another length than CUR before the epoch is valid: LENMIS, and it is not used for acquisition (R43). -/
def Head.todLength (h : Head) (e len : Nat) : Head :=
  ((h.wr MER_ERR_LENMIS 1).wr MER_STS_TODOK 0).post 2 0x020A 2 len h.cur e 0

/-- A message that agrees with the counters in everything but its name: TICK and TAI, then EPLEN (R25). -/
def Head.todTimes (h : Head) (m : TodHeld) : Bool := m.tick = h.predictedTick m.epoch && m.tai = h.taiOf m.tick

/-- TOD_MISMATCH or LENGTH_MISMATCH (R25) against the frame the counters predict: the line is ignored until two consecutive
consistent messages. The message stays held for what it names (R40, R41). A message on a line already ignored sets the bit and
posts like the first (assumption log 72, DESIGN CHOICE). -/
def Head.todInconsistent (h : Head) (m : TodHeld) (frame : Nat) (lenOnly : Bool) : Head :=
  let h := { h with mer := { h.mer with tod := some { m with ok := false }, todSuspended := true, todGood := 0 } }
  let h := h.wr MER_STS_TODOK 0
  if lenOnly then (h.wr MER_ERR_LENMIS 1).post 2 0x020A 2 m.len h.cur m.epoch 0
  else (h.wr MER_ERR_EPMIS 1).post 2 0x0205 2 m.epoch frame m.tick (h.predictedTick frame)

/-- A message may announce this frame: the next one, or one the counters stand within 65,536 ticks of (R25, R40; assumption
log 61, DEDUCED). -/
def Head.mayAnnounce (h : Head) (e : Nat) : Bool :=
  e = h.lastFrame + 65536 || (e = h.lastFrame && h.mer.tick ≤ h.lastFrameTick + 65536)
    || (e = h.lastFrame + 131072 && h.nextFrameTick ≤ h.mer.tick + 65536)

/-- A message that the next pulse may still find too late: it came less than 2,500 ticks ago (R24). -/
def Head.tooLate (h : Head) (m : TodHeld) : Bool := decide (h.mer.sinceReset < m.arrived + 2500)

/-- The line is kept as it stands before a message that may turn out too late. -/
def Head.keepLine (h : Head) : Head :=
  if h.mer.tod.any h.tooLate then h
  else { h with mer := { h.mer with todBefore := { held := h.mer.tod, ignored := h.mer.todSuspended, good := h.mer.todGood } } }

/-- A pulse comes less than 2,500 ticks after the message held: the message is discarded, and the line is as it was before it
(R24). -/
def Head.dropLate (h : Head) : Head :=
  let l := h.mer.todBefore
  let h := h.todBad
  { h with mer := { h.mer with tod := l.held, todSuspended := l.ignored, todGood := l.good } }

/-- A valid message (R25, R43): held, a later one in its place; before the counters are valid one of another length is not. -/
def Head.todValid (h : Head) (m : TodHeld) : Head :=
  if h.is MER_STS_EPVALID = false then
    if m.len ≠ h.cur then h.todLength m.epoch m.len else { h with mer := { h.mer with tod := some m } }
  else if h.mayAnnounce m.epoch = false then h.todInconsistent m (h.lastFrame + 65536) false
  else if h.todTimes m = false then h.todInconsistent m m.epoch false
  else if m.len ≠ h.predictedLen m.epoch then h.todInconsistent m m.epoch true
  else
    let h := h.wr MER_STS_TODOK 1
    if h.mer.todSuspended ∧ h.mer.todGood = 0 then
      { h with mer := { h.mer with tod := some { m with ok := false }, todGood := 1 } }
    else { h with mer := { h.mer with tod := some m, todSuspended := false, todGood := 0 } }

/-- A time-of-day message (R24): `afterPulse`: its first byte came after the previous frame pulse. Whether it came early enough the
next pulse shows. -/
def Head.todMessage (h : Head) (bytes : List Byte) (afterPulse : Bool) : Head :=
  match parseTod bytes with
  | none => h.todBad
  | some (e, t, tai, len) =>
    if afterPulse = false then h.todBad
    else h.keepLine.todValid { epoch := e, tick := t, tai := tai, len := len, arrived := h.mer.sinceReset, ok := true }

/-- The message that accompanies a pulse of a source: it came after that source's previous pulse, within the frame, and 2,500
ticks before this pulse; one that came later than that is discarded (R24; assumption log 61, DEDUCED). -/
def Head.takeTod (h : Head) (n : Nat) : Option TodHeld × Head :=
  let before (m : TodHeld) : Bool := (h.mer.source n).pulseAt.any (m.arrived ≤ ·)
  let h := if h.mer.tod.any (fun m => h.tooLate m && ! before m) then h.dropLate else h
  (h.mer.tod.filter (fun m => ! before m && decide (h.mer.sinceReset ≤ m.arrived + (65536 * h.cur + 65536))), h)

/-- A message agrees with the counters in a frame (R25). -/
def Head.todAgrees (h : Head) (m : TodHeld) (frame : Nat) : Bool :=
  m.epoch = frame && h.todTimes m && m.len = h.predictedLen frame

/-- The message that accompanies a pulse near a frame's tick counts for the pair where it is consistent; one that disagrees with
the pulse is handled under R25 (R35, R41). -/
def Head.todUse (h : Head) (msg : Option TodHeld) (frame : Nat) : Bool × Head :=
  match msg with
  | none => (false, h)
  | some m =>
    if m.ok = false then (false, h)
    else if h.todAgrees m frame then (true, h)
    else (false, h.todInconsistent m frame (m.epoch = frame && h.todTimes m))

/-! ### Frame pulses -/

/-- What is counted of a source toward qualification starts anew. -/
def MerSource.restart (x : MerSource) : MerSource := { x with good := 0, lastPulse := Option.none }

/-- Throw the loaded counters away: acquisition restarts (R43). -/
def Head.discardCounters (h : Head) : Head :=
  { h with mer := { h.mer with tie := 0, early := 0, loaded := false, loader := none,
                               a := h.mer.a.restart, b := h.mer.b.restart } }

/-- COUNTER_ACQUIRE (R43): at a pulse on a pair that meets the frequency rule, load the counters from the message that accompanies
it. MER_EPOCH shows the epoch once it is valid. -/
def Head.acquire (h : Head) (p : ClockPair) (msg : Option TodHeld) : Head :=
  match msg with
  | none => h
  | some m =>
    if m.len ≠ h.cur then h.todLength m.epoch m.len
    else
      let at_ := h.mer.loadedAt.getD h.mer.sinceReset
      let h := { h with mer := { h.mer with tick := m.tick, tie := 0, early := m.epoch, loaded := true, loader := some p,
                                            loadedAt := some at_ } }
      let h := h.setSource (pairSource p)
        { h.mer.source (pairSource p) with good := 1, lastPulse := some m.tick }
      h.wr MER_ORIGIN_ORIGIN ((m.tai + 2 ^ 64 - 40 * m.tick % 2 ^ 64) % 2 ^ 64)

/-- A source selected where none is: the first qualified one of the order, or HOLDOVER (R37). -/
def Head.startSource (h : Head) : Head :=
  match h.bestSource with
  | some n => h.selectSource n
  | none => h.enterHoldover

/-- A pair has pulsed near the tick of a frame before in the same frame. -/
def Head.pulsedIn (h : Head) (n frame : Nat) : Bool :=
  (h.mer.source n).lastPulse.any (fun t => decide (h.predictedTick frame ≤ t + 1 ∧ t ≤ h.predictedTick frame + 1))

/-- A pulse within ±1 tick of a frame's tick is counted (R35): two consecutive frames, each with a message that counts. -/
def Head.countPulse (h : Head) (n frame : Nat) (used : Bool) : Head :=
  let s := h.mer.source n
  let before := if h.pulsedIn n frame then 0 else s.good
  let good := if used ∧ s.freqOk then min (before + 1) 2 else 0
  h.setSource n { s with good, lastPulse := some h.mer.tick }

/-- A pair qualifies and its alignment ends (R35, R37, R40). -/
def Head.qualify (h : Head) (n : Nat) : Head :=
  if h.mer.aligning = some (decide (n = 1)) then (h.wr (qualField n) 1).selectSource n
  else (h.wr (qualField n) 1).promote n

/-- A pulse of the loading pair at a later frame (R43): consistent, the epoch is valid and the pair qualified, and the other pair
with it where its pulses of both frames came before; otherwise the counters are discarded. -/
def Head.confirmAcquisition (h : Head) (p : ClockPair) (msg : Option TodHeld) : Head :=
  let (frame, off) := h.nearestFrame
  if off.natAbs ≤ 1 ∧ msg.any (fun m => h.todAgrees m frame) then
    let n := pairSource p
    let h := (h.wr MER_EPOCH_EPOCH h.mer.early).wr MER_STS_TODOK 1
    let h := h.setSource n { h.mer.source n with good := 2, lastPulse := some h.mer.tick }
    let h := ((h.wr MER_STS_EPVALID 1).wr (qualField n) 1).promote n
    let h := if (h.mer.source (1 - n)).good = 2 ∧ (h.mer.source (1 - n)).barred = false then h.qualify (1 - n) else h
    if h.rd MER_STS_SRC = 6 then h.startSource else h
  else h.discardCounters

/-- A pulse near a frame's tick (R25, R35): two consecutive ones, each with a consistent message, qualify the pair. -/
def Head.nearPulse (h : Head) (n frame : Nat) (msg : Option TodHeld) : Head :=
  let (used, h) := h.todUse msg frame
  let h := h.countPulse n frame used
  if h.is (qualField n) ∨ (h.mer.source n).good < 2 then h else h.qualify n

/-- ALIGNMENT_START (R40): the aligning pair shows in SRC, MER_HOLD stops. -/
def Head.startAlignment (h : Head) (n : Nat) : Head :=
  let h := { h with mer := { h.mer with aligning := some (decide (n = 1)), savedSrc := h.rd MER_STS_SRC } }
  (h.wr MER_STS_ALIGNING 1).wr MER_STS_SRC n

/-- A pulse outside ±1 tick (R36, R40, R41): a qualified pair is disqualified; one beyond 65,536 ticks, or whose message names
another frame, bars the pair; otherwise a pair that is not qualified starts alignment while no source is selected. -/
def Head.farPulse (h : Head) (n frame : Nat) (off : Int) (msg : Option TodHeld) : Head :=
  let was := h.is (qualField n)
  let h := h.setSource n { h.mer.source n with good := 0 }
  let h := if was then h.disqualify n (pulseField n) false else h
  let named := msg.any (fun m => m.epoch = frame)
  if off.natAbs > 65536 ∨ (msg.isSome ∧ named = false) then h.phaseFar n off ((msg.map (·.epoch)).getD noEpoch)
  else if was = false ∧ named ∧ (h.mer.source n).freqOk ∧ h.mer.aligning = none
      ∧ 3 ≤ h.rd MER_STS_SRC ∧ h.rd MER_STS_SRC ≤ 5 then h.startAlignment n
  else h

/-- A frame pulse sampled on a clock pair at the current tick (R35, R36, R40, R41, R43). A barred pair counts for nothing, and a
pulse before the end of the first complete frequency window not for qualification or acquisition. -/
def Head.framePulse (h : Head) (p : ClockPair) : Head :=
  let n := pairSource p
  if (h.mer.source n).barred then h
  else
    let (msg, h) := h.takeTod n
    let h := h.setSource n { h.mer.source n with pulseAt := some h.mer.sinceReset }
    if h.mer.loaded = false then
      if (h.mer.source n).freqOk ∧ h.mer.seed.isNone then h.acquire p msg else h
    else
      let (frame, off) := h.nearestFrame
      let h := h.setSource n { h.mer.source n with phase := off }
      if h.is MER_STS_EPVALID then
        if off.natAbs ≤ 1 then h.nearPulse n frame msg else h.farPulse n frame off msg
      else if h.mer.loader = some p then
        if h.pulsedIn n frame ∨ (h.mer.source n).freqOk = false then h else h.confirmAcquisition p msg
      else if off.natAbs ≤ 1 then h.countPulse n frame (msg.any (fun m => h.todAgrees m frame))
      else h

/-- Four consecutive ticks without an edge of a pair's clock (R36, R40). Counters that the pair loaded stand until the next frame,
where its pulse does not count (R35, R43). -/
def Head.refClockLoss (h : Head) (p : ClockPair) : Head :=
  (h.alignmentLost (pairSource p)).disqualify (pairSource p) (lossField (pairSource p)) true

/-- The end of a frequency window of a source (R35, R36). -/
def Head.frequencyWindow (h : Head) (n : Nat) (inRange : Bool) : Head :=
  if inRange then h.setSource n { h.mer.source n with freqOk := true }
  else (h.alignmentLost n).disqualify n (lossField n) true

/-- REF_SELECT (R37): on the tick after the selected source was disqualified, the first qualified source is selected, or
HOLDOVER entered. With a qualified source selected nothing changes. -/
def Head.refSelect (h : Head) : Head :=
  match h.selected with
  | none => h
  | some s =>
    if h.qualified s then h else
      match h.bestSource with
      | some n => h.selectSource n
      | none => h.enterHoldover

/-- The tick after the ±1 window of a frame (R36): a qualified pair without a pulse in it is disqualified, another starts its count
anew, and counters whose loading pair has none are discarded (R43). -/
def Head.missedPulses (h : Head) : Head :=
  if h.mer.loaded = false ∨ h.mer.tick ≠ h.lastFrameTick + 2 ∨ h.counted ≠ h.lastFrame then h else
    let frame := h.lastFrame
    let miss (h : Head) (n : Nat) : Head :=
      if h.pulsedIn n frame then h
      else if h.is (qualField n) then h.disqualify n (pulseField n) false
      else h.setSource n { h.mer.source n with good := 0 }
    let h := miss (miss h 0) 1
    if h.is MER_STS_EPVALID = false ∧ h.mer.loader.any (fun p => ! h.pulsedIn (pairSource p) frame) then h.discardCounters else h

/-! ### PTP -/

/-- A PTP message reaches the slave: it comes on the chosen port, sub-port, domain and encapsulation (R26). -/
def Head.ptpTuned (h : Head) (m : PtpMsg) : Bool :=
  m.port.val = h.rd FE_PTP_PORT && m.sub.val = h.rd FE_PTP_SUB && m.domain.toNat = h.rd FE_PTP_DOMAIN
    && m.encap.val = h.rd FE_PTP_ENCAP

/-- The MAC's timestamp of this tick (R26; assumption log 72, DESIGN CHOICE: tick by tick). -/
def Head.stampNow (h : Head) : Nat := h.taiOf h.mer.tick

/-- A Sync is complete: the time the master sent it and its arrival are known, and a Delay_Req goes out (R26). -/
def Head.ptpSynced (h : Head) (seq t1 t2 : Nat) : Head :=
  let s := h.mer.ptp
  let h := { h with mer := { h.mer with ptp := { sync := some (seq, t2, some t1), request := some (s.nextSeq, h.stampNow),
                                                 nextSeq := (s.nextSeq + 1) % 65536 } } }
  h.emit (.frame (4 * h.rd FE_PTP_PORT + h.rd FE_PTP_SUB) (.ptpDelayReq (h.rd FE_PTP_ENCAP) (h.rd FE_PTP_DOMAIN) s.nextSeq))

/-- The counters' tick number minus the tick number that PTP time gives, (TAI − MER_ORIGIN) / 40 (R26): the offset from the
master is the Sync's transit less half the transit of Sync and Delay_Req together (assumption log 65, PRESUMED). -/
def Head.ptpPhase (h : Head) (t1 t2 t3 t4 : Nat) : Int :=
  let back : Int := (t2 : Int) - t1
  let fromMaster := back - (back + ((t4 : Int) - t3)) / 2
  (h.mer.tick : Int) - ((h.stampNow : Int) - fromMaster - h.rd MER_ORIGIN_ORIGIN) / 40

/-- How many consecutive frames stand measured with this one: a second measurement in a frame counts no more, a frame passed over
starts the count anew (R35). -/
def Head.ptpCount (h : Head) : Nat :=
  let s := h.mer.p
  if s.lastPulse.any (h.lastFrameTick ≤ ·) then max s.good 1
  else if s.lastPulse.any (h.lastFrameTick ≤ · + 65536 * h.cur) then min (s.good + 1) 2
  else 1

/-- A measurement of the last frame's tick (R35, R36): within PTPWIN it counts toward qualification; one outside sets LOSSP and
disqualifies. -/
def Head.ptpMeasured (h : Head) (off : Int) : Head :=
  let s := h.mer.p
  if s.barred ∨ s.freqOk = false ∨ h.is MER_STS_EPVALID = false then h
  else if off.natAbs ≤ h.rd MER_CTL_PTPWIN then
    let n := h.ptpCount
    let h := h.setSource 2 { s with good := n, lastPulse := some h.mer.tick, phase := off }
    if n < 2 ∨ h.is MER_STS_QUALP ∨ h.is MER_CTL_PTPEN = false then h
    else (h.wr MER_STS_QUALP 1).promote 2
  else ((h.setSource 2 { s with phase := off }).wr MER_ERR_LOSSP 1).disqualify 2 MER_ERR_LOSSP false

/-- A PTP message (R26): Sync and Follow_Up give the master's time, Delay_Resp to the request under way completes a measurement.
Kinds that the slave does not use change nothing. -/
def Head.ptpMessage (h : Head) (m : PtpMsg) : Head :=
  if h.ptpTuned m = false then h
  else
    let seq := m.seq.toNat
    let t := m.stamp.toNat
    match m.kind with
    | .sync false => h.ptpSynced seq t h.stampNow
    | .sync true => { h with mer := { h.mer with ptp := { h.mer.ptp with sync := some (seq, h.stampNow, none) } } }
    | .followUp =>
      (match h.mer.ptp.sync with
        | some (n, t2, none) => if n = seq then h.ptpSynced seq t t2 else h
        | _ => h)
    | .delayResp =>
      (match h.mer.ptp.sync, h.mer.ptp.request with
        | some (_, t2, some t1), some (n, t3) =>
          if n = seq then
            ({ h with mer := { h.mer with ptp := { h.mer.ptp with request := none } } }).ptpMeasured (h.ptpPhase t1 t2 t3 t)
          else h
        | _, _ => h)
    | .announce | .peerDelay | .unicastNegotiation => h

/-- The master is lost for three announce intervals (R36). -/
def Head.ptpMasterLoss (h : Head) : Head := h.disqualify 2 MER_ERR_LOSSP true

/-! ### Holdover and the twin -/

/-- HOLDOVER_LIMIT (R39): MER_HOLD has reached MER_HOLDMAX. -/
def Head.holdoverLimit (h : Head) : Head :=
  if h.rd MER_STS_SRC = 3 ∧ h.rd MER_HOLDMAX_HOLDMAX ≤ h.rd MER_HOLD_HOLD then
    let new := if h.twinPermits then 4 else 5
    ((h.wr MER_ERR_HOLDEXP 1).wr MER_STS_SRC new).post 2 0x0204 2 new (h.rd MER_HOLD_HOLD) 0 0
  else h

/-- Saturate a tick difference at ±32,767 (R42). -/
def satDiff (d : Int) : Int := if d > 32767 then 32767 else if d < -32767 then -32767 else d

/-- The cross-check with the twin (R42): MER_TWIN.DIFF, and TWINDIFF after 16 consecutive heartbeats beyond TWINTOL, posted
again only after 16 consecutive heartbeats within. -/
def Head.crossCheck (h : Head) (d : Int) : Head :=
  let h := h.wr MER_TWIN_DIFF ((satDiff d + 65536) % 65536).toNat
  if (satDiff d).natAbs > h.rd MER_CTL_TWINTOL then
    let n := h.mer.diffOver + 1
    let h := { h with mer := { h.mer with diffOver := n, diffWithin := 0 } }
    if 16 ≤ n ∧ h.mer.diffPosted = false then
      ({ (h.wr MER_ERR_TWINDIFF 1) with mer := { h.mer with diffPosted := true } }).post 2 0x0207 1
        (wrap64 (satDiff d)) (h.rd MER_CTL_TWINTOL) 0 0
    else h
  else
    let n := h.mer.diffWithin + 1
    { h with mer := { h.mer with diffOver := 0, diffWithin := n, diffPosted := h.mer.diffPosted && decide (n < 16) } }

/-- Load the counters from the twin (R43): the tick number T of a heartbeat, the epoch numbering of the CLOCK message held.
A CLOCK whose MER_EPLEN_AT is at or below the epoch found is not used. -/
def Head.loadFromTwin (h : Head) (t : Nat) : Head :=
  match h.sd.clock with
  | none => h
  | some c =>
    let e := c.e0 + (t - c.t0) / c.cur
    if c.cur = 0 ∨ t < c.t0 ∨ c.at_ ≤ e then h else
      let h := { h with mer := { h.mer with tick := t, tie := (t - c.t0) % c.cur, loaded := true, loader := none,
                                            forced := false } }
      let h := (h.wr MER_EPOCH_EPOCH e).wr MER_ORIGIN_ORIGIN c.origin.toNat
      let h := ((h.wr MER_EPLEN_CUR c.cur).wr MER_EPLEN_NEXT c.next).wr MER_EPLEN_AT_AT c.at_
      let h := h.wr MER_STS_EPLENPEND (if c.at_ = noEpoch then 0 else 1)
      (h.wr MER_STS_EPVALID 1).wr MER_STS_SRC 4

/-- The time in which a pair's counters keep the twin route shut has passed without one loading them (R43). -/
def Head.twinSpan (h : Head) : Bool :=
  let span := 2 * 65536 * h.cur
  span ≤ h.mer.sinceReset && h.mer.loadedAt.all (fun t => decide (span < t))

/-- A heartbeat's tick number, corrected as in R42, against the counters: the twin route, the twin override (R43) or the
cross-check. -/
def Head.twinTick (h : Head) (t : Nat) (twinValid : Bool) : Head :=
  if h.is MER_STS_EPVALID then (if twinValid then h.crossCheck ((t : Int) - (h.mer.tick : Int)) else h)
  else if h.is MER_CTL_TWINSTEER = false ∨ twinValid = false ∨ h.mer.seed.isSome then h
  else if h.mer.loaded then
    if ((t : Int) - (h.mer.tick : Int)).natAbs > h.rd MER_CTL_TWINTOL then
      let n := (h.mer.loader.map pairSource).getD 0
      let far := (h.phaseFar n ((h.mer.tick : Int) - t) h.lastFrame).discardCounters
      ({ far with mer := { far.mer with forced := true } }).loadFromTwin t
    else h
  else if h.mer.forced ∨ h.twinSpan then h.loadFromTwin t
  else h

/-! ### Epoch length, seed and budgets -/

/-- A write of MER_EPLEN.NEXT (R29): out of range it is ignored and sets CFGERR; while EPVALID is 0 it sets CUR too. -/
def Head.writeEplenNext (h : Head) (v : Nat) : Head :=
  if v < 100 ∨ 1600 < v then h.wr MER_ERR_CFGERR 1
  else
    let h := h.wr MER_EPLEN_NEXT v
    if h.is MER_STS_EPVALID then h else h.wr MER_EPLEN_CUR v

/-- A write of MER_EPLEN_AT takes effect (R29): a disarm, or a frame at least 65,536 epochs ahead. -/
def Head.eplenAtOk (h : Head) (v : Nat) : Bool :=
  v = noEpoch || (v % 65536 = 0 && h.epoch + 65536 ≤ v)

/-- A write of MER_EPLEN_AT (R29). -/
def Head.writeEplenAt (h : Head) (v : Nat) : Head :=
  if h.eplenAtOk v then (h.wr MER_EPLEN_AT_AT v).wr MER_STS_EPLENPEND (if v = noEpoch then 0 else 1)
  else h.wr MER_ERR_CFGERR 1

/-- A write of MER_SEED (R43): the next tick becomes the first tick of the seeded epoch; ignored with CFGERR once a source
has loaded the counters or a twin heartbeat has arrived. -/
def Head.writeSeed (h : Head) (v : Nat) : Head :=
  if h.mer.loaded ∨ h.mer.loadedAt.isSome ∨ h.is MER_STS_EPVALID ∨ h.sd.newest.isSome ∨ h.mer.seed.isSome then h.wr MER_ERR_CFGERR 1
  else
    let h := { h with mer := { h.mer with seed := some v } }
    (h.wr MER_STS_SRC 5).post 2 0x0209 1 v 0 0 0

/-- The eight background classes in register order (R47). -/
def budgetFields : List Field :=
  [MER_BUDA_GC, MER_BUDA_FOLD, MER_BUDA_PATROL, MER_BUDA_SCRUB, MER_BUDB_CKPT, MER_BUDB_REBUILD, MER_BUDB_RESHAPE,
    MER_BUDB_AUDIT]

/-- The sum of the eight budgets. -/
def Head.budgetSum (h : Head) : Nat := (budgetFields.map h.rd).foldl (· + ·) 0

/-- A write of MER_BUDA (false) or MER_BUDB (true): four budgets of 11 bits, ignored with CFGERR if the eight would exceed
three quarters of the epoch (R48). -/
def Head.writeBudget (h : Head) (second : Bool) (v : Word) : Head :=
  let fs := if second then budgetFields.drop 4 else budgetFields.take 4
  let new := fs.foldl (fun h f => h.wr f (v.toNat / 2 ^ f.lo)) h
  if new.budgetSum ≤ 3 * h.cur / 4 then new else h.wr MER_ERR_CFGERR 1

/-- Rescale the budgets to a new epoch length (R30). -/
def Head.rescaleBudgets (h : Head) (old new : Nat) : Head :=
  budgetFields.foldl (fun h f => h.wr f (h.rd f * new / old)) h

/-- The key of one resource of one background class (R47): each stream engine, accelerator and module port separately. -/
def budgetKey (cls resource : Nat) : Nat := resource * 8 + cls

/-- The ticks a class may still take on a resource in this epoch (R47). -/
def Head.budgetLeft (h : Head) (cls resource : Nat) : Nat :=
  let k := budgetKey cls resource
  h.rd (budgetFields.getD cls MER_BUDA_GC) - Tbl.get 0 h.mer.debt k - Tbl.get 0 h.mer.spent k

/-- A class takes ticks on a resource. -/
def Head.budgetSpend (h : Head) (cls resource ticks : Nat) : Head :=
  let k := budgetKey cls resource
  { h with mer := { h.mer with spent := Tbl.set 0 h.mer.spent k (Tbl.get 0 h.mer.spent k + ticks) } }

/-- BUDGET_RENEW (R47): unused budget lapses; the overrun is owed, at most one epoch's budget. -/
def Head.budgetRenew (h : Head) : Head :=
  let keys := ((h.mer.spent ++ h.mer.debt).map (·.1)).eraseDups
  let debt := keys.foldl (fun acc k =>
    let b := h.rd (budgetFields.getD (k % 8) MER_BUDA_GC)
    Tbl.set 0 acc k (min b (Tbl.get 0 h.mer.spent k + Tbl.get 0 h.mer.debt k - b))) ([] : Tbl Nat)
  { h with mer := { h.mer with debt := debt, spent := [] } }

/-! ### Ticks -/

/-- EPLEN_CHANGE (R30): at the armed epoch CUR takes NEXT, the change is disarmed and the budgets are rescaled. -/
def Head.eplenChange (h : Head) : Head :=
  if h.rd MER_EPLEN_AT_AT = h.epoch ∧ h.is MER_STS_EPLENPEND then
    let old := h.cur
    let new := h.rd MER_EPLEN_NEXT
    let h := (h.wr MER_EPLEN_CUR new).wr MER_EPLEN_AT_AT noEpoch
    ((h.wr MER_STS_EPLENPEND 0).rescaleBudgets old new).post 2 0x0208 0 old new h.epoch 0
  else h

/-- What every generated tick does (R27, R38, R43): the count since reset, MER_HOLD in HOLDOVER, and the tick counter by
exactly one; the tick in epoch once counters are loaded. A pending seed becomes the counters. -/
def Head.countTick (h : Head) : Head :=
  let h := { h with mer := { h.mer with sinceReset := h.mer.sinceReset + 1 } }
  let h := if h.rd MER_STS_SRC = 3 then h.wr MER_HOLD_HOLD (h.rd MER_HOLD_HOLD + 1) else h
  match h.mer.seed with
  | some e =>
    let h := { h with mer := { h.mer with tick := e * h.cur, tie := 0, loaded := true, seed := none } }
    ((h.wr MER_EPOCH_EPOCH e).wr MER_ORIGIN_ORIGIN 0).wr MER_STS_EPVALID 1
  | none =>
    { h with mer := { h.mer with tick := h.mer.tick + 1, tie := h.mer.tie + h.mer.loaded.toNat } }

/-- The next generated tick is the first tick of the next epoch (R28). -/
def Head.boundaryDue (h : Head) : Bool := h.mer.loaded && h.mer.seed.isNone && decide (h.cur ≤ h.mer.tie + 1)

/-- The epoch number advances by exactly one, and the tick in epoch returns to 0 (R28). -/
def Head.advanceEpoch (h : Head) : Head :=
  if h.is MER_STS_EPVALID then { (h.wr MER_EPOCH_EPOCH ((h.epoch + 1) % 2 ^ 63)) with mer := { h.mer with tie := 0 } }
  else { h with mer := { h.mer with tie := 0, early := (h.mer.early + 1) % 2 ^ 63 } }

/-- MER_EPOCH_READ (R49): the tick in epoch, tick number and TAI of this tick are latched. -/
def Head.latchEpoch (h : Head) : Head :=
  ((h.wr MER_TIE_TIE h.mer.tie).wr MER_TICK_TICK h.mer.tick).wr MER_TAI_TAI (h.taiOf h.mer.tick)

end Sys2Proof.Machine
end

