-- ==== Sys2Proof/Machine/Memory.lean ====
section
/-! DEFINITION. The DRAM controller (spec/16_memory.md, R425 to R441): population, address decoding, the fill, refresh,
frequency change, repair, the merge buffer, codes, poison, test mode and scrub. -/
namespace Sys2Proof.Machine
open Reg

/-! ### Address decoding (R427, R428) -/

/-- Where a line lies. -/
structure DramLoc where
  chan : Nat
  sub : Nat
  rank : Nat
  bg : Nat
  ba : Nat
  row : Nat
  col : Nat
  deriving DecidableEq, Repr

/-- The split of a channel-local line under an order (R428). -/
def splitLine (order r w x : Nat) : DramLoc :=
  match order with
  | 1 => { chan := 0, col := bitsAt x 0 7, sub := bitsAt x 7 1, ba := bitsAt x (8 + w) 2, bg := bitsAt x (10 + w) 3,
           rank := bitsAt x (13 + w) r, row := bitsAt x 8 w }
  | 2 => { chan := 0, col := bitsAt x 4 7, sub := bitsAt x 3 1, ba := bitsAt x 11 2, bg := bitsAt x 0 3,
           rank := bitsAt x 13 r, row := bitsAt x (13 + r) w }
  | 3 => let row := bitsAt x (13 + r) w
         { chan := 0, col := bitsAt x 0 7, sub := bitsAt x 7 1, ba := bitsAt x 8 2 ^^^ bitsAt row 3 2,
           bg := bitsAt x 10 3 ^^^ bitsAt row 0 3, rank := bitsAt x 13 r, row := row }
  | _ => { chan := 0, col := bitsAt x 0 7, sub := bitsAt x 7 1, ba := bitsAt x 8 2, bg := bitsAt x 10 3,
           rank := bitsAt x 13 r, row := bitsAt x (13 + r) w }

/-- Where line `n` lies with `ch` channels (R427, R428). -/
def locateLine (ch order r w n : Nat) : DramLoc :=
  { splitLine order r w (n / 4 / ch * 4 + n % 4) with chan := n / 4 % ch }

/-- Where line `n` lies in this head's DRAM. -/
def Head.locate (h : Head) (n : Nat) : DramLoc :=
  locateLine (h.rd MEM_CFG_CHANS) (h.rd MEM_CFG_ORDER) (h.rd MEM_CFG_RBITS) (h.rd MEM_CFG_WBITS) n

/-- The line number of a DRAM address (R427). -/
def lineOf (a : Nat) : Nat := (a - dramBase) / 64

/-- The address of a line. -/
def lineAddr (n : Nat) : Nat := dramBase + 64 * n

/-- MEM_PPR.LOC of a place (the register's field map). -/
def DramLoc.loc (l : DramLoc) : Nat := l.chan + 16 * l.sub + 32 * l.rank + 256 * l.bg + 2048 * l.ba

/-! ### The line code (R437 to R439) -/

/-- The ciphertext of a line (R438): AES-256-XTS, the tweak being the line's address. -/
def Head.lineCipher (h : Head) (n : Nat) : List Byte :=
  Config.encrypt 1 h.memc.key (toBytes 16 (lineAddr n)) (h.bytes (lineAddr n) 64)

/-- What the code makes of a line: clean, corrected with the device, or uncorrectable. A line the controller itself wrote
last is clean. -/
def Head.lineState (h : Head) (n : Nat) : Soft :=
  match Tbl.find h.memc.lines n with
  | none => .clean
  | some l => if l.poison then .uncorrectable else
      match Config.lineDecode l.cipher l.check with
      | some (_, some d) => .corrected d
      | some (_, none) => .clean
      | none => .uncorrectable

/-- A raw line that can be read is written back corrected: its cells are again what the controller writes (R434, R441). -/
def Head.settleLine (h : Head) (n : Nat) : Head :=
  match Tbl.find h.memc.lines n with
  | none => h
  | some l => if l.lost then h else { h with memc := { h.memc with lines := Tbl.del h.memc.lines n } }

/-- The lines of bytes [a, a+n) from which no data can be read (R439). -/
def Head.badLines (h : Head) (a n : Nat) : List Nat :=
  (h.memc.lines.filter (fun e => e.2.lost && decide (a < lineAddr e.1 + 64 ∧ lineAddr e.1 < a + n))).map (·.1)

/-- `n` bytes, those of lines from which no data can be read as zeros (R439). -/
def Head.bytesOrZero (h : Head) (a n : Nat) : List Byte :=
  match h.badLines a n with
  | [] => h.bytes a n
  | bad => (h.bytes a n).zipIdx.map (fun p => if bad.contains (lineOf (a + p.2)) then 0 else p.1)

/-- Record an error in MEM_ELOG0 and MEM_ELOG1: the first uncorrectable one since UE was last clear, or else the newest
correction. -/
def Head.logLine (h : Head) (n : Nat) (unc : Bool) (dev : Nat) : Head :=
  if h.is MEM_ERR_UE ∧ h.is MEM_ELOG0_UNC then h else
    let l := h.locate n
    let h := (h.wr MEM_ELOG0_ADDR (lineAddr n)).wr MEM_ELOG0_UNC unc.toNat
    let h := (((h.wr MEM_ELOG1_CHAN l.chan).wr MEM_ELOG1_SUB l.sub).wr MEM_ELOG1_RANK l.rank).wr MEM_ELOG1_BG l.bg
    (((h.wr MEM_ELOG1_BA l.ba).wr MEM_ELOG1_ROW l.row).wr MEM_ELOG1_COL l.col).wr MEM_ELOG1_DEV dev

/-- MEM_ELOG1 as a number, the parameter of MEM_UNCORR. -/
def Head.elog1 (h : Head) : Nat :=
  h.rd MEM_ELOG1_CHAN + 2 ^ 4 * h.rd MEM_ELOG1_SUB + 2 ^ 5 * h.rd MEM_ELOG1_RANK + 2 ^ 8 * h.rd MEM_ELOG1_BG
    + 2 ^ 11 * h.rd MEM_ELOG1_BA + 2 ^ 13 * h.rd MEM_ELOG1_ROW + 2 ^ 30 * h.rd MEM_ELOG1_COL
    + 2 ^ 37 * h.rd MEM_ELOG1_DEV

/-- PPR_CANDIDATE (R434): a row's corrections in this pass reach ROWCE; posted once for the row in the pass. -/
def Head.countRow (h : Head) (n : Nat) : Head :=
  let l := h.locate n
  let k := l.row * 2 ^ 13 + l.loc
  let c := Tbl.get 0 h.memc.rowCe k + 1
  let h := { h with memc := { h.memc with rowCe := Tbl.set 0 h.memc.rowCe k c, passCe := h.memc.passCe + 1 } }
  if c = h.rd MEM_PPRTHR_ROWCE then h.post 10 0x0A02 1 l.loc l.row c (h.rd MEM_SCRPOS_PASSES) else h

/-- A corrected access (R437): counted and logged. -/
def Head.correctedAccess (h : Head) (n dev : Nat) : Head :=
  let h := (h.wr MEM_ERR_CE 1).bump (MEM_CE_CE.nth (h.locate n).chan) 1
  h.logLine n false dev

/-- MEM_UNCORR (R439): an uncorrectable access is logged, counted and posted; `who` is the requester of R455. -/
def Head.uncorrAccess (h : Head) (n who : Nat) : Head :=
  let poisoned := (Tbl.find h.memc.lines n).any (·.poison)
  let h := h.logLine n true 15
  let h := (h.wr MEM_ERR_UE 1).bump (MEM_CE_UE.nth (h.locate n).chan) 1
  h.post 10 0x0A01 2 (lineAddr n) h.elog1 who poisoned.toNat

/-- One line is accessed by a requester, the code reporting `soft` beside what the line itself holds. The result says
whether the data can be delivered. A corrected line is not rewritten (R437). -/
def Head.touchLine (h : Head) (n who : Nat) (soft : Soft) : Bool × Head :=
  match soft, h.lineState n with
  | .uncorrectable, _ => (false, h.uncorrAccess n who)
  | _, .uncorrectable => (false, h.uncorrAccess n who)
  | .corrected d, _ => (true, h.correctedAccess n d.val)
  | .clean, .corrected d => (true, h.correctedAccess n d.val)
  | .clean, .clean => (true, h)

/-- A requester meets lines that it cannot read. -/
def Head.meetBad (h : Head) (who : Nat) (ls : List Nat) : Head := ls.foldl (fun (h : Head) n => h.uncorrAccess n who) h

/-- The lines that bytes [a, a+n) of DRAM touch. -/
def linesOf (a n : Nat) : List Nat :=
  if n = 0 then [] else (List.range (lineOf (a + n - 1) + 1 - lineOf a)).map (· + lineOf a)

/-- Every line of a range is accessed; the result says whether all of them could be delivered. -/
def Head.touchLines (h : Head) (who : Nat) : List Nat → Bool × Head
  | [] => (true, h)
  | n :: t =>
    let (ok, h) := h.touchLine n who .clean
    let (rest, h) := h.touchLines who t
    (ok && rest, h)

/-- Merge entries of lines are written back. -/
def Head.mergeOut (h : Head) (ls : List Nat) : Head :=
  { h with memc := { h.memc with merge := h.memc.merge.filter (fun l => ¬ ls.contains l) } }

/-- A read of memory by a requester: the bytes, or none where a line is uncorrectable (R439). Billow and local memories have
no raw lines. A queued or merging write is written first (R435). -/
def Head.readMem (h : Head) (a n who : Nat) : Option (List Byte) × Head :=
  if a < dramBase then (some (h.bytes a n), h) else
    let (ok, h) := (h.mergeOut (linesOf a n)).touchLines who (linesOf a n)
    if ok then (some (h.bytes a n), h) else (none, h)

/-- One line of a write (R436): a whole line replaces what the cells held; a narrow write takes or joins a merge entry after
its line was read and corrected, and fails on an uncorrectable line. With the buffer full the oldest entry is written back. -/
def Head.writeLine (h : Head) (n who : Nat) (whole : Bool) : Bool × Head :=
  if whole then
    (true, { h with memc := { h.memc with lines := Tbl.del h.memc.lines n, merge := h.memc.merge.filter (· ≠ n) } })
  else if h.memc.merge.contains n then (true, h)
  else
    let (ok, h) := h.touchLine n who .clean
    if ok then
      let h := h.settleLine n
      let old := if 32 ≤ h.memc.merge.length then h.memc.merge.drop 1 else h.memc.merge
      (true, { h with memc := { h.memc with merge := old ++ [n] } })
    else (false, h)

/-- The lines of a write in turn: those that fail. -/
def Head.writeLines (h : Head) (who a len : Nat) : List Nat → List Nat × Head
  | [] => ([], h)
  | n :: t =>
    let (ok, h) := h.writeLine n who (a ≤ lineAddr n && lineAddr n + 64 ≤ a + len)
    let (rest, h) := h.writeLines who a len t
    (if ok then rest else n :: rest, h)

/-- The bytes of a write that lie in one line. -/
def linePart (a : Nat) (b : List Byte) (n : Nat) : Nat × List Byte :=
  let lo := max a (lineAddr n)
  (lo, (b.drop (lo - a)).take (lineAddr n + 64 - lo))

/-- A write of memory by a requester; a narrow part that meets an uncorrectable line fails and writes no byte of it (R436). -/
def Head.writeMem (h : Head) (a who : Nat) (b : List Byte) : Bool × Head :=
  if a < dramBase then (true, h.put a b) else
    match h.writeLines who a b.length (linesOf a b.length) with
    | ([], h) => (true, h.put a b)
    | (bad, h) =>
      (false, ((linesOf a b.length).filter (fun n => ! bad.contains n)).foldl (fun (h : Head) n =>
        h.put (linePart a b n).1 (linePart a b n).2) h)

/-- DRAM answers: every access before the end of the fill completes with a bus error (R430). -/
def Head.dramAnswers (h : Head) (a : Nat) : Bool := decide (a < dramBase) || h.is MEM_STS_FILLDONE

/-- Every merge entry is written back (R436: FENCE, PWR_FAIL_N, a frequency-change window). -/
def Head.drainMerge (h : Head) : Head := { h with memc := { h.memc with merge := [] } }

/-- A line is written as poison (R439). -/
def Head.poisonLine (h : Head) (n : Nat) : Head :=
  { h with memc := { h.memc with lines := Tbl.put h.memc.lines n { cipher := [], check := [], poison := true } } }

/-! ### GO, the fill and refresh -/

/-- The fields of the active timing and delay sets, each with its shadow (R429). -/
def timingSets : List (Field × Field) :=
  ((List.range 16).map (fun i => (MEM_TIM_SET.nth i, MEM_STIM_SET.nth i)))
    ++ ((List.range 12).flatMap (fun c => (List.range 128).map (fun i => (MEM_DLY_SET.el c i 0, MEM_SDLY_SET.el c i 0))))

/-- A device role lies on a FAILED slot (R458). -/
def Head.roleFailed (h : Head) (r : Nat) : Bool :=
  Tbl.find h.umb.slots (h.rd (UMB_DEVMAP_SLOT.el (r / 8) 0 (r % 8))) = some .failed

/-- GO (R429): ignored with CFGERR before MEM_CFG has been written, while role 1 or 2 lies on a FAILED slot (R458), and
without a random source for the DRAM key (R457, R460). Otherwise the shadow sets become the active sets, the repairs of the
configuration record are reapplied, the DRAM key is drawn into role 1, refresh starts and the fill begins. -/
def Head.memGo (h : Head) : Head :=
  if h.rd MEM_CFG_CHANS = 0 ∨ h.roleFailed 1 ∨ h.roleFailed 2 ∨ h.is UMB_STS_RNGOK = false then h.wr MEM_ERR_CFGERR 1
  else
    let h := timingSets.foldl (fun h p => h.wr p.1 (h.rd p.2)) h
    let h := (h.wr MEM_STS_RUN 1).wr MEM_STS_FILLDONE 0
    let (k, h) := h.drawBytes 64
    let slot := h.rd (UMB_DEVMAP_SLOT.el 0 0 1)
    let rec_ : KeyRec := { key := k, salt := [], kind := 1, use := 0, keyid := 0 }
    let h := { h with umb := { h.umb with slots := Tbl.put h.umb.slots slot (.loaded rec_) } }
    { (h.wr MEM_STS_RATE (h.rd MEM_CTL_RATE)) with memc := { h.memc with goTick := h.mer.sinceReset, key := k } }

/-- The fill ends (R430): every installed line holds zeros, and FILL_DONE is posted. -/
def Head.fillDone (h : Head) : Head :=
  if h.is MEM_STS_RUN = false ∨ h.is MEM_STS_FILLDONE then h else
    let top := dramBase + h.installed
    let h := { h with mem := h.mem.filter (fun c => ¬ (dramBase ≤ c.1 ∧ c.1 < top)),
                      memc := { h.memc with lines := [], merge := [] } }
    (h.wr MEM_STS_FILLDONE 1).post 10 0x0A07 0 h.installed (h.mer.sinceReset - h.memc.goTick) 0 0

/-- A refresh slot of a channel (R44, R431, R432): at a tick T with T mod 97 = 8c, one all-bank refresh to every rank, two
while the channel runs at double refresh; skipped within a frequency-change window and on an unpopulated channel. -/
def Head.refreshSlot (h : Head) (c : Nat) : Head :=
  if h.is MEM_STS_RUN = false ∨ h.rd MEM_CFG_CHANS ≤ c ∨ h.mer.tick % 97 ≠ 8 * c ∨ h.is MEM_STS_FCHGBUSY then h
  else h.emit (.refresh c (2 ^ h.rd MEM_CFG_RBITS) (if bitAt (h.rd MEM_STS_HOTREF) c then 2 else 1))

/-- REFRESH_DOUBLE (R432): the refresh-rate fields read every 1,024 epochs; HOTREF follows, and each change is posted. -/
def Head.refreshDouble (h : Head) (hot : Nat) : Head :=
  if h.epoch % 1024 ≠ 0 ∨ h.is MEM_STS_RUN = false then h else
    (List.range (h.rd MEM_CFG_CHANS)).foldl (fun h c =>
      if bitAt (h.rd MEM_STS_HOTREF) c = bitAt hot c then h
      else (h.wrBit MEM_STS_HOTREF c (bitAt hot c)).post 10 0x0A05 1 c (bitAt hot c).toNat h.epoch 0) h

/-! ### Frequency change and repair -/

/-- The rate is permitted for the population (R426): codes 0 to 4, and at most 5200 MT/s with two RDIMMs per channel. -/
def Head.rateOk (h : Head) (rate : Nat) : Bool := rate ≤ 4 && (h.rd MEM_CFG_DPC ≤ 1 || rate ≤ 1)

/-- FCHG (R433): a window opens at the first tick of the next epoch; ignored with CFGERR while one is open or with RATE above
R426. -/
def Head.memFchg (h : Head) : Head :=
  if h.is MEM_STS_FCHGBUSY ∨ h.rateOk (h.rd MEM_CTL_RATE) = false then h.wr MEM_ERR_CFGERR 1
  else { h with memc := { h.memc with fchgAt := some (h.epoch + 1) } }

/-- The armed window opens at the first tick of its epoch (R433). -/
def Head.windowOpen (h : Head) : Head :=
  match h.memc.fchgAt with
  | some _ => h.wr MEM_STS_FCHGBUSY 1
  | none => h

/-- The lines of a row at a MEM_PPR location, by line number, among those whose cells are raw. -/
def Head.rawOfRow (h : Head) (loc row : Nat) : List Nat :=
  (h.memc.lines.map (·.1)).filter (fun n => (h.locate n).loc = loc ∧ (h.locate n).row = row)

/-- PPR_DONE (R434): the row's lines are read corrected into the reserved Billow area, the repair is issued, and the lines are
written back, an uncorrectable one as poison. `result` is what the devices answer: 1 done, 2 no spare row left, 3 failed. -/
def Head.repairRow (h : Head) (result : Nat) : Head :=
  let loc := h.rd MEM_PPR_LOC
  let row := h.rd MEM_PPR_ROW
  let h := (h.rawOfRow loc row).foldl (fun h n =>
    match h.lineState n with
    | .uncorrectable => h.poisonLine n
    | _ => h.settleLine n) h
  let h := (h.wr MEM_PPR_GO 0).wr MEM_PPR_RESULT result
  let h := if 2 ≤ result then h.wr MEM_ERR_PPRFAIL 1 else h
  h.post 10 0x0A03 1 loc row result h.epoch

/-- The frequency-change window (R433), its steps in order. -/
def Head.freqWindow (h : Head) (result ns : Nat) : Head :=
  if h.is MEM_STS_FCHGBUSY = false then h else
    let old := h.rd MEM_STS_RATE
    let h := h.drainMerge
    let vals := timingSets.map (fun p => (p, h.rd p.1, h.rd p.2))
    let h := vals.foldl (fun h v => (h.wr v.1.1 v.2.2).wr v.1.2 v.2.1) h
    let h := h.wr MEM_STS_RATE (h.rd MEM_CTL_RATE)
    let h := if h.is MEM_PPR_GO then h.repairRow result else h
    let h := { (h.wr MEM_STS_FCHGBUSY 0) with memc := { h.memc with fchgAt := none } }
    h.post 10 0x0A04 0 old (h.rd MEM_STS_RATE) ns h.epoch

/-! ### Scrub and test mode -/

/-- One scrubbed line (R441): read, corrected and written back, an uncorrectable one as poison. -/
def Head.scrubLine (h : Head) (n : Nat) (soft : Soft) : Head :=
  match soft, h.lineState n with
  | .uncorrectable, _ | _, .uncorrectable =>
    let h := (h.uncorrAccess n 6).poisonLine n
    { h with memc := { h.memc with passUe := h.memc.passUe + 1 } }
  | .corrected d, _ => ((h.settleLine n).correctedAccess n d.val).countRow n
  | .clean, .corrected d => ((h.settleLine n).correctedAccess n d.val).countRow n
  | .clean, .clean => h

/-- SCRUB_PASS (R441): the pass ends, the next begins at the first line. -/
def Head.scrubPassEnd (h : Head) : Head :=
  let h := h.bump MEM_SCRPOS_PASSES 1
  let h := h.post 10 0x0A06 0 (h.rd MEM_SCRPOS_PASSES) h.memc.passCe h.memc.passUe h.epoch
  { h with memc := { h.memc with rowCe := [], passCe := 0, passUe := 0 } }

/-- Scrub the lines [first, first+count), those that hold errors: raw lines, and the errors `found` by line number. Merging writes to them
are written first (R435). -/
def Head.scrubRange (h : Head) (first count : Nat) (found : List (Nat × Soft)) : Head :=
  let h := { h with memc := { h.memc with merge := h.memc.merge.filter (fun n => decide (n < first ∨ first + count ≤ n)) } }
  let raw := (h.memc.lines.map (·.1)).filter (fun n => first ≤ n ∧ n < first + count)
  let h := raw.foldl (fun h n => h.scrubLine n .clean) h
  found.foldl (fun h e => if first ≤ e.1 ∧ e.1 < first + count then h.scrubLine e.1 e.2 else h) h

/-- A scrub step (R441): `ticks` of the SCRUB budget buy 16 lines on each channel, walked in address order with a wrap at
the end. `found` are the lines at which the code reported an error. -/
def Head.scrubStep (h : Head) (ticks : Nat) (found : List (Nat × Soft)) : Head :=
  let t := min ticks (h.budgetLeft 3 0)
  if h.is MEM_STS_FILLDONE = false ∨ t = 0 then h else
    let total := h.installed / 64
    let first := (h.rd MEM_SCRPOS_NEXT * 64 - dramBase) / 64
    let count := min (t * 16 * h.rd MEM_CFG_CHANS) total
    let h := h.budgetSpend 3 0 t
    let head := min count (total - first)
    let h := h.scrubRange first head found
    let h := if first + head = total then (h.scrubPassEnd).scrubRange 0 (count - head) found else h
    h.wr MEM_SCRPOS_NEXT ((lineAddr ((first + count) % total)) / 64)

/-- The line the test registers name, where it is installed. -/
def Head.testLine (h : Head) : Option Nat :=
  let a := h.rd MEM_TADDR_LINE * 64
  if h.inDram a 64 then some (lineOf a) else none

/-- What the cells of a line hold: raw bytes, or the ciphertext and check bits of what the controller wrote. -/
def Head.cells (h : Head) (n : Nat) : List Byte × List Byte :=
  match Tbl.find h.memc.lines n with
  | some l => if l.poison then (Config.poisonData n, Config.poisonCheck) else (l.cipher, l.check)
  | none => (h.lineCipher n, Config.lineCheck (h.lineCipher n))

/-- The bytes of the test data registers. -/
def Head.testData (h : Head) : List Byte := (List.range 8).flatMap (fun i => toBytes 8 (h.rd (MEM_TDATA_D.nth i)))

/-- The bytes of the test check registers. -/
def Head.testCheck (h : Head) : List Byte := (List.range 2).flatMap (fun i => toBytes 8 (h.rd (MEM_TCHK_D.nth i)))

/-- Test OP 1 (R440): a line's ciphertext and check bits, uncorrected, into the test registers. -/
def Head.testRead (h : Head) : Head :=
  match h.testLine with
  | none => h
  | some n =>
    let h := h.mergeOut [n]
    let (c, k) := h.cells n
    let h := (List.range 8).foldl (fun h i => h.wr (MEM_TDATA_D.nth i) (leAt c (8 * i) 8)) h
    (List.range 2).foldl (fun h i => h.wr (MEM_TCHK_D.nth i) (leAt k (8 * i) 8)) h

/-- What memory shows of a line with raw cells: the plaintext of what the code makes of them, none where it makes nothing (R437 to
R439). -/
def Head.plainOf (h : Head) (n : Nat) (cipher check : List Byte) : Option (List Byte) :=
  if check = Config.poisonCheck then none
  else (Config.lineDecode cipher check).map (fun c =>
    padTo 64 ((Config.decrypt 1 h.memc.key (toBytes 16 (lineAddr n)) c.1).take 64))

/-- Put raw cells under a line; the poison check pattern poisons it. -/
def Head.setCells (h : Head) (n : Nat) (cipher check : List Byte) : Head :=
  let mem := match h.plainOf n cipher check with
    | some b => Memory.writeAll h.mem (lineAddr n) b
    | none => h.mem
  let line : RawLine := { cipher, check, poison := decide (check = Config.poisonCheck) }
  { h with mem := mem,
           memc := { h.memc with lines := Tbl.put h.memc.lines n line, merge := h.memc.merge.filter (· ≠ n) } }

/-- Test OP 2 (R440): write ciphertext and check bits as given. -/
def Head.testWrite (h : Head) : Head :=
  match h.testLine with
  | none => h
  | some n => h.setCells n h.testData h.testCheck

/-- Test OP 3 (R440): replace the check bits and keep the data. -/
def Head.testCheckWrite (h : Head) : Head :=
  match h.testLine with
  | none => h
  | some n => h.setCells n (h.cells n).1 h.testCheck

/-- A merge entry without a merge for 256 front cycles is written back (R436). -/
def Head.mergeTimeout (h : Head) (n : Nat) : Head :=
  { h with memc := { h.memc with merge := h.memc.merge.filter (· ≠ n) } }

end Sys2Proof.Machine
end

