-- ==== Sys2Proof/Machine/Billow.lean ====
section
/-! DEFINITION. Billow's buffer pools (spec/16_memory.md, R442 to R446). A buffer is named by its pool and its index:
pool × 2^20 + index. -/
namespace Sys2Proof.Machine
open Reg

/-- Bytes in a buffer of a pool: 256 × 4^p. -/
def poolSize (p : Nat) : Nat := 256 * 4 ^ p

/-- The pool of a buffer. -/
def bufPool (b : Nat) : Nat := b / 2 ^ 20
/-- The index of a buffer in its pool. -/
def bufIndex (b : Nat) : Nat := b % 2 ^ 20

/-- The control address of a buffer's first byte (R442). -/
def Head.bufAddr (h : Head) (b : Nat) : Nat :=
  h.rd (BLW_POOL_BASE_BASE.nth (bufPool b)) * 4096 + bufIndex b * poolSize (bufPool b)

/-- A pool's state. -/
def Head.pool (h : Head) (p : Nat) : Pool := Tbl.get Pool.fresh h.pools p

/-- Free buffers of a pool. -/
def Head.poolFree (h : Head) (p : Nat) : Nat :=
  (h.pool p).freed.length + (h.rd (BLW_POOL_CNT_COUNT.nth p) - (h.pool p).next)

/-- The reservation of a class in a pool (R444): 0 HOST, 1 COMMAND, 2 BACKGROUND, 3 CONTROL. -/
def Head.poolRes (h : Head) (p c : Nat) : Nat :=
  h.rd (([BLW_POOL_RES_HOST, BLW_POOL_RES_COMMAND, BLW_POOL_RES_BACKGROUND, BLW_POOL_RES_CONTROL].getD c
    BLW_POOL_RES_HOST).nth p)

/-- USE of a class in a pool (R444). -/
def Pool.useOf (x : Pool) (c : Nat) : Nat := x.use.toList.getD c 0

/-- Replace USE of a class. -/
def Pool.setUse (x : Pool) (c v : Nat) : Pool := { x with use := x.use.setIfInBounds c v }

/-- The buffers an allocation by a class must leave for the other classes (R444). -/
def Head.poolHeld (h : Head) (p c : Nat) : Nat :=
  (([0, 1, 2, 3].filter (· ≠ c)).map (fun d => h.poolRes p d - (h.pool p).useOf d)).foldl (· + ·) 0

/-- The answer of an allocation (R444). -/
inductive AllocAnswer
  | buffer (b : Nat)
  | poolEmpty
  | poolReserved
  deriving DecidableEq, Repr

/-- The rule of R444: an allocation by class `c` in pool `p` may proceed, or why not. -/
def Head.allocCheck (h : Head) (p c : Nat) : Option AllocAnswer :=
  if h.poolFree p = 0 then some .poolEmpty
  else if (h.pool p).useOf c < h.poolRes p c then none
  else if h.poolHeld p c + 1 ≤ h.poolFree p then none
  else some .poolReserved

/-- FREE and LOW follow the pool's free buffers. -/
def Head.showPool (h : Head) (p : Nat) : Head :=
  let f := h.poolFree p
  let h := h.wr (BLW_POOL_STS_FREE.nth p) f
  if f < h.rd (BLW_POOL_STS_LOW.nth p) then h.wr (BLW_POOL_STS_LOW.nth p) f else h

/-- Allocate a buffer of pool `p` for class `c` (R444, R445): the newest freed one, else the next never given out. -/
def Head.allocIn (h : Head) (p c : Nat) : AllocAnswer × Head :=
  match h.allocCheck p c with
  | some a => (a, h.bump (BLW_POOL_STS_FAILS.nth p) 1)
  | none =>
    let x := h.pool p
    let (i, x) := match x.freed with
      | i :: t => (i, { x with freed := t })
      | [] => (x.next, { x with next := x.next + 1 })
    let x := x.setUse c (x.useOf c + 1)
    let b := p * 2 ^ 20 + i
    let h := { h with pools := Tbl.set Pool.fresh h.pools p x, owners := Tbl.put h.owners b c }
    (.buffer b, h.showPool p)

/-- The smallest existing pool whose buffers hold `n` bytes (R442). -/
def Head.poolFor (h : Head) (n : Nat) : Option Nat :=
  (List.range 8).find? (fun p => n ≤ poolSize p && h.rd (BLW_POOL_CNT_COUNT.nth p) ≠ 0)

/-- Return a buffer to its pool (R445): nothing is checked. USE counts buffers in use (R444), so one that is free already counts for no
class. -/
def Head.freeBuf (h : Head) (b : Nat) : Head :=
  let p := bufPool b
  let x := h.pool p
  let x := { x with freed := bufIndex b :: x.freed }
  let x := match Tbl.find h.owners b with
    | some c => x.setUse c (x.useOf c - 1)
    | none => x
  { h with pools := Tbl.set Pool.fresh h.pools p x, owners := Tbl.del h.owners b }.showPool p

/-- Return every buffer of a list. -/
def Head.freeBufs (h : Head) (bs : List Nat) : Head := bs.foldl Head.freeBuf h

/-- The sizes of the buffers for fetched data of `n` bytes (R443): whole 4 MiB buffers of pool 7, then one that holds the
remainder. -/
def dataPools (h : Head) (n : Nat) : Option (List Nat) :=
  let whole := List.replicate (n / 2 ^ 22) 7
  if n % 2 ^ 22 = 0 then some whole else (h.poolFor (n % 2 ^ 22)).map (fun p => whole ++ [p])

/-- Allocate one buffer of each pool of a list for a class, all together or none (R443). -/
def Head.allocAll (h : Head) (c : Nat) : List Nat → Option (List Nat) × Head
  | [] => (some [], h)
  | p :: t =>
    match h.allocIn p c with
    | (.buffer b, h') =>
      match h'.allocAll c t with
      | (some bs, h'') => (some (b :: bs), h'')
      | (none, h'') => (none, h''.freeBuf b)
    | (_, h') => (none, h')

/-- The front complex needs pools 3 and 7, and LOCK (R443). -/
def Head.poolsReady (h : Head) : Bool :=
  h.is BLW_CTL_LOCK && h.rd (BLW_POOL_CNT_COUNT.nth 3) ≠ 0 && h.rd (BLW_POOL_CNT_COUNT.nth 7) ≠ 0

/-- LOCK is set (R442): LOW starts from the free buffers of each pool. -/
def Head.lockPools (h : Head) : Head :=
  (List.range 8).foldl (fun h p =>
    (h.wr (BLW_POOL_STS_FREE.nth p) (h.poolFree p)).wr (BLW_POOL_STS_LOW.nth p) (h.poolFree p)) h

end Sys2Proof.Machine
end

