-- ==== Sys2Proof/Machine/Queues.lean ====
section
/-! DEFINITION. Hardware queues and queue watches (spec/06_terdan_stream_instructions.md, R167, R175). -/
namespace Sys2Proof.Machine
open Reg

/-- A queue exists (R167): module and background queues always, a connection's send queue once it is open (R386), a
front-complex queue while its controller has it. -/
def Head.queueThere (h : Head) (q : Nat) : Bool :=
  if q < 0x8000 then (Tbl.find h.queues q).isSome
  else if q < 0x9000 then true
  else if q < 0x9400 then decide (16 ≤ q - 0x9000) && decide ((h.conn (q - 0x9000)).state ≠ 0)
  else decide (0xFF00 ≤ q) && decide (q < 0xFF08)

/-- A queue. -/
def Head.queue (h : Head) (q : Nat) : Queue := Tbl.get Queue.fresh h.queues q

/-- Replace a queue. -/
def Head.setQueue (h : Head) (q : Nat) (x : Queue) : Head := { h with queues := Tbl.put h.queues q x }

/-- A queue's entries are posted: the new posted count. -/
def Head.enqueue (h : Head) (q : Nat) (ok : Bool) (body : Rec64) : Nat × Head :=
  let x := h.queue q
  let n := x.posted + 1
  (n, h.setQueue q { x with posted := n, waiting := x.waiting ++ [{ count := n, ok := ok, body := body, cpl := none }] })

/-- Watch `w` fires when its condition holds (R175): QUEUE becomes pending at its core and ARM is cleared. -/
def Head.watch (h : Head) (w : Nat) : Head :=
  let q := h.rd (ACC_QW_CTL_QUEUE.nth w)
  if h.is (ACC_QW_CTL_ARM.nth w) ∧ h.rd (ACC_QW_THR_THRESH.nth w) ≤ (h.queue q).done then
    (h.raise (h.rd (ACC_QW_CTL_CORE.nth w)) 4).wr (ACC_QW_CTL_ARM.nth w) 0
  else h

/-- The completion count of a queue advances by one; watches on it may fire. -/
def Head.queueDone (h : Head) (q : Nat) : Head :=
  let x := h.queue q
  let h := h.setQueue q { x with done := x.done + 1 }
  (List.range 32).foldl Head.watch h

/-- The write of ACC_QWw_CTL (R175): ARM stays 0 for an absent queue; a watch whose condition holds fires at once. -/
def Head.armWatch (h : Head) (w v : Nat) : Head :=
  let q := bitsAt v 0 16
  let h := (h.wr (ACC_QW_CTL_QUEUE.nth w) q).wr (ACC_QW_CTL_CORE.nth w) (bitsAt v 16 5)
  let arm := bitAt v 21 && h.queueThere q
  (h.wr (ACC_QW_CTL_ARM.nth w) arm.toNat).watch w

end Sys2Proof.Machine
end

