-- ==== Sys2Proof/Machine/ModIssue.lean ====
section
/-! DEFINITION. What the head sends to its modules (spec/12_module_link.md, R307, R311, R312, R319 to R322;
spec/15_twin_operation.md, R399). -/
namespace Sys2Proof.Machine
open Reg

/-- A module port. Pool position j is the module on root port j (assumption log 10, DESIGN CHOICE). -/
def Head.port (h : Head) (p : Nat) : Port := Tbl.get Port.reset h.ports p

/-- Replace a port. -/
def Head.setPort (h : Head) (p : Nat) (x : Port) : Head := { h with ports := Tbl.set Port.reset h.ports p x }

/-- The modules of the pool (FB_GEOM0.MODS). -/
def Head.mods (h : Head) : Nat := h.rd FB_GEOM0_MODS

/-- This head reaches the module on a port (R261): its link is up, and the port is not stopping (R306) nor fenced at the module (R410). -/
def Head.reaches (h : Head) (p : Nat) : Bool :=
  h.is (ML_P_STS_LINKUP.nth p) && h.rd (ML_P_STS_STATE.nth p) ≠ 3 && ! h.is (ML_P_STS_FENCED.nth p)

/-- The HOLDER value that names this head as sole holder (R319). -/
def Head.ownSole (h : Head) : Nat := 2 + h.headId

/-- The HOLDER value that names the twin as sole holder. -/
def Head.twinSole (h : Head) : Nat := 3 - h.headId

/-- An entry with every field zero. -/
def blankOp (opc : Nat) : ModOp :=
  { opc := BitVec.ofNat 8 opc, flags := 0, pblk := 0, slot := 0, level := 0, subop := 0, offset := 0, len := 0, rest := 0,
    dptr := 0, mptr := 0, gen := 0, exph := 0, newh := 0, hbval := 0 }

/-- A READ_PAGE entry. -/
def readOp (pblk slot off len : Nat) : ModOp :=
  { blankOp 1 with pblk := BitVec.ofNat 32 pblk, slot := BitVec.ofNat 16 slot, offset := BitVec.ofNat 32 off,
                   len := BitVec.ofNat 32 len }

/-- A PROGRAM_PAGE entry. -/
def programOp (pblk slot : Nat) (oneBit : Bool) : ModOp :=
  { blankOp 3 with flags := BitVec.ofNat 8 oneBit.toNat, pblk := BitVec.ofNat 32 pblk, slot := BitVec.ofNat 16 slot,
                   len := 262144 }

/-- An ERASE_BLOCK entry. -/
def eraseOp (pblk : Nat) : ModOp := { blankOp 4 with pblk := BitVec.ofNat 32 pblk }

/-- A LEASE entry. -/
def leaseOp (sub gen exph newh hb : Nat) : ModOp :=
  { blankOp 8 with subop := BitVec.ofNat 8 sub, len := 64, gen := BitVec.ofNat 64 gen, exph := BitVec.ofNat 8 exph,
                   newh := BitVec.ofNat 8 newh, hbval := BitVec.ofNat 64 hb }

/-- A SET_FENCE entry. -/
def fenceOp (self clear : Bool) : ModOp :=
  { blankOp 7 with flags := BitVec.ofNat 8 (2 * self.toNat + 4 * clear.toNat) }

/-- The role (the table of ch. 15, "Roles"). -/
def Head.role (h : Head) : Nat := h.rd SD_PAIR_STS_ROLE

/-- ALONE. -/
def rAlone : Nat := 0
/-- FORMING. -/
def rForming : Nat := 1
/-- PAIRED. -/
def rPaired : Nat := 2
/-- KEEPER. -/
def rKeeper : Nat := 3
/-- JOINING. -/
def rJoining : Nat := 4
/-- LEFT. -/
def rLeft : Nat := 5
/-- FENCED. -/
def rFenced : Nat := 6
/-- BIDDING. -/
def rBidding : Nat := 7

/-- The operations a head may issue in its role (R399). -/
def Head.mayIssue (h : Head) (p : Nat) (op : ModOp) : Bool :=
  let opc := op.opc.toNat
  if h.role = rJoining ∨ h.role = rFenced ∨ h.role = rLeft then
    opc = 5 || opc = 6 || (opc = 8 && decide (op.subop.toNat ≤ 1)) || (h.role = rJoining && (opc = 1 || opc = 2))
      || (h.role = rFenced && opc = 8 && op.newh = 0 && (h.port p).holder = h.ownSole)
  else true

/-- An erase of a dump row, which a joining head makes too: R280 has it erase its dump rows before it is PAIRED (R413). -/
def Purpose.dumpErase : Purpose → Bool
  | .dumpRow _ => true
  | _ => false

/-- An operation is sent on a queue of a port with a fresh CID; a port without its link, or in STOPPING (R306), sends nothing. -/
def Head.issue (h : Head) (p q : Nat) (op : ModOp) (why : Purpose) : Head :=
  if h.is (ML_P_STS_LINKUP.nth p) = false ∨ h.rd (ML_P_STS_STATE.nth p) = 3 ∨ (h.mayIssue p op || (h.role = rJoining && why.dumpErase)) = false then h else
    let x := h.port p
    let cid := x.nextCid
    let h := h.setPort p { x with nextCid := (cid + 1) % 65536,
                                  outstanding := Tbl.put x.outstanding cid { op := op, queue := q, purpose := why } }
    h.emit (.module p cid op)

/-- The ports whose link is up. -/
def Head.linkedPorts (h : Head) : List Nat := (List.range 32).filter (fun p => h.is (ML_P_STS_LINKUP.nth p))

/-- The ports of modules the head reaches. -/
def Head.reachedPorts (h : Head) : List Nat := (List.range 32).filter h.reaches

end Sys2Proof.Machine
end

