-- ==== Sys2Proof/Machine/Budget.lean ====
section
/-! DEFINITION. What the background classes may occupy: module ports, stream engines and accelerators
(spec/02_meridian_epochs.md, R47; spec/09_fogbank_flash.md, R235, R249, R252; spec/10_redundancy.md, R271). -/
namespace Sys2Proof.Machine
open Reg

/-- GC, the class of collection and re-placement. -/
def bGc : Nat := 0
/-- FOLD. -/
def bFold : Nat := 1
/-- PATROL. -/
def bPatrol : Nat := 2
/-- CKPT. -/
def bCkpt : Nat := 4
/-- REBUILD. -/
def bRebuild : Nat := 5
/-- RESHAPE. -/
def bReshape : Nat := 6
/-- AUDIT. -/
def bAudit : Nat := 7

/-- The budget of a class in ticks per epoch. -/
def Head.budgetOf (h : Head) (cls : Nat) : Nat := h.rd (budgetFields.getD cls MER_BUDA_GC)

/-- A module port as a resource (0 is the DRAM channels of the scrub). -/
def portRes (p : Nat) : Nat := 1 + p
/-- A stream engine as a resource. -/
def engineRes (c e : Nat) : Nat := 64 + 9 * c + e
/-- An accelerator as a resource. -/
def accelRes (c a : Nat) : Nat := 512 + 12 * c + a

/-- The class runs without budget: foreground collection (R235), a late checkpoint (R249). -/
def Head.unbudgeted (h : Head) (cls : Nat) : Bool :=
  (cls = bGc && h.is FB_STS_FG) || (cls = bCkpt && h.is FB_STS_CKLATE)

/-- A class may take a resource now: its budget there is not spent. -/
def Head.mayUse (h : Head) (cls resource : Nat) : Bool := h.unbudgeted cls || decide (0 < h.budgetLeft cls resource)

/-- Nothing is outstanding on a module port. -/
def Head.portIdle (h : Head) (p : Nat) : Bool := (h.port p).outstanding = []

/-- The class takes port time that is left idle, without charge: collection under IDLEGC (R235), rebuild in yielding pacing (R271). -/
def Head.mayIdle (h : Head) (cls : Nat) : Bool :=
  (cls = bGc && h.is FB_CTL_IDLEGC) || (cls = bRebuild && h.is PAR_CTL_PACE)

/-- A class may use a module port now. -/
def Head.mayUsePort (h : Head) (cls p : Nat) : Bool := h.mayUse cls (portRes p) || (h.mayIdle cls && h.portIdle p)

/-- The ticks an operation of `n` bytes costs (R252). -/
def opTicks (n : Nat) : Nat := max 1 (ceilDiv n 640)

/-- An operation of a class on a module port is charged, but where the class runs without budget, or has spent it and takes idle time. -/
def Head.chargePort (h : Head) (cls p n : Nat) : Head :=
  if h.unbudgeted cls ∨ h.budgetLeft cls (portRes p) = 0 then h else h.budgetSpend cls (portRes p) (opTicks n)

/-- Operations of a class on ports, each with its bytes, are charged. -/
def Head.chargePorts (h : Head) (cls : Nat) (l : List (Nat × Nat)) : Head := l.foldl (fun (h : Head) p => h.chargePort cls p.1 p.2) h

/-- A class occupies a resource for one tick. -/
def Head.occupy (h : Head) (cls resource : Nat) : Head := if h.unbudgeted cls then h else h.budgetSpend cls resource 1

end Sys2Proof.Machine
end

