-- ==== Sys2Proof/Machine/Half.lean ====
section
/-! DEFINITION. This head's half of an epoch: intent records, the limits of R54, the merge order, the seal's summary, the commit
lag and the journal's free space (spec/03_commit_and_determinism.md, R51 to R57, R66 to R68). -/
namespace Sys2Proof.Machine
open Reg

/-! ### Intent records (R51, R52) -/

/-- The TYPE of a record. -/
def iType (r : Rec64) : Nat := recAt r.toNat 0 1
/-- FLAGS bit 1: a software intent. -/
def iSoft (r : Rec64) : Bool := bitAt (recAt r.toNat 1 1) 1
/-- FLAGS bit 2: a background intent. -/
def iBack (r : Rec64) : Bool := bitAt (recAt r.toNat 1 1) 2
/-- The head that produced it. -/
def iHead (r : Rec64) : Nat := recAt r.toNat 2 1
/-- NSID. -/
def iNsid (r : Rec64) : Nat := recAt r.toNat 4 4
/-- EPOCH. -/
def iEpoch (r : Rec64) : Nat := recAt r.toNat 8 8
/-- CSEQ. -/
def iCseq (r : Rec64) : Nat := recAt r.toNat 16 4
/-- INDEX. -/
def iIndex (r : Rec64) : Nat := recAt r.toNat 20 2
/-- The 64 bytes of a record. -/
def iBytes (r : Rec64) : List Byte := toBytes 64 r.toNat
/-- A record from 64 bytes. -/
def rec64 (b : List Byte) : Rec64 := BitVec.ofNat 512 (ofBytes (b.take 64))
/-- The CRC-32C of a record is right (R51). -/
def iCrcOk (r : Rec64) : Bool := (crc32c ((iBytes r).take 60)).toNat = recAt r.toNat 60 4

/-- A record as the controller completes it (R165): what the program supplied of TYPE, NSID, FLAGS [7:3], the reserved bytes and
PAYLOAD, with HEAD, EPOCH, CSEQ, INDEX, the three flags and CRC of its own. -/
def fillIntent (r : Rec64) (head epoch cseq index : Nat) (last soft background : Bool) : Rec64 :=
  let v := r.toNat
  let body := recOf [(0, 1, recAt v 0 1), (1, 1, last.toNat + 2 * soft.toNat + 4 * background.toNat + recAt v 1 1 / 8 * 8), (2, 1, head),
    (3, 1, recAt v 3 1), (4, 4, recAt v 4 4), (8, 8, epoch), (16, 4, cseq), (20, 2, index), (22, 2, recAt v 22 2),
    (24, 32, recAt v 24 32), (56, 4, recAt v 56 4)]
  BitVec.ofNat 512 (body + (crc32c (toBytes 60 body)).toNat * 2 ^ 480)

/-- CSEQ of software intents. -/
def cseqSoft : Nat := 0xFFFFFFFE
/-- CSEQ of background intents. -/
def cseqBackground : Nat := 0xFFFFFFFF

/-! ### Halves -/

/-- What this head holds of an epoch not committed. -/
def Head.epochSt (h : Head) (e : Nat) : EpochSt := Tbl.get EpochSt.empty h.cmt.epochs e

/-- Replace it. -/
def Head.setEpochSt (h : Head) (e : Nat) (x : EpochSt) : Head :=
  { h with cmt := { h.cmt with epochs := Tbl.set EpochSt.empty h.cmt.epochs e x } }

/-- Put a record into a list in the order of a half (R55): command intents by CSEQ and INDEX, then software, then background
intents. -/
def halfKey (r : Rec64) : Nat := iCseq r * 65536 + iIndex r

/-- Insert by the order of a half, after its equals. -/
def insertHalf (r : Rec64) : List Rec64 → List Rec64
  | [] => [r]
  | x :: t => if halfKey r < halfKey x then r :: x :: t else x :: insertHalf r t

/-- A half in merge order (R55). -/
def mergeHalf (l : List Rec64) : List Rec64 := l.foldl (fun acc r => insertHalf r acc) []

/-- The CRC-32C over a half's intents in merge order (R57). -/
def halfCrc (l : List Rec64) : BitVec 32 := crc32c ((mergeHalf l).flatMap iBytes)

/-- Groups of at most `n` elements, in order; `fuel` bounds their number. -/
def chunksOf {α : Type} (n : Nat) : Nat → List α → List (List α)
  | 0, _ => []
  | fuel + 1, l => if l = [] then [] else l.take n :: chunksOf n fuel (l.drop n)

/-- Intents go to the twin in INTENTS messages of at most 64 records (R384). -/
def Head.sendIntents (h : Head) (rs : List Rec64) : Head :=
  (chunksOf 64 rs.length rs).foldl (fun h g => h.sendTwin (.intents g)) h

/-- Records are recorded in this head's half of an epoch and streamed to the twin (R56). -/
def Head.recordIntents (h : Head) (e : Nat) (rs : List Rec64) : Head :=
  if rs = [] then h else
    let x := h.epochSt e
    (h.setEpochSt e { x with own := x.own ++ rs }).sendIntents rs

/-- The software or background intents recorded for the current epoch (R54). -/
def Head.issued (h : Head) (soft : Bool) : Nat :=
  if h.cmt.softEpoch = h.epoch then (if soft then h.cmt.soft else h.cmt.background) else 0

/-- A software or background intent is counted. -/
def Head.countIssued (h : Head) (soft : Bool) (n : Nat) : Head :=
  let s := h.issued true
  let b := h.issued false
  { h with cmt := { h.cmt with softEpoch := h.epoch, soft := if soft then s + n else s,
                               background := if soft then b else b + n } }

/-- Software or background records are recorded at once with EP as their epoch, as far as the limit of R54 goes; none while
EPVALID is 0. The result says how many were recorded. -/
def Head.issueIntents (h : Head) (soft : Bool) (rs : List Rec64) : Nat × Head :=
  if h.is MER_STS_EPVALID = false then (0, h) else
    let start := h.issued soft
    let n := min rs.length (65536 - start)
    let cseq := if soft then cseqSoft else cseqBackground
    let out := (rs.take n).zipIdx.map (fun p => fillIntent p.1 h.headId h.epoch cseq (start + p.2) false soft (!soft))
    (n, (h.recordIntents h.epoch out).countIssued soft n)

/-! ### Stamping (R31 to R33, R53) -/

/-- A command is counted in the current epoch: its CSEQ. `holds`: it holds the seal until it ends (R56). -/
def Head.stampOne (h : Head) (holds : Bool) : Nat × Head :=
  let e := h.epoch
  let x := h.epochSt e
  (x.commands, h.setEpochSt e { x with commands := x.commands + 1, open_ := x.open_ + holds.toNat })

/-- A stamped command that held the seal of its epoch has ended (R56). -/
def Head.releaseSeal (h : Head) (e : Nat) : Head :=
  let x := h.epochSt e
  h.setEpochSt e { x with open_ := x.open_ - 1 }

/-! ### Lag and journal space (R66 to R68) -/

/-- The newest committed epoch, none before the first commit. -/
def Head.last (h : Head) : Nat := h.rd CMT_LAST_EPOCH

/-- The newest applied epoch. -/
def Head.applied (h : Head) : Nat := h.rd CMT_APPLIED_EPOCH

/-- The commit lag; 0 while no epoch has committed. -/
def Head.lag (h : Head) : Nat := if h.last = noEpoch then 0 else h.epoch - h.last

/-- Bytes of the intent ring: the first quarter of the journal. -/
def Head.intentRing (h : Head) : Nat := h.rd CMT_JSIZE_GIB * 2 ^ 30 / 4

/-- Bytes of the data ring. -/
def Head.dataRingSize (h : Head) : Nat := h.rd CMT_JSIZE_GIB * 2 ^ 30 - h.intentRing

/-- Bytes of the data ring in use. -/
def Head.dataUsed (h : Head) : Nat := (h.cmt.ring.map (fun r => 64 * r.units)).foldl (· + ·) 0

/-- Free MiB of the two rings, rounded down (assumption log 75, DESIGN CHOICE). -/
def Head.freeMiB (h : Head) : Nat × Nat :=
  ((h.intentRing - h.cmt.intentUsed) / 2 ^ 20, (h.dataRingSize - h.dataUsed) / 2 ^ 20)

/-- Journal and lag back-pressure follow the free space and the lag (R66, R67). -/
def Head.backPressure (h : Head) : Head :=
  let lag := h.lag
  let max := h.rd CMT_CTL_LAGMAX
  let low := h.rd CMT_CTL_JLOW
  let (fi, fd) := h.freeMiB
  let short := h.rd CMT_JSIZE_GIB ≠ 0 && (fi < low || fd < low)
  let h := if short && ! h.is CMT_STS_BPJRN then
      ((h.wr CMT_STS_BPJRN 1).wr CMT_ERR_JRNLOW 1).post 2 0x0222 1 fi fd low 0
    else h.wr CMT_STS_BPJRN short.toNat
  let h := h.wr CMT_STS_LAG (min lag 1023)
  if max ≤ lag then h.wr CMT_STS_BPLAG 1
  else if lag + 4 ≤ max ∧ short = false then h.wr CMT_STS_BPLAG 0
  else h

/-- LAG_HIGH (R68): posted once, again only after the lag has fallen below LAGMAX. -/
def Head.lagHigh (h : Head) : Head :=
  let lag := h.lag
  let max := h.rd CMT_CTL_LAGMAX
  if lag < max then { h with cmt := { h.cmt with lagHighArmed := true } }
  else if 2 * max ≤ lag ∧ h.cmt.lagHighArmed then
    (({ h with cmt := { h.cmt with lagHighArmed := false } }).wr CMT_ERR_LAGHIGH 1).post 2 0x0221 2 lag max h.last 0
  else h

/-- Both checks. -/
def Head.lagChecks (h : Head) : Head := (h.backPressure).lagHigh

end Sys2Proof.Machine
end

