-- ==== Sys2Proof/Machine/Works.lean ====
section
/-! DEFINITION. Units of work and the queue pairs they arrive on: operations the controller issues to a host, the data of a
command in Billow, acceptance, statuses, responses and held commands (spec/13_host_front.md, R336, R342 to R349;
spec/02_meridian_epochs.md, R31 to R33; spec/03_commit_and_determinism.md, R61). -/
namespace Sys2Proof.Machine
open Reg

/-! ### Tables -/

/-- A queue pair. -/
def Head.qp (h : Head) (n : Nat) : Option Qp := Tbl.find h.fe.qps n

/-- Replace a queue pair. -/
def Head.setQp (h : Head) (n : Nat) (q : Qp) : Head := { h with fe := { h.fe with qps := Tbl.put h.fe.qps n q } }

/-- Change a queue pair. -/
def Head.updQp (h : Head) (n : Nat) (f : Qp → Qp) : Head := { h with fe := { h.fe with qps := Tbl.upd h.fe.qps n f } }

/-- A controller. -/
def Head.ctl (h : Head) (c : Nat) : Option Ctl := Tbl.find h.fe.ctls c

/-- Change a controller. -/
def Head.updCtl (h : Head) (c : Nat) (f : Ctl → Ctl) : Head := { h with fe := { h.fe with ctls := Tbl.upd h.fe.ctls c f } }

/-- A unit of work. -/
def Head.work (h : Head) (w : Nat) : Option Work := Tbl.find h.works w

/-- Change a unit of work. -/
def Head.updWork (h : Head) (w : Nat) (f : Work → Work) : Head := { h with works := Tbl.upd h.works w f }

/-- A unit of work is entered. -/
def Head.addWork (h : Head) (x : Work) : Nat × Head :=
  (h.nextWork, { h with works := Tbl.put h.works h.nextWork x, nextWork := h.nextWork + 1 })

/-- The queue pair of a host command. -/
def Work.qp (x : Work) : Option Nat := match x.from_ with | .host q _ => some q | .background .. => none

/-- The budget class of a background job (R47, R167). -/
def Work.budget (x : Work) : Option Nat := match x.from_ with | .host .. => none | .background cls _ => some cls

/-- The CID of a host command. -/
def Work.cid (x : Work) : Nat := match x.from_ with | .host _ c => c | .background .. => 0

/-- The commands outstanding on a queue pair. -/
def Head.worksOf (h : Head) (q : Nat) : List (Nat × Work) := h.works.filter (fun e => e.2.qp = some q)

/-! ### Recipe status codes (R174) and NVMe statuses (R347, R348) -/

def rsOk : Nat := 0
def rsPoolEmpty : Nat := 1
def rsTicketsFull : Nat := 2
def rsBadTicket : Nat := 3
def rsBadParam : Nat := 4
def rsOverflow : Nat := 5
def rsNoGain : Nat := 6
def rsDataCorrupt : Nat := 7
def rsKeyLost : Nat := 8
def rsKeyDenied : Nat := 9
def rsAuthFail : Nat := 0xA
def rsCtxBad : Nat := 0xB
def rsVerifyFail : Nat := 0xC
def rsLenMismatch : Nat := 0xD
def rsMediaError : Nat := 0xE
def rsModuleAbsent : Nat := 0xF
def rsUnrecovered : Nat := 0x10
def rsFenced : Nat := 0x11
def rsCapacity : Nat := 0x12
def rsIntentFull : Nat := 0x13
def rsIntentDenied : Nat := 0x14
def rsInflightFull : Nat := 0x15
def rsStale : Nat := 0x16
def rsBadQueue : Nat := 0x17
def rsQueueFull : Nat := 0x18
def rsNoRecipe : Nat := 0x19
def rsRecipeFault : Nat := 0x1A
def rsNotFound : Nat := 0x1B
def rsPoolReserved : Nat := 0x1C

/-- An NVMe status field without its phase bit: code, type, and DNR (R348). `fault`: Internal Error from RECIPE_FAULT. -/
def nvmeStatus (sct sc : Nat) (fault : Bool) : Nat :=
  let retry := sct = 3 || (sct = 0 && (sc = 0 || sc = 0x21 || sc = 0x82 || sc = 4 || (sc = 6 && fault)))
  sc + 256 * sct + (if retry then 0 else 2 ^ 14)

/-- The NVMe status of a recipe status (R347), with the library-defined codes of R189. -/
def recipeStatus (s : Nat) (reads kv : Bool) : Nat :=
  if s = rsOk then nvmeStatus 0 0 false
  else if s = rsPoolEmpty ∨ s = rsPoolReserved ∨ s = rsTicketsFull ∨ s = rsInflightFull then nvmeStatus 0 0x21 false
  else if s = rsNoRecipe then nvmeStatus 0 0x82 false
  else if s = rsCapacity ∧ reads = false then nvmeStatus 0 0x81 false
  else if s = rsFenced then nvmeStatus 3 2 false
  else if s = rsUnrecovered ∨ s = rsDataCorrupt ∨ s = rsMediaError ∨ s = rsModuleAbsent ∨ s = rsLenMismatch then
    nvmeStatus 2 (if reads then 0x81 else 0x80) false
  else if s = rsKeyLost ∨ s = rsKeyDenied ∨ s = rsAuthFail then nvmeStatus 2 0x86 false
  else if s = rsNotFound ∧ reads ∧ kv then nvmeStatus 1 0x87 false
  else if s = rsRecipeFault then nvmeStatus 0 6 true
  else if s = 0x8001 then nvmeStatus 0 0x80 false
  else if s = 0x8002 then nvmeStatus 1 0x87 false
  else if s = 0x8003 then nvmeStatus 2 0x85 false
  else if s = 0x8004 then nvmeStatus 0 2 false
  else nvmeStatus 0 6 false

/-! ### Gates (R342) -/

/-- The roles that accept host commands (R399). -/
def Head.serving (h : Head) : Bool := h.role = rPaired || h.role = rKeeper

/-- NOTREADY (R342, R399): EPVALID is 0, or the role serves no hosts. -/
def Head.notReady (h : Head) : Bool := ! h.is MER_STS_EPVALID || ! h.serving || h.plt.stopped

/-- Acceptance is stopped for want of a place to dump to (R282): this head's dump rows are not ready, and neither are those of
a twin that still counts. -/
def Head.dumpUnready (h : Head) : Bool :=
  ! h.is PAR_STS_DUMPREADY && (h.pair.twinFailed || ! h.is PAR_STS_TWINREADY)

/-- DUMP_UNREADY (R282) is posted once when acceptance stops for it in a role that serves hosts. -/
def Head.dumpCheck (h : Head) : Head :=
  if h.dumpUnready = false then { h with fb := { h.fb with unreadyPosted := false } }
  else if h.serving ∧ h.fb.unreadyPosted = false then
    ({ h with fb := { h.fb with unreadyPosted := true } }).post 7 0x0711 2 (h.rd PAR_STS_DUMPREADY) (h.rd PAR_STS_TWINREADY)
      h.epoch 0
  else h

/-- NOTREADY, LAG, JRN, DUMP or LEAVE withholds receive buffers and READs not yet requested. -/
def Head.gated (h : Head) : Bool :=
  h.notReady || h.is CMT_STS_BPLAG || h.is CMT_STS_BPJRN || h.dumpUnready || h.is FE_STS_LEAVE

/-- The allowance of foreground collection is spent (R236). -/
def Head.fgSpent (h : Head) : Bool := h.is FB_STS_FG && h.is FE_STS_FG

/-- A data-buffer allocation failed in the current epoch. -/
def Head.poolGate (h : Head) : Bool := h.fe.poolFailed = some h.epoch

/-- FE_STS and FE_ADMIT show the gates as they stand. -/
def Head.showGates (h : Head) : Head :=
  let rx := ((h.fe.qps.filter (fun e => e.2.admin = false)).map (fun e => e.2.rx.length)).foldl (· + ·) 0
  let h := (h.wr FE_STS_NOTREADY h.notReady.toNat).wr FE_STS_LAG (h.rd CMT_STS_BPLAG)
  let h := ((h.wr FE_STS_JRN (h.rd CMT_STS_BPJRN)).wr FE_STS_POOL h.poolGate.toNat).wr FE_STS_DUMP h.dumpUnready.toNat
  h.wr FE_STS_CREDIT (decide (h.rd FE_ADMIT_MAX ≤ h.rd FE_ADMIT_CUR + rx)).toNat

/-! ### Operations to a host (R334, R336, R345) -/

/-- An operation is posted on a queue pair: it takes PSNs, is counted on front queue n and goes out. -/
def Head.postOp (h : Head) (n : Nat) (op : QpOp) (npsn : Nat) (msg : Nat → RoceOut) : Head :=
  match h.qp n with
  | none => h
  | some q =>
    if q.gone then h else
      let x := h.queue n
      let e : QpEntry := { count := x.posted + 1, psn := q.sendPsn, npsn := npsn, op := op, got := 0, msg := msg q.sendPsn }
      let h := h.setQueue n { x with posted := x.posted + 1 }
      let h := h.setQp n { q with out := q.out ++ [e], sendPsn := (q.sendPsn + npsn) % 2 ^ 24 }
      h.emit (.roce n e.msg)

/-- The packets of an operation of `len` bytes. -/
def Qp.psns (q : Qp) (len : Nat) : Nat := max 1 (ceilDiv len q.pmtu)

/-- RDMA WRITEs of data to a command's keyed descriptors, in order (R345). -/
def Head.writeKeys (h : Head) (n : Nat) (off : Nat) (data : List Byte) : List (Nat × Nat × Nat) → Head
  | [] => h
  | (key, addr, len) :: t =>
    if data = [] then h
    else if len ≤ off then h.writeKeys n (off - len) data t
    else
      let part := data.take (len - off)
      let pm := ((h.qp n).map (·.psns part.length)).getD 1
      (h.postOp n (.write part.length) pm (fun psn => .write psn key (addr + off) part)).writeKeys n 0 (data.drop (len - off)) t

/-! ### A command's data in Billow (R341, R443) -/

/-- LENGTH of a buffer (R143). -/
def Head.lenOf (h : Head) (b : Nat) : Nat := Tbl.get 0 h.lens b

/-- Set LENGTH of a buffer. -/
def Head.setLen (h : Head) (b n : Nat) : Head := { h with lens := Tbl.set 0 h.lens b n }

/-- The ranges of the data buffers of a command of `n` bytes. -/
def segsOf (n : Nat) : List Nat → List Seg
  | [] => []
  | b :: t =>
    let k := min n (poolSize (bufPool b))
    { buf := b, off := 0, len := k } :: segsOf (n - k) t

/-- Write bytes at an offset counted through ranges in order. -/
def Head.putSegs (h : Head) (off : Nat) (data : List Byte) : List Seg → Head
  | [] => h
  | s :: t =>
    if s.len ≤ off then h.putSegs (off - s.len) data t
    else (h.put (h.bufAddr s.buf + s.off + off) (data.take (s.len - off))).putSegs 0 (data.drop (s.len - off)) t

/-- `n` bytes at an offset counted through ranges in order. -/
def Head.getSegs (h : Head) (off n : Nat) : List Seg → List Byte
  | [] => []
  | s :: t =>
    if s.len ≤ off then h.getSegs (off - s.len) n t
    else
      let k := min n (s.len - off)
      h.bytes (h.bufAddr s.buf + s.off + off) k ++ h.getSegs 0 (n - k) t

/-- The lines under `n` bytes at an offset counted through ranges from which no data can be read (R439). -/
def Head.badSegs (h : Head) (off n : Nat) : List Seg → List Nat
  | [] => []
  | s :: t =>
    if s.len ≤ off then h.badSegs (off - s.len) n t
    else
      let k := min n (s.len - off)
      h.badLines (h.bufAddr s.buf + s.off + off) k ++ h.badSegs 0 (n - k) t

/-- The bytes of ranges together. -/
def segLen (ss : List Seg) : Nat := (ss.map (·.len)).foldl (· + ·) 0

/-- Buffers are returned. LENGTH stays with the buffer: a copy of its handle still reaches it (R91). -/
def Head.dropBufs (h : Head) (bs : List Nat) : Head := h.freeBufs bs

/-! ### Responses -/

/-- A command leaves the front complex: its data buffers, admission credit and hold slot are freed. -/
def Head.retireWork (h : Head) (w : Nat) : Head :=
  match h.work w with
  | none => h
  | some x =>
    let h := h.dropBufs (x.cap.toList ++ x.data)
    let h := if x.credit then h.wr FE_ADMIT_CUR (h.rd FE_ADMIT_CUR - 1) else h
    { h with works := Tbl.del h.works w, fe := { h.fe with holds := h.fe.holds.filter (·.2 ≠ w) } }

/-- A COMMAND frame for a completion posted to a host (R508), where OBS_CMDF allows it. -/
def Head.commandFrame (h : Head) (x : Work) (status : Nat) : Head :=
  let filter := h.rd OBS_CMDF_NSID
  if (filter ≠ 0 ∧ x.nsid ≠ filter) ∨ (h.is OBS_CMDF_ERRONLY ∧ status = 0) then h
  else
    h.trace 4 [x.stamp, x.cseq, h.headId, x.nsid, x.cset + 256 * x.opc, x.rstatus, status, x.len, h.mer.sinceReset - x.since]

/-- The response capsule of a command goes out (R345), as SEND with Invalidate where its descriptor asks; a discarded one is
dropped (R355). Where an Abort waits for the command, its own response follows, Dword 0 bit 0 clear (R346). -/
def Head.respond (h : Head) (w status : Nat) : Head :=
  match h.work w with
  | none => h
  | some x =>
    match x.qp with
    | none => h.retireWork w
    | some q =>
      let inval := if x.inval then (x.keys.head?).map (·.1) else none
      let h := if x.discard then h
        else (h.commandFrame x status).postOp q (.response x.cid) 1 (fun psn => .response psn inval x.cid status x.dw0)
      let h := h.retireWork w
      match x.abort, h.ctl x.ctrl with
      | some acid, some c =>
        let h := h.updCtl x.ctrl (fun k => { k with aborts := k.aborts.filter (· ≠ acid) })
        h.postOp c.adminQp (.response acid) 1 (fun psn => .response psn none acid 0 0)
      | _, _ => h

/-- A queue pair for host commands, not an admin one, on a head whose bid is not decided: no completion leaves it (the table of roles
of spec/15_twin_operation.md, role 7; R343; assumption log 63, DEDUCED). -/
def Head.withholds (h : Head) (q : Nat) : Bool := decide (h.role = rBidding) && ! (h.qp q).any (·.admin)

/-- Responses whose fence of R345 is met go out, in the order of their commands, unless the head withholds them. -/
def Head.respondReady (h : Head) (q : Nat) : Head :=
  if h.withholds q then h
  else (h.worksOf q).foldl (fun h e =>
    match e.2.state with
    | .sending st after => if after ≤ (h.queue q).done then h.respond e.1 st else h
    | _ => h) h

/-- Responses withheld while a bid was open go out, queue by queue. -/
def Head.respondAll (h : Head) : Head :=
  ((h.works.filterMap (·.2.qp)).eraseDups).foldl (fun (h : Head) q => h.respondReady q) h

/-- A command's data and then its response are sent (R345). -/
def Head.sendAnswer (h : Head) (w status : Nat) (data : List Byte) : Head :=
  match h.work w with
  | none => h
  | some x =>
    match x.qp with
    | none => h
    | some q =>
      let h := if data = [] ∨ x.discard then h else h.writeKeys q 0 data x.keys
      let after := if data = [] ∨ x.discard then 0 else (h.queue q).posted
      (h.updWork w (fun x => { x with state := .sending status after })).respondReady q

/-! ### Held commands (R349) -/

/-- The hold record. -/
def holdRecord (kind : Nat) (x : Work) : List Byte :=
  let qp := x.qp.getD 0
  toBytes 16 (recOf [(0, 1, kind), (2, 2, qp), (4, 2, x.ctrl), (6, 2, if kind = 0 then x.rstatus else 0),
    (8, 8, if kind = 0 then x.readEpoch.getD noEpoch else 0)])
    ++ (if kind = 1 then (x.hostData ++ List.replicate 32 0).take 32 else List.replicate 32 0)
    ++ List.replicate 16 0 ++ toBytes 64 x.capsule.toNat

/-- The lowest free slot of the hold ring. -/
def Head.freeHold (h : Head) : Option Nat := (List.range 4096).find? (fun s => (Tbl.find h.fe.holds s).isNone)

/-- A command is held (R349): its record is written and the hold core rung, or, with no slot free, it completes. -/
def Head.hold (h : Head) (w kind : Nat) : Head :=
  match h.work w, h.freeHold with
  | none, _ => h
  | some x, none =>
    let h := (h.wr FE_ERR_HOLDFULL 1).post 1 0x0106 2 (x.qp.getD 0) x.cid kind 0
    h.sendAnswer w (if kind = 0 then nvmeStatus 2 0x81 false else nvmeStatus 0 0x21 false) []
  | some x, some s =>
    let h := h.put (h.rd FE_HOLD_BASE * 2 ^ 19 + 128 * s) (holdRecord kind x)
    let h := { h with fe := { h.fe with holds := Tbl.put h.fe.holds s w } }
    let h := h.updWork w (fun x => { x with state := .held s })
    (h.wr FE_HOLD_PI ((h.rd FE_HOLD_PI + 1) % 65536)).raise (h.rd FE_CTL_HOLDCORE) 1

/-! ### Ends of commands (R56, R61, R172) -/

/-- Flush is stamped and dispatched but of neither class. -/
def Work.isFlush (x : Work) : Bool := x.cset = 0 && x.opc = 0

/-- A stamped command holds its epoch's seal until it ends (R56). -/
def Work.holdsSeal (x : Work) : Bool := ! x.reads && ! x.isFlush

/-- This head commits an epoch without the twin (R62): the twin is declared failed, or a rejoined twin shares only the epochs
from J onward (R413). -/
def Head.alone (h : Head) (e : Nat) : Bool := h.pair.twinFailed || h.pair.joinAt.any (fun j => decide (e < j))

/-- The conditions of R61 for a write-class command stamped `e`. -/
def Head.writeMayEnd (h : Head) (e : Nat) : Bool :=
  h.applied ≠ noEpoch && decide (e ≤ h.applied) && (h.alone e || h.cmt.notes.any (fun n => decide (e ≤ n)))

/-- The completion gate of synchronous replication (R420) lets a command of an ANA group stamped `e` complete. -/
def Head.syncOpen (h : Head) (g e : Nat) : Bool :=
  bitAt (h.rd (SD_SYNCGRP_MASK.nth (g / 64))) (g % 64) = false || decide (e ≤ h.rd SD_SYNC_EPOCH)

/-- Write-class commands whose epoch is applied and noted complete (R61), as far as the gate of R420 lets them. -/
def Head.releaseWrites (h : Head) : Head :=
  h.works.foldl (fun h e =>
    if e.2.state = .sealed_ ∧ h.writeMayEnd e.2.stamp ∧ h.syncOpen e.2.group e.2.stamp then h.sendAnswer e.1 (nvmeStatus 0 0 false) [] else h) h

/-- A recipe status is delivered for a unit of work, with read data for the host (R172, R347, R349). -/
def Head.deliver (h : Head) (w s : Nat) (data : List Byte) : Head :=
  match h.work w with
  | none => h
  | some x =>
    match x.from_ with
    | .background cls _ => (h.retireWork w).queueDone (0xFF00 + cls)
    | .host .. =>
      let h := if x.holdsSeal then h.releaseSeal x.stamp else h
      let h := h.updWork w (fun x => { x with rstatus := s })
      if x.discard ∧ h.is FE_STS_FENCED then h.retireWork w
      else if x.writes ∧ s = rsOk then (h.updWork w (fun x => { x with state := .sealed_ })).releaseWrites
      else if x.reads ∧ x.repair ∧ (s = rsUnrecovered ∨ s = rsDataCorrupt) ∧ x.discard = false then h.hold w 0
      else h.sendAnswer w (recipeStatus s x.reads (x.cset = 1)) (if s = rsOk then data else [])

/-- A unit of work ends without a CPLT (R99, R100, R104): a command completes with a status, a background job is dropped, its
queue's completion count standing still (R167). -/
def Head.abandon (h : Head) (w s : Nat) : Head :=
  match h.work w with
  | none => h
  | some x => if x.qp.isNone then h.retireWork w else h.deliver w s []

/-- A command with a status of the front complex's own (R104: an opcode without a slot). -/
def Head.deliverNvme (h : Head) (w status : Nat) : Head :=
  match h.work w with
  | none => h
  | some x => (if x.holdsSeal then h.releaseSeal x.stamp else h).sendAnswer w status []

/-! ### Acceptance (R31 to R33, R75) -/

/-- Write-class data accepted under foreground collection is debited from the allowance, in KiB (R236). -/
def Head.debitAllowance (h : Head) (n : Nat) : Head :=
  if h.is FB_STS_FG then
    let left := h.fe.allowance - ceilDiv n 1024
    ({ h with fe := { h.fe with allowance := left } }).wr FE_STS_FG (decide (left = 0)).toNat
  else h

/-- The acceptance instant of a command (R31): a reservation command is held; any other is stamped, takes its CSEQ, its read
epoch where it is read-class, and waits for dispatch. Its descriptor goes to the twin. Gates stop requests for data and not the
acceptance of what lands (R342), so a head whose bid is open accepts; one in a role that has no hosts leaves the command waiting
(R399) or, fenced, ends it unstamped (R352), as one does that is leaving (R416). A read takes CMT_LAST whatever it addresses: no
field of a command addresses a snapshot (R75; assumption log 66, DESIGN CHOICE). -/
def Head.accept (h : Head) (w : Nat) : Head :=
  match h.work w with
  | none => h
  | some x =>
    if h.is FE_STS_FENCED ∨ h.pair.leaveEpoch.any (fun l => decide (l ≤ h.epoch)) then h.sendAnswer w (nvmeStatus 3 2 false) []
    else if (h.serving = false ∧ h.role ≠ rBidding) ∨ h.plt.stopped then h.updWork w (fun x => { x with state := .fetching 0 0 })
    else if x.row = 0xFFFF then h.hold w 1
    else
      let (cseq, h) := h.stampOne x.holdsSeal
      let read := if x.reads then some h.last else none
      let repair := (Tbl.find h.nss x.nsid).any (·.repair)
      let h := h.updWork w (fun x => { x with stamp := h.epoch, cseq, readEpoch := read, repair, state := .ready })
      let h := if x.writes then h.debitAllowance x.len else h
      h.sendTwin (.descriptor h.epoch cseq x.nsid x.ctrl x.cid x.opc x.cset x.len)

/-- The place of a command among those accepted at one instant (R53): by sub-port, then by queue pair. -/
def Head.acceptKey (h : Head) (x : Work) : Nat :=
  let q := x.qp.getD 0
  ((h.qp q).map (·.subport)).getD 0 * 65536 + q

/-- Put a command in its place of R53, after its equals. -/
def insertAccept (x : Nat × Nat) : List (Nat × Nat) → List (Nat × Nat)
  | [] => [x]
  | y :: t => if x.2 < y.2 then x :: y :: t else y :: insertAccept x t

/-- Commands whose data landed while the role accepted nothing are accepted now, in the order of R53. -/
def Head.acceptLanded (h : Head) : Head :=
  let landed := (h.works.filter (fun e => e.2.state = .fetching 0 0)).map (fun e => (e.1, h.acceptKey e.2))
  (landed.foldl (fun l x => insertAccept x l) []).foldl (fun (h : Head) e => h.accept e.1) h

end Sys2Proof.Machine
end

