-- ==== Sys2Proof/Machine/Capsules.lean ====
section
/-! DEFINITION. Capsules: what a submission entry says, the checks before stamping, and the fetch of a command's data
(spec/13_host_front.md, R337, R340 to R344; spec/07_data_path.md, R190). The places of the fields of a submission entry and of
an SGL are those of the NVMe standards R338 names (assumption log 11, PRESUMED). -/
namespace Sys2Proof.Machine
open Reg

/-! ### The submission entry -/

/-- A field of a submission entry: `n` bytes at an offset. -/
def sqeAt (s : BitVec 512) (off n : Nat) : Nat := recAt s.toNat off n

/-- The opcode. -/
def sqeOpc (s : BitVec 512) : Nat := sqeAt s 0 1

/-- The CID. -/
def sqeCid (s : BitVec 512) : Nat := sqeAt s 2 2

/-- What a Scatter Gather List holds: keyed descriptors (key, address, length), whether one is of sub-type Invalidate Key, an
in-capsule range (offset, length), and how the list fails, if it does. -/
structure Sgl where
  keys : List (Nat × Nat × Nat)
  inval : Bool
  inline : Option (Nat × Nat)
  badType : Bool
  badCount : Bool
  deriving DecidableEq, Repr

/-- A keyed descriptor from its 16 bytes. -/
def keyed (d : Nat) : (Nat × Nat × Nat) := (recAt d 11 4, recAt d 0 8, recAt d 8 3)

/-- The SGL of a capsule (R338). In-capsule data is for write-class commands only. -/
def sglOf (s : BitVec 512) (data : List Byte) (writes : Bool) : Sgl :=
  let d := sqeAt s 24 16
  let none_ : Sgl := { keys := [], inval := false, inline := none, badType := false, badCount := false }
  match recAt d 15 1 with
  | 0x40 => { none_ with keys := [keyed d] }
  | 0x4F => { none_ with keys := [keyed d], inval := true }
  | 0x01 => if writes then { none_ with inline := some (recAt d 0 8, recAt d 8 4) } else { none_ with badType := true }
  | 0x31 =>
    let n := recAt d 8 4 / 16
    if 16 < n then { none_ with badCount := true }
    else
      let ds := (List.range n).map (fun i => leAt data (recAt d 0 8 + 16 * i) 16)
      let types := ds.map (fun x => recAt x 15 1)
      { none_ with keys := ds.map keyed, inval := types.contains 0x4F,
                   badType := types.any (fun t => t ≠ 0x40 && t ≠ 0x4F) }
  | _ => { none_ with badType := true }

/-- The bytes an SGL names. -/
def Sgl.total (g : Sgl) : Nat := (g.keys.map (·.2.2)).foldl (· + ·) 0 + (g.inline.map (·.2)).getD 0

/-- What kind of I/O command an opcode is (R339, R349). -/
inductive CmdKind
  | read | write | flush | reserve | other
  deriving DecidableEq, Repr

/-- The class of an I/O opcode (R15, R339): the Key Value command set with `kv`. -/
def cmdKind (kv : Bool) (opc : Nat) : CmdKind :=
  if opc = 0x0D ∨ opc = 0x0E ∨ opc = 0x11 ∨ opc = 0x15 then .reserve
  else if kv then
    (if opc = 1 ∨ opc = 0x10 then .write else if opc = 2 ∨ opc = 6 ∨ opc = 0x14 then .read else .other)
  else if opc = 0 then .flush
  else if opc = 1 ∨ opc = 8 ∨ opc = 9 then .write
  else if opc = 2 ∨ opc = 5 ∨ opc = 0x0C then .read
  else .other

/-- The block size of a namespace: its chunk size (R179); 4 KiB for a namespace the metadata does not know. -/
def Head.blockSize (h : Head) (nsid : Nat) : Nat := 4096 * 2 ^ ((Tbl.find h.nss nsid).map (·.fsize)).getD 0

/-- The implied data length of a command (R106, R190). -/
def Head.impliedLen (h : Head) (kv : Bool) (s : BitVec 512) : Nat :=
  let opc := sqeOpc s
  if kv then (if opc = 1 ∨ opc = 2 ∨ opc = 6 then sqeAt s 40 4 else 0)
  else if opc = 1 ∨ opc = 2 ∨ opc = 5 ∨ opc = 0x0C then (sqeAt s 48 2 + 1) * h.blockSize (sqeAt s 4 4)
  else if opc = 9 then (sqeAt s 40 1 + 1) * 16
  else if opc = 0x0D ∨ opc = 0x11 then 16
  else if opc = 0x15 then 8
  else 0

/-- The bytes the host sends with a command. -/
def Head.inboundLen (h : Head) (kv : Bool) (s : BitVec 512) : Nat :=
  let opc := sqeOpc s
  if kv then (if opc = 1 then h.impliedLen kv s else 0)
  else if opc = 2 ∨ opc = 0x0C then 0 else h.impliedLen kv s

/-- The key of a Key Value command: bytes 0 to 7 in Dwords 2 and 3, bytes 8 to 15 in Dwords 14 and 15. -/
def sqeKey (s : BitVec 512) : List Byte :=
  ((toBytes 8 (sqeAt s 8 8)) ++ (toBytes 8 (sqeAt s 56 8))).take (sqeAt s 44 1)

/-! ### Namespaces, ANA and reservations -/

/-- The address of a namespace table entry (R357). -/
def Head.nsEntryAddr (h : Head) (i : Nat) : Nat := h.rd FE_TBLBASE_BASE * 2 ^ 21 + 4096 + 64 * i

/-- The VALID namespace table entry that names an NSID. -/
def Head.nsEntry (h : Head) (nsid : Nat) : Option Nat :=
  ((List.range 16384).map h.nsEntryAddr).find? (fun a => bitAt (h.load (a + 7) 1) 0 && h.load a 4 = nsid)

/-- The state of an ANA group in force on this head (R351, R352). -/
def Head.anaState (h : Head) (g : Nat) : Nat :=
  if h.is FE_STS_FENCED then 3 else h.rd (FE_ANA_GRP.el (g / 16) 0 (g % 16))

/-- A command of a controller conflicts with the reservation of a namespace entry under the rules of its type (R353). -/
def Head.reservationConflict (h : Head) (a ctrl : Nat) (k : CmdKind) : Bool :=
  let t := h.load (a + 9) 1
  let holder := h.load (a + 10) 2
  let map := h.load (a + 16) 8
  let registrant := map ≠ 0 && bitAt (h.load (map + ctrl / 8) 1) (ctrl % 8)
  let writing := k = .write || k = .flush || k = .other
  let owns := if t ≤ 2 then decide (holder = ctrl) else registrant
  k ≠ .reserve && decide (1 ≤ t ∧ t ≤ 6) && ! owns && (writing || t = 2 || t = 4 || t = 6)

/-- The statuses of check 5 (R351). -/
def anaStatus (st : Nat) : Option Nat :=
  if st = 1 ∨ st = 2 then none
  else if st = 4 then some (nvmeStatus 3 1 false)
  else if st = 0xF then some (nvmeStatus 3 3 false)
  else some (nvmeStatus 3 2 false)

/-! ### The checks of R340 -/

/-- The status of the first check a capsule of an I/O queue fails, none where it passes all. `q` is its queue pair. -/
def Head.capsuleCheck (h : Head) (kv : Bool) (c : Capsule) (q : Qp) : Option Nat :=
  let s := c.sqe
  let ctrl := q.ctrl.getD 0
  let k := cmdKind kv (sqeOpc s)
  let g := sglOf s c.data (k = .write)
  let flags := sqeAt s 1 1
  let len := h.impliedLen kv s
  let hasSgl := len ≠ 0 || sqeAt s 24 16 ≠ 0
  let e := h.nsEntry (sqeAt s 4 4)
  let lens := (! kv && (sqeOpc s = 1 || sqeOpc s = 2 || sqeOpc s = 5 || sqeOpc s = 0x0C)) || (kv && (sqeOpc s = 1 || sqeOpc s = 2))
  if h.is (FE_C_STS_RDY.nth ctrl) = false then some (nvmeStatus 0 0x0C false)
  else if (h.worksOf c.qp.val).any (fun w => w.2.cid = sqeCid s) then some (nvmeStatus 0 3 false)
  else if flags % 4 ≠ 0 ∨ flags / 64 = 0 ∨ flags / 64 = 3 ∨ sqeAt s 16 8 ≠ 0 ∨ (g.inval ∧ 1 < g.keys.length) then
    some (nvmeStatus 0 2 false)
  else
    match e with
    | none => some (nvmeStatus 0 0x0B false)
    | some a =>
      if h.load (a + 8) 1 ≠ h.rd (FE_C_STS_SUBSYS.nth ctrl) then some (nvmeStatus 0 0x0B false)
      else
        match anaStatus (h.anaState (h.load (a + 6) 1)) with
        | some st => some st
        | none =>
          if h.reservationConflict a ctrl k then some (nvmeStatus 0 0x83 false)
          else if hasSgl ∧ g.badType then some (nvmeStatus 0 0x11 false)
          else if hasSgl ∧ g.badCount then some (nvmeStatus 0 0x0E false)
          else if (kv = false ∧ 2 ^ 23 < len) ∨ 2 ^ 26 < len ∨ (kv ∧ k ≠ .reserve ∧ 16 < sqeAt s 44 1)
              ∨ (kv ∧ sqeOpc s = 1 ∧ sqeAt s 44 1 = 0) ∨ 8192 < (g.inline.map (·.2)).getD 0 then some (nvmeStatus 0 2 false)
          else if (lens ∧ g.total ≠ len) ∨ (g.inline.any (fun r => r.1 + r.2 ≠ c.data.length)) then
            some (nvmeStatus 0 0x0F false)
          else none

/-! ### Arrival (R337, R341, R344) -/

/-- A frame of a queue pair that no longer exists is discarded and counted (R355). -/
def Head.dropFrame (h : Head) (port : Nat) : Head := h.bump (FE_P_CNT_DROP.nth port) 1

/-- A CNP for a packet marked ECN-CE on a queue pair, at most one in CNPINT microseconds (R335). -/
def Head.qpCnp (h : Head) (n : Nat) (ce : Bool) : Head :=
  match h.qp n with
  | none => h
  | some q =>
    let due : Bool := match q.lastCnp with
      | some t => decide (t + 25 * h.rd FE_CC_CNPINT ≤ h.mer.sinceReset)
      | none => true
    if ce ∧ h.is FE_CC_ECNEN ∧ due then
      ((h.setQp n { q with lastCnp := some h.mer.sinceReset }).bump (FE_P_CNT_CNPTX.nth (q.subport / 4)) 1).emit (.roce n .cnp)
    else h

/-- The receive buffer of a SEND (R443): a posted one on an I/O queue pair, one of pool 3 on an admin queue pair, which is
exempt from every gate (R343). -/
def Head.takeReceive (h : Head) (q : Qp) : Option Nat × Qp × Head :=
  if q.admin then
    match h.allocIn 3 0 with
    | (.buffer b, h) => (some b, q, h)
    | (_, h) => (none, q, h)
  else (q.rx.head?, { q with rx := q.rx.drop 1 }, h)

/-- A SEND arrives on a queue pair: the queue pair and the buffer of the capsule, none where it delivers none. On an I/O queue
pair the command takes an admission credit. -/
def Head.receiveSend (h : Head) (c : Capsule) : Option (Qp × Nat) × Head :=
  let n := c.qp.val
  match h.qp n with
  | none => (none, h.dropFrame c.port.val)
  | some q =>
    if q.gone ∨ q.ready = false then (none, h.dropFrame c.port.val)
    else
      let h := h.qpCnp n c.ce
      let q := (h.qp n).getD q
      let psn := c.psn.toNat
      if psn ≠ q.expPsn then
        if (q.expPsn + 2 ^ 24 - psn) % 2 ^ 24 < 2 ^ 23 then (none, h.emit (.roce n (.ack ((q.expPsn + 2 ^ 24 - 1) % 2 ^ 24))))
        else (none, h.emit (.roce n (.nakSequence q.expPsn)))
      else
        match h.takeReceive q with
        | (none, _, h) => (none, h.emit (.roce n (.rnrNak psn (h.rd FE_CTL_RNRT))))
        | (some b, q, h) =>
          let q := { q with expPsn := (psn + 1) % 2 ^ 24 }
          let h := ((h.setQp n q).emit (.roce n (.ack psn))).put (h.bufAddr b) (toBytes 64 c.sqe.toNat ++ c.data)
          let h := h.setLen b (64 + c.data.length)
          (some (q, b), if q.admin then h else h.wr FE_ADMIT_CUR (h.rd FE_ADMIT_CUR + 1))

/-- The unit of work of a capsule. LBA, which g4 hands to the recipe (R106), is Dwords 10 and 11; of a command that has no Starting LBA
there, Flush or Dataset Management, the spec names no g4, and the two Dwords are passed as they stand (assumption log 67, DESIGN
CHOICE). -/
def Head.capsuleWork (h : Head) (kv : Bool) (c : Capsule) (q : Qp) (b : Nat) : Work :=
  let s := c.sqe
  let k := cmdKind kv (sqeOpc s)
  let a := h.nsEntry (sqeAt s 4 4)
  let row := if k = .reserve ∨ q.admin then 0xFFFF else (a.map (fun a => h.load (a + 4) 2)).getD 0
  let g := sglOf s c.data (k = .write)
  { from_ := .host c.qp.val (sqeCid s), capsule := s, nsid := sqeAt s 4 4, ctrl := q.ctrl.getD 0, row := row,
    group := (a.map (fun a => h.load (a + 6) 1)).getD 0, cset := kv.toNat, opc := sqeOpc s, len := h.impliedLen kv s,
    lba := if kv then 0 else sqeAt s 40 8, keyBytes := if kv then sqeKey s else [], reads := k = .read,
    writes := k = .write, stamp := 0, cseq := 0, readEpoch := none, cap := some b, data := [], segs := [], hostData := [], keys := g.keys,
    inval := g.inval, credit := ! q.admin, bound := none, left := none, repair := false, rstatus := 0, dw0 := 0, discard := false, since := h.mer.sinceReset,
    abort := none, starved := none, state := .ready }

/-! ### Fetching data (R341, R342, R443) -/

/-- The READs of a command's keyed descriptors that may be issued now: at most 16 outstanding on a queue pair (R334). -/
def Head.issueReads (h : Head) (w n : Nat) : Nat → Nat → List (Nat × Nat × Nat) → Nat × Head
  | _, _, [] => (0, h)
  | skip + 1, off, (_, _, len) :: t => h.issueReads w n skip (off + len) t
  | 0, off, (key, addr, len) :: t =>
    match h.qp n with
    | none => (0, h)
    | some q =>
      let busy := (q.out.filter (fun e => match e.op with | .read .. => true | _ => false)).length
      if 16 ≤ busy ∨ q.gone then (0, h)
      else
        let h := h.postOp n (.read w off len) (q.psns len) (fun psn => .read psn key addr len)
        let (k, h) := h.issueReads w n 0 (off + len) t
        (k + 1, h)

/-- No buffers are free for a command's data: the POOL gate is active for the epoch, and the command's READs wait for the next (R342). -/
def Head.poolFails (h : Head) (w : Nat) : Head :=
  let h := h.updWork w (fun x => { x with starved := some h.epoch })
  { h with fe := { h.fe with poolFailed := some h.epoch } }

/-- A command takes its data buffers of the host class, all together (R443); a failure closes the POOL gate (R342). -/
def Head.takeBuffers (h : Head) (w n : Nat) : Bool × Head :=
  match h.work w with
  | none => (false, h)
  | some x =>
    if x.data ≠ [] ∨ n = 0 then (true, h)
    else
      match dataPools h n with
      | none => (false, h.poolFails w)
      | some ps =>
        match h.allocAll 0 ps with
        | (some bs, h) =>
          let ss := segsOf n bs
          (true, ss.foldl (fun h s => h.setLen s.buf s.len) (h.updWork w (fun x => { x with data := bs, segs := ss })))
        | (none, h) => (false, h.poolFails w)

/-- READs of a command's data are issued as far as gates, buffers and the queue pair allow. -/
def Head.tryFetch (h : Head) (w : Nat) : Head :=
  match h.work w with
  | none => h
  | some x =>
    match x.state, x.qp with
    | .fetching (u + 1) left, some q =>
      if h.gated ∨ x.starved = some h.epoch ∨ (x.writes ∧ h.fgSpent) then h
      else
        match h.takeBuffers w (h.inboundLen (x.cset = 1) x.capsule) with
        | (false, h) => h
        | (true, h) =>
          let (k, h) := h.issueReads w q (x.keys.length - (u + 1)) 0 x.keys
          h.updWork w (fun x => { x with state := .fetching (u + 1 - k) left })
    | _, _ => h

/-- Every command that waits for its data asks again. -/
def Head.fetchAll (h : Head) : Head := h.works.foldl (fun h e => h.tryFetch e.1) h

/-- A capsule of an I/O queue arrives (R340): it fails a check and completes unstamped, or is accepted with its last byte, or
its data is fetched. -/
def Head.capsuleIn (h : Head) (kv : Bool) (opcs : Nat → Bool) (c : Capsule) : Head :=
  if opcs (sqeOpc c.sqe) = false ∨ (h.qp c.qp.val).any (·.admin) then h
  else
    match h.receiveSend c with
    | (none, h) => h
    | (some (q, b), h) =>
      let bad := h.capsuleCheck kv c q
      let h := if cmdKind kv (sqeOpc c.sqe) = .write then h else h.updQp c.qp.val (fun q => { q with due := q.due + 1 })
      let (w, h) := h.addWork (h.capsuleWork kv c q b)
      match bad with
      | some st => h.sendAnswer w st []
      | none =>
        let n := h.inboundLen kv c.sqe
        let g := sglOf c.sqe c.data (cmdKind kv (sqeOpc c.sqe) = .write)
        match g.inline with
        | some (off, len) =>
          let seg : Seg := { buf := b, off := 64 + off, len := len }
          (h.updWork w (fun x => { x with segs := [seg], hostData := ((c.data.drop off).take len).take 32 })).accept w
        | none =>
          if n = 0 then h.accept w
          else (h.updWork w (fun x => { x with state := .fetching x.keys.length n })).tryFetch w

end Sys2Proof.Machine
end

