-- ==== Sys2Proof/Machine/Fence.lean ====
section
/-! DEFINITION. The front complex fenced or cancelled: ANA changes, commands given up before acceptance, and the FENCED role
(spec/13_host_front.md, R346, R352; spec/15_twin_operation.md, R399, R400, R409, R411). -/
namespace Sys2Proof.Machine
open Reg

/-! ### Commands given up before acceptance (R346, R352) -/

/-- Some READ issued for a command is outstanding on its queue pair. -/
def Head.readsOut (h : Head) (q w : Nat) : Bool :=
  (h.qp q).any (fun x => x.out.any (fun e => match e.op with | .read v _ _ => v = w | _ => false))

/-- A command given up leaves once every READ issued for it has ended: it completes with its status, or is dropped. -/
def Head.endCancelled (h : Head) (w : Nat) : Head :=
  match h.work w with
  | none => h
  | some x =>
    match x.state, x.qp with
    | .cancelled st _, some q =>
      if h.readsOut q w then h
      else match st with
        | some s => h.sendAnswer w s []
        | none => h.retireWork w
    | _, _ => h

/-- A command not yet accepted is given up: its READs not issued are cancelled. -/
def Head.cancelWork (h : Head) (w : Nat) (st : Option Nat) : Head :=
  match h.work w with
  | none => h
  | some x =>
    match x.state with
    | .fetching _ left => (h.updWork w (fun x => { x with state := .cancelled st left })).endCancelled w
    | _ => h

/-- Commands not yet accepted, of those a test picks, are given up. -/
def Head.cancelAll (h : Head) (pick : Work → Bool) (st : Option Nat) : Head :=
  h.works.foldl (fun (h : Head) e => if pick e.2 then h.cancelWork e.1 st else h) h

/-! ### ANA (R351, R352) -/

/-- The VALID entries of the namespace table as (ANA group, subsystem). -/
def Head.anaMembers (h : Head) : List (Nat × Nat) :=
  ((List.range 16384).map h.nsEntryAddr).filterMap (fun a =>
    if bitAt (h.load (a + 7) 1) 0 then some (h.load (a + 6) 1, h.load (a + 8) 1) else none)

/-- Dword 0 of an Asynchronous Event Request's completion: Notice, ANA Change, log page 0x0C (assumption log 11, PRESUMED). -/
def anaEvent : Nat := 0x0C0302

/-- A controller with an event to report completes an Asynchronous Event Request, if it holds one. -/
def Head.reportAna (h : Head) (c : Nat) : Head :=
  match h.ctl c with
  | none => h
  | some k =>
    match k.events, k.aers with
    | n + 1, cid :: t =>
      let h := h.updCtl c (fun k => { k with events := n, aers := t })
      h.postOp k.adminQp (.response cid) 1 (fun psn => .response psn none cid 0 anaEvent)
    | _, _ => h

/-- One group's effective state changed (R352): the change count, the record, and the event on every controller that reaches a
namespace of the group. -/
def Head.anaChanged (h : Head) (g old new : Nat) : Head :=
  let h := { h with fe := { h.fe with anaChanges := h.fe.anaChanges + 1, anaAt := Tbl.put h.fe.anaAt g (h.fe.anaChanges + 1) } }
  let subs := (h.anaMembers.filter (fun m => m.1 = g)).map (·.2)
  let h := if subs.isEmpty then h else h.post 1 0x0107 0 g old new h.epoch
  h.fe.ctls.foldl (fun (h : Head) e =>
    if e.2.notice ∧ subs.contains (h.rd (FE_C_STS_SUBSYS.nth e.1)) then
      (h.updCtl e.1 (fun k => { k with events := k.events + 1 })).reportAna e.1
    else h) h

/-- The changes of effective state since another state of the head are reported, group by group. -/
def Head.anaReport (h : Head) (before : Head) : Head :=
  (List.range 256).foldl (fun (h : Head) g =>
    if before.anaState g = h.anaState g then h else h.anaChanged g (before.anaState g) (h.anaState g)) h

/-- FE_STS.FENCED is set (R352): every group becomes Inaccessible, and commands not yet accepted end unstamped.
The EVENT of R395 goes to the twin and the UDP peers; the spec gives its causes no numbers, and that parameter is a free value
(assumption log 58, DESIGN CHOICE). -/
def Head.frontFence (h : Head) : Head :=
  if h.is FE_STS_FENCED then h
  else
    let (x, t) := (h.wr FE_STS_FENCED 1).draw
    let t := t.sendEvent 7 0 x.toNat 0 0 t.udpConns
    (t.anaReport h).cancelAll (fun _ => true) (some (nvmeStatus 3 2 false))

/-- FE_STS.FENCED is cleared (R352). -/
def Head.frontOpen (h : Head) : Head :=
  if h.is FE_STS_FENCED then (h.wr FE_STS_FENCED 0).anaReport h else h

/-! ### The FENCED role (R399, R409, R411) -/

/-- The head takes a role; the end of a bid lets the responses it withheld go. -/
def Head.setRole (h : Head) (r : Nat) : Head :=
  let t := (h.wr SD_PAIR_STS_ROLE r).showGates
  if h.role = rBidding then t.respondAll else t

/-- An operation that a head in FENCED or LEFT may have outstanding (R399). -/
def quietOp (op : ModOp) : Bool :=
  let c := op.opc.toNat
  c = 5 || c = 6 || (c = 8 && decide (op.subop.toNat ≤ 1))

/-- Outstanding module operations that R399 does not allow are abandoned: nothing waits for them (R409). Software's own entries
keep their place in their queue. -/
def Head.abandonOps (h : Head) : Head :=
  (List.range 32).foldl (fun (h : Head) p =>
    let x := h.port p
    let drop (o : Outstanding) : Outstanding :=
      match o.purpose with
      | .software .. => o
      | .bid => o
      | _ => if quietOp o.op then o else { o with purpose := .abandoned }
    h.setPort p { x with outstanding := x.outstanding.map (fun e => (e.1, drop e.2)) }) h

/-- Every module that this head holds SOLE is released to NONE (R409), which R399 permits in FENCED. -/
def Head.releaseSole (h : Head) : Head :=
  (List.range 32).foldl (fun (h : Head) p =>
    let x := h.port p
    if x.leaseKnown ∧ x.holder = h.ownSole then h.issue p 0 (leaseOp 2 x.gen h.ownSole 0 0) .release else h) h

/-- Commands this head stamped in epochs it never committed are discarded (R409), with what it holds of those epochs. -/
def Head.discardOpen (h : Head) : Head :=
  let late (x : Work) : Bool := x.qp.isSome && (h.last = noEpoch || decide (h.last < x.stamp))
  let h := h.works.foldl (fun (h : Head) e =>
    if late e.2 = false then h
    else match e.2.state with
      | .ready | .sealed_ => h.retireWork e.1
      | .running _ => h.updWork e.1 (fun x => { x with discard := true })
      | _ => h) h
  { h with cmt := { h.cmt with epochs := [] } }

/-- A head enters FENCED for a cause that keeps it out of CLAIM, or for none (R399, R409, R412). -/
def Head.enterFenced (h : Head) (cause : Option FenceCause) : Head :=
  let h := { h.setRole rFenced with pair := { h.pair with fence := cause } }
  ((h.frontFence).abandonOps).discardOpen.releaseSole

/-- The count of modules that the last known lease words show SOLE by the twin. -/
def Head.showTwinSole (h : Head) : Head :=
  h.wr SD_PAIR_STS_TWINSOLE ((List.range 32).filter (fun p => (h.port p).leaseKnown && (h.port p).holder = h.twinSole)).length

/-- A head is fenced as the loser of a lease bid is (R409, R411, R74). -/
def Head.loseFence (h : Head) (cause : Option FenceCause) : Head :=
  let h := h.showTwinSole
  let h := (h.wr SD_PAIR_ERR_BIDLOST 1).post 9 0x0914 2 (h.rd SD_PAIR_STS_WON) h.mods (h.rd SD_PAIR_STS_TWINSOLE) h.epoch
  h.enterFenced cause

end Sys2Proof.Machine
end

