-- ==== Sys2Proof/Machine/Units.lean ====
section
/-! DEFINITION. The unit life-cycle (spec/18_platform.md, R479 to R481): the machine every unit follows. What a start or a
stop does for its unit stands in the unit's own file. -/
namespace Sys2Proof.Machine
open Reg

/-- OFF. -/
def uOff : Nat := 0
/-- STARTING. -/
def uStarting : Nat := 1
/-- ON. -/
def uOn : Nat := 2
/-- STOPPING. -/
def uStopping : Nat := 3

/-- The fields of a unit: EN, STATE and REARM; accelerators pack theirs into one register each. -/
def unitFields : UnitId → Field × Field × Field
  | .frontPort n => (FE_P_CTL_EN.nth n, FE_P_STS_STATE.nth n, FE_P_STS_REARM.nth n)
  | .controller c => (FE_C_CTL_EN.nth c, FE_C_STS_STATE.nth c, FE_C_STS_REARM.nth c)
  | .modulePort p => (ML_P_CTL_EN.nth p, ML_P_STS_STATE.nth p, ML_P_STS_REARM.nth p)
  | .laneGroup g => (SD_G_CTL_EN.nth g, SD_G_STS_STATE.nth g, SD_G_STS_REARM.nth g)
  | .cluster n => (CORE_CL_CTL_EN.nth n, CORE_CL_STS_STATE.nth n, CORE_CL_STS_REARM.nth n)
  | .accelerator c _ => (ACC_CL_CTL_EN.nth c, ACC_CL_STS_STATE.nth c, ACC_CL_STS_REARM.nth c)
  | .veilCache n => (VEIL_C_CTL_EN.nth n, VEIL_C_STS_STATE.nth n, VEIL_C_STS_REARM.nth n)

/-- The place of a unit within its packed fields. -/
def unitLane : UnitId → Nat
  | .accelerator _ a => a
  | _ => 0

/-- The number of a unit's kind and its index, for a UNIT trace frame (assumption log 9, DESIGN CHOICE). -/
def unitNumber : UnitId → Nat × Nat
  | .frontPort n => (0, n)
  | .controller c => (1, c)
  | .modulePort p => (2, p)
  | .laneGroup g => (3, g)
  | .cluster n => (4, n)
  | .accelerator c a => (5, c * 12 + a)
  | .veilCache n => (6, n)

/-- A unit's EN. -/
def Head.unitEn (h : Head) (u : UnitId) : Bool := bitAt (h.rd (unitFields u).1) (unitLane u)

/-- A unit's state. -/
def Head.unitState (h : Head) (u : UnitId) : Nat := bitsAt (h.rd (unitFields u).2.1) (2 * unitLane u) 2

/-- A unit's REARM. -/
def Head.unitRearm (h : Head) (u : UnitId) : Bool := bitAt (h.rd (unitFields u).2.2) (unitLane u)

/-- Set a unit's EN. -/
def Head.setUnitEn (h : Head) (u : UnitId) (v : Bool) : Head := h.wrBit (unitFields u).1 (unitLane u) v

/-- Set a unit's REARM. -/
def Head.setRearm (h : Head) (u : UnitId) (v : Bool) : Head := h.wrBit (unitFields u).2.2 (unitLane u) v

/-- Move a unit to a state, with a UNIT frame (R508). -/
def Head.moveUnit (h : Head) (u : UnitId) (s : Nat) : Head :=
  let old := h.unitState u
  let lo := 2 * unitLane u
  let v := h.rd (unitFields u).2.1
  let h := h.wr (unitFields u).2.1 (v - bitsAt v lo 2 * 2 ^ lo + s * 2 ^ lo)
  h.trace 5 [(unitNumber u).1, (unitNumber u).2, old, s, (h.unitRearm u).toNat, (h.unitEn u).toNat]

/-- What a move of the machine asks the owning chapter to do. -/
inductive UnitAct
  | nothing | begin | halt
  deriving DecidableEq, Repr

/-- A write of EN (R480). A value that leaves EN unchanged has no effect. -/
def Head.unitWrite (h : Head) (u : UnitId) (v : Bool) : Head × UnitAct :=
  if h.unitEn u = v then (h, .nothing) else
    let h := h.setUnitEn u v
    match h.unitState u, v with
    | 0, true => (h.moveUnit u uStarting, .begin)
    | 1, false => (h.moveUnit u uStopping, .halt)
    | 2, false => (h.moveUnit u uStopping, .halt)
    | 3, v => (h.setRearm u v, .nothing)
    | _, _ => (h, .nothing)

/-- The start steps complete (R480). -/
def Head.unitStarted (h : Head) (u : UnitId) : Head :=
  if h.unitState u = uStarting then h.moveUnit u uOn else h

/-- The stop steps complete (R480): OFF, or STARTING with REARM cleared. -/
def Head.unitStopped (h : Head) (u : UnitId) : Head × UnitAct :=
  if h.unitState u ≠ uStopping then (h, .nothing)
  else if h.unitRearm u then ((h.setRearm u false).moveUnit u uStarting, .begin)
  else (h.moveUnit u uOff, .nothing)

/-- The owning chapter declares the unit failed (R480). -/
def Head.unitFailed (h : Head) (u : UnitId) : Head × UnitAct :=
  let h := (h.setUnitEn u false).setRearm u false
  match h.unitState u with
  | 1 => (h.moveUnit u uStopping, .halt)
  | 2 => (h.moveUnit u uStopping, .halt)
  | _ => (h, .nothing)

end Sys2Proof.Machine
end

