-- ==== Sys2Proof/Machine/Front.lean ====
section
/-! DEFINITION. The front complex's ports and transport: lanes, the frames hardware answers, queue pairs and what hosts send on them, and
how a queue pair or a controller ends (spec/13_host_front.md, R330 to R337, R341, R344, R345, R354 to R356). -/
namespace Sys2Proof.Machine
open Reg

/-! ### Ports, sub-ports and lanes (R330 to R332) -/

/-- The lane map a port takes when it passes through OFF. -/
def defaultMap (split : Nat) : Nat := if split = 1 then 0xE8 else 0xE4

/-- The first lane of a sub-port. -/
def Head.firstLane (h : Head) (p s : Nat) : Nat := bitsAt (h.rd (FE_P_LANE_MAP.nth p)) (2 * s) 2

/-- The lanes from a first lane on that a split gives a sub-port. -/
def lanesFrom (split f : Nat) : List Nat := if split = 0 then [0, 1, 2, 3] else if split = 1 then [f, f + 1] else [f]

/-- The lanes of a sub-port. -/
def Head.lanesOf (h : Head) (p s : Nat) : List Nat := lanesFrom (h.split p) (h.firstLane p s)

/-- A sub-port carries traffic (R331): its port is ON, it is enabled and its link is up. -/
def Head.subUp (h : Head) (p s : Nat) : Bool :=
  h.rd (FE_P_STS_STATE.nth p) = 2 && (h.enabledSubs p).contains s && bitAt (h.rd (FE_P_STS_SUBUP.nth p)) s

/-- SUBUP follows the lanes; PORT_LINK is posted for each sub-port that comes up or goes down, and one that goes down is told to the
twin and over the other sub-ports (R395). -/
def Head.showSubs (h : Head) (p : Nat) : Head :=
  [0, 1, 2, 3].foldl (fun (h : Head) s =>
    let old := bitAt (h.rd (FE_P_STS_SUBUP.nth p)) s
    let new : Bool := h.rd (FE_P_STS_STATE.nth p) = 2 && (h.enabledSubs p).contains s
      && (h.lanesOf p s).all (bitAt (h.rd (FE_P_STS_LANEUP.nth p)))
    if old = new then h
    else
      let h := (h.wrBit (FE_P_STS_SUBUP.nth p) s new).post 1 0x0101 0 p s new.toNat (h.subRate p)
      if new then h else h.sendEvent 5 0 p s 0 (h.udpConns.filter (fun c => (h.conn c).sub ≠ 4 * p + s))) h

/-- The address of a sub-port table entry (R357). -/
def Head.subEntry (h : Head) (p s : Nat) : Nat := h.rd FE_TBLBASE_BASE * 2 ^ 21 + 128 * (4 * p + s)

/-- The entry is VALID. -/
def Head.subValid (h : Head) (p s : Nat) : Bool := bitAt (h.load (h.subEntry p s + 13) 1) 7

/-- The IPv4 address of a sub-port, none where it has none. -/
def Head.ipv4 (h : Head) (p s : Nat) : Option Nat :=
  let a := beAt (h.bytes (h.subEntry p s + 8) 4) 0 4
  if h.subValid p s = false ∨ a = 0 then none else some a

/-- The IPv6 addresses of a sub-port. -/
def Head.ipv6 (h : Head) (p s : Nat) : List Nat :=
  if h.subValid p s = false then []
  else (((List.range 4).map (fun i => beAt (h.bytes (h.subEntry p s + 16 + 16 * i) 16) 0 16)).filter (· ≠ 0))

/-- A moved sub-port announces each of its addresses. -/
def Head.announce (h : Head) (p s : Nat) : Head :=
  let h := match h.ipv4 p s with
    | some a => h.emit (.frame (4 * p + s) (.gratuitousArp a))
    | none => h
  (h.ipv6 p s).foldl (fun (h : Head) a => h.emit (.frame (4 * p + s) (.unsolicitedAdvert a))) h

/-- The first lane an enabled sub-port may move to (R332). -/
def Head.spareLane (h : Head) (p s : Nat) : Option Nat :=
  let up := h.rd (FE_P_STS_LANEUP.nth p)
  let used := ((h.enabledSubs p).filter (· ≠ s)).flatMap (h.lanesOf p)
  let free (l : Nat) : Bool := bitAt up l && ! used.contains l
  if h.split p = 2 then (List.range 4).find? free
  else if h.split p = 1 then
    let f := 2 - h.firstLane p s
    if free f ∧ free (f + 1) then some f else none
  else none

/-- A sub-port has lost a lane: it moves, or stays down (R332). -/
def Head.laneLost (h : Head) (p lane s : Nat) : Head :=
  match h.spareLane p s with
  | some f =>
    let v := h.rd (FE_P_LANE_MAP.nth p)
    let h := h.wr (FE_P_LANE_MAP.nth p) (v - bitsAt v (2 * s) 2 * 2 ^ (2 * s) + f * 2 ^ (2 * s))
    (h.post 1 0x0102 1 p s lane f).announce p s
  | none => (h.wr FE_ERR_LANEOUT 1).post 1 0x0103 2 p s lane 0

/-- LANE_LINK_CHANGE (R332): a lane of a port that is STARTING or ON. -/
def Head.laneChange (h : Head) (p lane : Nat) (up : Bool) : Head :=
  let st := h.rd (FE_P_STS_STATE.nth p)
  if (st ≠ 1 ∧ st ≠ 2) ∨ bitAt (h.rd (FE_P_STS_LANEUP.nth p)) lane = up then h
  else
    let h := h.wrBit (FE_P_STS_LANEUP.nth p) lane up
    let h := if up ∨ st ≠ 2 then h
      else ((h.enabledSubs p).filter (fun s => (h.lanesOf p s).contains lane)).foldl (fun (h : Head) s => h.laneLost p lane s) h
    h.showSubs p

/-- LANE_LINK_CHANGE (R332). -/
def execLaneLinkChange (port : Fin 8) (lane : Fin 4) (up : Bool) (s : State) : Host.Outcome State Fault Refusal :=
  s.apply (fun h => h.laneChange port.val lane.val up)

/-! ### Frames that hardware answers (R333) -/

/-- A frame that is not answered is discarded and counted. -/
def Head.answerIf (h : Head) (p s : Nat) (mine : Bool) (f : FrameOut) : Head :=
  if h.subUp p s = false then h
  else if mine then h.emit (.frame (4 * p + s) f)
  else h.dropFrame p

/-- ARP_REQUEST (R333). -/
def execArpRequest (port : Fin 8) (sub : Fin 4) (ip : BitVec 32) (s : State) : Host.Outcome State Fault Refusal :=
  s.apply (fun h => h.answerIf port.val sub.val (decide (h.ipv4 port.val sub.val = some ip.toNat)) (.arpReply ip.toNat))

/-- NEIGHBOUR_SOLICITATION (R333). -/
def execNeighbourSolicitation (port : Fin 8) (sub : Fin 4) (ip : BitVec 128) (s : State) : Host.Outcome State Fault Refusal :=
  s.apply (fun h => h.answerIf port.val sub.val ((h.ipv6 port.val sub.val).contains ip.toNat) (.neighbourAdvert ip.toNat))

/-- ECHO_REQUEST (R333). -/
def execEchoRequest (port : Fin 8) (sub : Fin 4) (ip : BitVec 128) (v6 : Bool) (data : List Byte) (s : State) :
    Host.Outcome State Fault Refusal :=
  s.apply (fun h =>
    let mine : Bool := if v6 then (h.ipv6 port.val sub.val).contains ip.toNat else decide (h.ipv4 port.val sub.val = some ip.toNat)
    h.answerIf port.val sub.val mine (.echoReply ip.toNat data))

/-- FRAME_DISCARD (R330, R333): PAUSE and every other frame. -/
def execFrameDiscard (port : Fin 8) (_kind : FrameKind) (s : State) : Host.Outcome State Fault Refusal :=
  s.apply (fun h => if h.rd (FE_P_STS_STATE.nth port.val) = 2 then h.dropFrame port.val else h)

/-! ### Queue pairs: their end (R355, R356) -/

/-- A command of a queue pair that goes: one not yet accepted is dropped, as is one held or being answered; an accepted one runs on and its
completion is discarded (R355). -/
def Head.orphan (h : Head) (w : Nat) (x : Work) : Head :=
  match x.state with
  | .ready | .running _ | .sealed_ => h.updWork w (fun y => { y with discard := true, abort := none })
  | _ => h.retireWork w

/-- The I/O queue pairs of a controller. -/
def Head.ioQps (h : Head) (c : Nat) : List Nat :=
  (h.fe.qps.filter (fun e => e.2.ctrl = some c && e.2.admin = false)).map (·.1)

/-- A queue pair is destroyed: its receive buffers and its front queue go with it. -/
def Head.destroyQp (h : Head) (n : Nat) : Head :=
  match h.qp n with
  | none => h
  | some q =>
    let h := (h.worksOf n).foldl (fun (h : Head) e => h.orphan e.1 e.2) h
    let h := h.dropBufs q.rx
    let h := { h with fe := { h.fe with qps := Tbl.del h.fe.qps n }, queues := Tbl.del h.queues n }
    match q.ctrl with
    | some c => h.wr (FE_C_STS_NIOQ.nth c) (h.ioQps c).length
    | none => h

/-- A reset of a controller (R355): RDY falls and every queue pair but the admin one is destroyed. -/
def Head.ctlReset (h : Head) (c : Nat) : Head :=
  let h := (h.wr (FE_C_STS_RDY.nth c) 0).wr (FE_C_STS_SHST.nth c) 0
  ((h.ioQps c).foldl Head.destroyQp h).wr (FE_C_STS_NIOQ.nth c) 0

/-- A shut-down of a controller (R355): commands not yet accepted are interrupted. -/
def Head.ctlShutdown (h : Head) (c : Nat) : Head :=
  (h.wr (FE_C_STS_SHST.nth c) 1).cancelAll (fun x => x.ctrl = c && x.credit) (some (nvmeStatus 0 0x21 false))

/-- No I/O command of a controller remains. -/
def Head.ctlQuiet (h : Head) (c : Nat) : Bool := ! h.works.any (fun e => e.2.qp.isSome && e.2.credit && e.2.ctrl = c)

/-- An ended controller that is OFF is deleted with its admin queue pair (R356). -/
def Head.ctlDelete (h : Head) (c : Nat) : Head :=
  match h.ctl c with
  | none => h
  | some k =>
    if k.ending = false then h
    else
      let h := h.destroyQp k.adminQp
      let h := { h with fe := { h.fe with ctls := Tbl.del h.fe.ctls c } }
      (h.wr (FE_C_STS_SUBSYS.nth c) 0).wr (FE_C_STS_SHST.nth c) 0

/-- A controller is ended (R356): a reset, and deletion once it is OFF. -/
def Head.ctlEnd (h : Head) (c : Nat) : Head :=
  match h.ctl c with
  | none => h
  | some _ =>
    let h := (h.updCtl c (fun k => { k with ending := true })).ctlReset c
    let (h, _) := h.unitFailed (.controller (Fin.ofNat 4096 c))
    if h.unitState (.controller (Fin.ofNat 4096 c)) = uOff then h.ctlDelete c else h

/-- A queue pair enters the error state (R336, R334): causes 0 retries, 1 RNR retries, 2 fatal NAK, 3 remote access. Its association
ends; a queue pair that belongs to none goes. Without a controller QP_ERROR names 0xFFFF (assumption log 75, DESIGN CHOICE). -/
def Head.qpError (h : Head) (n cause psn : Nat) : Head :=
  match h.qp n with
  | none => h
  | some q =>
    if q.gone then h
    else
      let h := h.setQp n { q with gone := true }
      let h := (h.wr FE_ERR_QPERR 1).post 1 0x0104 1 n (q.ctrl.getD 0xFFFF) cause psn
      match q.ctrl with
      | some c => h.ctlEnd c
      | none => h.destroyQp n

/-! ### What hosts acknowledge (R336, R345) -/

/-- A PSN is at or before another. -/
def psnLe (a b : Nat) : Bool := decide ((b + 2 ^ 24 - a) % 2 ^ 24 < 2 ^ 23)

/-- An operation has been acknowledged in full. -/
def QpEntry.done (e : QpEntry) : Bool :=
  match e.op with
  | .read _ _ len => decide (len ≤ e.got)
  | _ => decide (e.npsn ≤ e.got)

/-- Operations at the front of a queue pair that are done leave it, each that is a posted entry advancing the completion count;
`fuel` bounds them. -/
def Head.popOps (h : Head) (n : Nat) : Nat → Head
  | 0 => h
  | fuel + 1 =>
    match h.qp n with
    | none => h
    | some q =>
      match q.out with
      | [] => h
      | e :: t =>
        if e.done = false then h
        else
          let h := h.setQp n { q with out := t }
          let h := match e.op with
            | .part _ => h
            | _ => h.queueDone n
          h.popOps n fuel

/-- What follows when operations of a queue pair have ended: responses whose fence is met, and READs that wait for room. -/
def Head.qpAdvance (h : Head) (n : Nat) : Head :=
  let h := (h.popOps n (((h.qp n).map (fun q => q.out.length)).getD 0)).respondReady n
  h.worksOf n |>.foldl (fun (h : Head) e => (h.tryFetch e.1).endCancelled e.1) h

/-- Everything but READs up to a PSN is acknowledged; the retry counts start afresh. -/
def Head.ackUpTo (h : Head) (n psn : Nat) : Head :=
  h.updQp n (fun q =>
    let out := q.out.map (fun e =>
      match e.op with
      | .read .. => e
      | _ => if psnLe ((e.psn + e.npsn - 1) % 2 ^ 24) psn then { e with got := e.npsn } else e)
    { q with out := out, retries := 0, rnrTries := 0, wait := h.rd FE_CTL_ACKTO })

/-- Every operation not acknowledged is sent again, the oldest first. -/
def Head.resend (h : Head) (n : Nat) : Head :=
  match h.qp n with
  | none => h
  | some q => (q.out.filter (fun e => ! e.done)).foldl (fun (h : Head) e => h.emit (.roce n e.msg)) h

/-- ROCE_ACK (R345). -/
def Head.roceAck (h : Head) (n apsn : Nat) : Head :=
  match h.qp n with
  | none => h
  | some q => if q.gone then h else (h.ackUpTo n apsn).qpAdvance n

/-- ROCE_ACK (R345). -/
def execRoceAck (qp : Fin 32768) (apsn : BitVec 24) (s : State) : Host.Outcome State Fault Refusal :=
  s.apply (fun h => h.roceAck qp.val apsn.toNat)

/-- One retry is counted, doubling the wait where a wait expired; past seven the queue pair fails (R336). -/
def Head.qpRetry (h : Head) (n : Nat) (double : Bool) : Head :=
  match h.qp n with
  | none => h
  | some q =>
    if q.gone then h
    else if 7 ≤ q.retries then h.qpError n 0 ((q.out.head?.map (·.psn)).getD q.sendPsn)
    else
      (h.setQp n { q with retries := q.retries + 1, wait := if double then min 1000 (2 * q.wait) else q.wait }).resend n

/-- ROCE_ACK_TIMEOUT (R336): nothing while nothing is outstanding or a wait after an RNR NAK runs. -/
def execRoceAckTimeout (qp : Fin 32768) (s : State) : Host.Outcome State Fault Refusal :=
  s.apply (fun h => if (h.qp qp.val).any (fun q => q.out ≠ [] && ! q.rnrWait) then h.qpRetry qp.val true else h)

/-- A NAK (R336): one for a sequence error acknowledges what precedes its PSN and asks for the rest again; a fatal one ends the queue
pair. -/
def Head.roceNak (h : Head) (n psn : Nat) (k : HostNak) : Head :=
  match k with
  | .fatal => h.qpError n 2 psn
  | .sequence =>
    match h.qp n with
    | none => h
    | some q =>
      if q.gone then h
      else
        let tries := q.retries
        let h := (h.ackUpTo n ((psn + 2 ^ 24 - 1) % 2 ^ 24)).qpAdvance n
        (h.updQp n (fun q => { q with retries := tries })).qpRetry n false

/-- ROCE_NAK (R336). -/
def execRoceNak (qp : Fin 32768) (psn : BitVec 24) (kind : HostNak) (s : State) : Host.Outcome State Fault Refusal :=
  s.apply (fun h => h.roceNak qp.val psn.toNat kind)

/-- ROCE_RNR_NAK (R336): the request waits for the delay it names, at most seven times. -/
def Head.roceRnr (h : Head) (n psn : Nat) : Head :=
  match h.qp n with
  | none => h
  | some q =>
    if q.gone ∨ q.rnrWait then h
    else if 7 ≤ q.rnrTries then h.qpError n 1 psn
    else h.setQp n { q with rnrTries := q.rnrTries + 1, rnrWait := true }

/-- ROCE_RNR_NAK (R336). -/
def execRoceRnrNak (qp : Fin 32768) (psn : BitVec 24) (s : State) : Host.Outcome State Fault Refusal :=
  s.apply (fun h => h.roceRnr qp.val psn.toNat)

/-- ROCE_RNR_DELAY_EXPIRY (R336). -/
def Head.rnrDelay (h : Head) (n : Nat) : Head :=
  match h.qp n with
  | none => h
  | some q => if q.rnrWait then (h.setQp n { q with rnrWait := false }).resend n else h

/-- ROCE_RNR_DELAY_EXPIRY (R336). -/
def execRoceRnrDelayExpiry (qp : Fin 32768) (s : State) : Host.Outcome State Fault Refusal := s.apply (fun h => h.rnrDelay qp.val)

/-! ### READ responses (R334, R340) -/

/-- Bytes of a command's data have landed: with the last the command is accepted (R31). -/
def Head.dataLanded (h : Head) (w off : Nat) (data : List Byte) : Head :=
  match h.work w with
  | none => h
  | some x =>
    match x.state with
    | .fetching u left =>
      let h := h.putSegs off data x.segs
      let left := left - data.length
      let h := h.updWork w (fun y => { y with state := .fetching u left })
      if u = 0 ∧ left = 0 then
        let first := h.getSegs 0 (min 32 (segLen x.segs)) x.segs
        (h.updWork w (fun y => { y with hostData := first })).accept w
      else h
    | _ => h

/-- A READ of a command's data failed (R340, check 10): its other READs are given up and it completes with Data Transfer Error. -/
def Head.readFailed (h : Head) (w : Nat) : Head := h.cancelWork w (some (nvmeStatus 0 4 false))

/-- A READ response packet: `ok` is false where the READ ends without its data. It belongs to the READ whose PSNs hold its own, and
acknowledges what was sent before that READ. -/
def Head.readResponse (h : Head) (n psn : Nat) (data : List Byte) (ce ok : Bool) : Head :=
  let h := h.qpCnp n ce
  match h.qp n with
  | none => h
  | some q =>
    match q.out.find? (fun e => (match e.op with | .read .. => true | _ => false) && decide ((psn + 2 ^ 24 - e.psn) % 2 ^ 24 < e.npsn)) with
    | none => h
    | some e =>
      match e.op with
      | .read w off len =>
        let at_ := (psn + 2 ^ 24 - e.psn) % 2 ^ 24 * q.pmtu
        if q.gone ∨ (ok ∧ (at_ ≠ e.got ∨ len < e.got + data.length)) then h
        else
          let got := if ok then e.got + data.length else len
          let h := h.ackUpTo n ((e.psn + 2 ^ 24 - 1) % 2 ^ 24)
          let h := h.updQp n (fun q => { q with out := q.out.map (fun x => if x.psn = e.psn then { x with got := got } else x) })
          (if ok then h.dataLanded w (off + e.got) data else h.readFailed w).qpAdvance n
      | _ => h

/-- ROCE_READ_RESPONSE (R334). -/
def execRoceReadResponse (qp : Fin 32768) (psn : BitVec 24) (data : List Byte) (ce ok : Bool) (s : State) :
    Host.Outcome State Fault Refusal :=
  s.apply (fun h => h.readResponse qp.val psn.toNat data ce ok)

/-! ### Congestion (R335) and requests that are refused (R334) -/

/-- ROCE_CNP (R335): at most one cut in CNPINT microseconds. -/
def Head.qpCut (h : Head) (n : Nat) : Head :=
  match h.qp n with
  | none => h
  | some q =>
    let h := h.bump (FE_P_CNT_CNPRX.nth (q.subport / 4)) 1
    let due : Bool := match q.lastCut with
      | some t => decide (t + 25 * h.rd FE_CC_CNPINT ≤ h.mer.sinceReset)
      | none => true
    if h.is FE_CC_ECNEN ∧ due then
      h.setQp n { q with rate := max (q.rate / 2) (100 * h.rd FE_CC_MINRATE), lastCut := some h.mer.sinceReset }
    else h

/-- ROCE_CNP (R335). -/
def execRoceCnp (qp : Fin 32768) (s : State) : Host.Outcome State Fault Refusal := s.apply (fun h => h.qpCut qp.val)

/-- ROCE_RATE_RECOVER (R335). -/
def execRoceRateRecover (qp : Fin 32768) (s : State) : Host.Outcome State Fault Refusal :=
  s.apply (fun h => h.updQp qp.val (fun q =>
    { q with rate := if h.is FE_CC_ECNEN then min (q.rate + h.rd FE_CC_RAI) (1000 * h.subRate (q.subport / 4)) else q.rate }))

/-- ROCE_REMOTE_REQUEST (R334): a remote-access NAK, and the error state. -/
def execRoceRemoteRequest (qp : Fin 32768) (psn : BitVec 24) (s : State) : Host.Outcome State Fault Refusal :=
  s.apply (fun h =>
    if (h.qp qp.val).any (fun q => ! q.gone) then (h.emit (.roce qp.val (.nakRemoteAccess psn.toNat))).qpError qp.val 3 psn.toNat else h)

/-! ### Connection management (R334, R338) -/

/-- A queue pair number that nothing uses, the lowest. -/
def Head.freeQp (h : Head) : Option Nat :=
  (List.range 32768).find? (fun n => (h.qp n).isNone && (h.worksOf n).isEmpty)

/-- CM_REQ (R338): `qid` and `size` are those of the private data, `pmtu` the host's path MTU code, `psn` the host's first PSN. The
controller's own first PSN is a free value. -/
def Head.cmReq (h : Head) (p s qid size pmtu psn : Nat) : Head :=
  if h.subUp p s = false then h
  else
    match h.freeQp with
    | none => h.emit (.roce 0 .reject)
    | some n =>
      let (x, h) := h.draw
      let q : Qp := { ctrl := none, admin := decide (qid = 0), qid := qid, size := size, subport := 4 * p + s,
                      pmtu := 512 * 2 ^ min pmtu (h.rd (FE_P_CTL_PMTU.nth p)), ready := false, linked := false, gone := false, rx := [],
                      out := [], sendPsn := x.toNat % 2 ^ 24, expPsn := psn, retries := 0, rnrTries := 0, rnrWait := false,
                      wait := h.rd FE_CTL_ACKTO, rate := 1000 * h.subRate p, lastCut := none, lastCnp := none, due := 0 }
      (h.setQp n q).emit (.roce n .reply)

/-- CM_REQ (R338). -/
def execCmReq (port : Fin 8) (sub : Fin 4) (qid size : BitVec 16) (pmtu : Fin 3) (psn : BitVec 24) (s : State) :
    Host.Outcome State Fault Refusal :=
  s.apply (fun h => h.cmReq port.val sub.val qid.toNat size.toNat (pmtu.val + 1) psn.toNat)

/-- CM_RTU (R334). -/
def execCmRtu (qp : Fin 32768) (s : State) : Host.Outcome State Fault Refusal :=
  s.apply (fun h => h.updQp qp.val (fun q => { q with ready := true }))

/-- CM_DREQ (R334). -/
def execCmDreq (qp : Fin 32768) (s : State) : Host.Outcome State Fault Refusal :=
  s.apply (fun h => if (h.qp qp.val).isSome then (h.destroyQp qp.val).emit (.roce qp.val .disconnected) else h)

/-! ### Receive buffers (R341) -/

/-- A receive buffer may be posted on an I/O queue pair (R341, R342, R355). -/
def Head.mayPost (h : Head) (n : Nat) (q : Qp) : Bool :=
  let rx := ((h.fe.qps.filter (fun e => e.2.admin = false)).map (fun e => e.2.rx.length)).foldl (· + ·) 0
  let stopping : Bool := match q.ctrl with
    | some c => h.unitState (.controller (Fin.ofNat 4096 c)) = uStopping
    | none => false
  q.ready && ! q.gone && ! q.admin && ! stopping
    && decide (h.rd FE_ADMIT_CUR + rx < h.rd FE_ADMIT_MAX) && decide (q.rx.length + (h.worksOf n).length < q.size)
    && ! h.gated && ! (h.fgSpent && q.due = 0)

/-- RECEIVE_BUFFER_POST (R341, R443). -/
def Head.postReceive (h : Head) (n : Nat) : Head :=
  let h := h.dumpCheck
  match h.qp n with
  | none => h.showGates
  | some q =>
    if h.mayPost n q = false then h.showGates
    else
      match h.allocIn 3 0 with
      | (.buffer b, h) => (h.setQp n { q with rx := q.rx ++ [b], due := q.due - 1 }).showGates
      | (_, h) => h.showGates

/-- RECEIVE_BUFFER_POST (R341). -/
def execReceiveBufferPost (qp : Fin 32768) (s : State) : Host.Outcome State Fault Refusal := s.apply (fun h => h.postReceive qp.val)

end Sys2Proof.Machine
end

