-- ==== Sys2Proof/Machine/Admin.lean ====
section
/-! DEFINITION. Fabrics and admin commands, the life of a controller, and held commands and their answers (spec/13_host_front.md,
R338, R339, R346, R349, R350, R352, R354 to R356). The places of the fields are those of the NVMe standards R338 names
(assumption log 11, PRESUMED). -/
namespace Sys2Proof.Machine
open Reg

/-! ### Commands on an admin queue -/

/-- An admin capsule that a test picks arrives; its controller's KATO count restarts, and it is handled, or refused where its queue pair
has no controller yet. -/
def Head.adminIn (h : Head) (c : Capsule) (pick : BitVec 512 → Bool) (f : Head → Nat → Nat → Head) : Head :=
  if pick c.sqe = false ∨ (h.qp c.qp.val).all (·.admin) = false then h
  else
    match h.receiveSend c with
    | (none, h) => h
    | (some (q, b), h) =>
      let (w, h) := h.addWork (h.capsuleWork false c q b)
      match q.ctrl with
      | none => h.sendAnswer w (nvmeStatus 0 0x0C false) []
      | some k => f (h.updCtl k (fun x => { x with since := h.mer.sinceReset })) w k

/-- A command completes with a status and Dwords 0 and 1. -/
def Head.endWith (h : Head) (w st dw0 : Nat) : Head := (h.updWork w (fun x => { x with dw0 := dw0 })).sendAnswer w st []

/-- Success. -/
def stOk : Nat := nvmeStatus 0 0 false

/-- KEEP_ALIVE (R356). -/
def execKeepAlive (c : Capsule) (s : State) : Host.Outcome State Fault Refusal :=
  s.apply (fun h => h.adminIn c (fun e => sqeOpc e = 0x18) (fun h w _ => h.endWith w stOk 0))

/-! ### Connect (R338) -/

/-- A controller number that is free, the lowest. -/
def Head.freeCtl (h : Head) : Option Nat :=
  (List.range 4096).find? (fun c => (h.ctl c).isNone && h.unitState (.controller (Fin.ofNat 4096 c)) = uOff)

/-- Connect Invalid Parameters. -/
def badConnect : Nat := nvmeStatus 1 0x82 false

/-- A Connect on an admin queue: a controller is created in the subsystem that the NQN names. -/
def Head.connectAdmin (h : Head) (c : Capsule) (w : Nat) (subsys : Option Nat) : Head :=
  let n := c.qp.val
  let kato := sqeAt c.sqe 48 4
  let cntlid := leAt c.data 16 2
  match subsys, h.freeCtl with
  | none, _ => h.endWith w badConnect 0
  | some _, none => h.endWith w (nvmeStatus 1 0x81 false) 0
  | some sub, some k =>
    if sqeAt c.sqe 42 2 ≠ 0 ∨ cntlid ≠ 0xFFFF ∨ sqeAt c.sqe 44 2 = 0 ∨ 31 < sqeAt c.sqe 44 2 then h.endWith w badConnect 0
    else if kato = 0 ∨ 600000 < kato then h.endWith w (nvmeStatus 0 2 false) 0
    else
      let x : Ctl := { adminQp := n, kato := max 1000 kato, since := h.mer.sinceReset, cc := 0, aers := [], events := 0, notice := false,
                       aborts := [], ending := false }
      let h := { h with fe := { h.fe with ctls := Tbl.put h.fe.ctls k x } }
      let h := (h.wr (FE_C_STS_SUBSYS.nth k) sub).wr (FE_C_STS_NIOQ.nth k) 0
      let h := h.updQp n (fun q => { q with ctrl := some k, linked := true, size := sqeAt c.sqe 44 2 + 1 })
      (h.updWork w (fun y => { y with ctrl := k })).endWith w stOk k

/-- A Connect on an I/O queue: the queue joins its controller. -/
def Head.connectIo (h : Head) (c : Capsule) (w : Nat) (subsys : Option Nat) : Head :=
  let n := c.qp.val
  let k := leAt c.data 16 2
  let qid := sqeAt c.sqe 42 2
  let size := sqeAt c.sqe 44 2 + 1
  if (h.ctl k).isNone ∨ subsys ≠ some (h.rd (FE_C_STS_SUBSYS.nth k)) ∨ qid = 0 ∨ 128 < qid ∨ size < 2 ∨ 1024 < size
      ∨ 128 ≤ h.rd (FE_C_STS_NIOQ.nth k) ∨ (h.ioQps k).any (fun m => (h.qp m).any (fun q => q.qid = qid)) then h.endWith w badConnect 0
  else if h.is (FE_C_STS_RDY.nth k) = false then h.endWith w (nvmeStatus 0 0x0C false) 0
  else
    let h := h.updQp n (fun q => { q with ctrl := some k, linked := true, qid := qid, size := size })
    let h := { h with queues := Tbl.put h.queues n (h.queue n) }
    ((h.wr (FE_C_STS_NIOQ.nth k) (h.rd (FE_C_STS_NIOQ.nth k) + 1)).updWork w (fun y => { y with ctrl := k })).endWith w stOk k

/-- CONNECT (R338): `subsys` is the NVM subsystem that the SUBNQN of the Connect data names, if any. -/
def Head.connect (h : Head) (c : Capsule) (subsys : Option Nat) : Head :=
  if sqeOpc c.sqe ≠ 0x7F ∨ sqeAt c.sqe 4 1 ≠ 1 then h
  else
    match h.receiveSend c with
    | (none, h) => h
    | (some (q, b), h) =>
      let (w, h) := h.addWork (h.capsuleWork false c q b)
      if q.linked then h.endWith w (nvmeStatus 0 0x0C false) 0
      else if sqeAt c.sqe 40 2 ≠ 0 then h.endWith w (nvmeStatus 1 0x80 false) 0
      else if q.admin then h.connectAdmin c w subsys
      else h.connectIo c w subsys

/-- CONNECT (R338). -/
def execConnect (c : Capsule) (subsys : Option (Fin 64)) (s : State) : Host.Outcome State Fault Refusal :=
  s.apply (fun h => h.connect c (subsys.map (fun (x : Fin 64) => x.val)))

/-! ### Properties (R338, R354) -/

/-- CAP: MQES 1,023, TO 20 (R338, R354); contiguous queues and the command-set bits as the standard requires. -/
def capProperty : Nat := 1023 + 2 ^ 16 + 20 * 2 ^ 24 + 2 ^ 37 + 2 ^ 43

/-- CSTS of a controller. -/
def Head.csts (h : Head) (k : Nat) : Nat := h.rd (FE_C_STS_RDY.nth k) + 4 * h.rd (FE_C_STS_SHST.nth k)

/-- PROPERTY_GET (R339). -/
def Head.propertyGet (h : Head) (w k : Nat) (s : BitVec 512) : Head :=
  match sqeAt s 44 4 with
  | 0 => h.endWith w stOk capProperty
  | 8 => h.endWith w stOk 0x20000
  | 0x14 => h.endWith w stOk (((h.ctl k).map (·.cc)).getD 0)
  | 0x1C => h.endWith w stOk (h.csts k)
  | _ => h.endWith w (nvmeStatus 0 2 false) 0

/-- PROPERTY_GET (R339). -/
def execPropertyGet (c : Capsule) (s : State) : Host.Outcome State Fault Refusal :=
  s.apply (fun h => h.adminIn c (fun e => sqeOpc e = 0x7F && sqeAt e 4 1 = 4) (fun h w k => h.propertyGet w k c.sqe))

/-- A write of a controller's EN (R354): what a start and a stop do. -/
def Head.ctlEnable (h : Head) (k : Nat) (v : Bool) : Head :=
  let u : UnitId := .controller (Fin.ofNat 4096 k)
  let was := h.unitEn u
  let (h, act) := h.unitWrite u v
  let h := if was ∧ v = false then (h.wr (FE_C_STS_RDY.nth k) 0).wr (FE_C_STS_SHST.nth k) 0 else h
  if act = .halt then h.ctlReset k else h

/-- CC.SHN is written non-zero (R354). -/
def Head.ctlShn (h : Head) (k : Nat) : Head :=
  let u : UnitId := .controller (Fin.ofNat 4096 k)
  if h.unitState u = uOn then (h.moveUnit u uStopping).ctlShutdown k
  else if h.unitState u = uStopping then h
  else h.wr (FE_C_STS_SHST.nth k) 2

/-- A Property Set of CC (R354). -/
def Head.setCc (h : Head) (k v : Nat) : Head :=
  let shn := bitsAt v 14 2
  let h := h.updCtl k (fun x => { x with cc := v })
  let h := h.ctlEnable k (bitAt v 0)
  if shn ≠ 0 then h.ctlShn k else h

/-- PROPERTY_SET (R354). -/
def execPropertySet (c : Capsule) (s : State) : Host.Outcome State Fault Refusal :=
  s.apply (fun h => h.adminIn c (fun e => sqeOpc e = 0x7F && sqeAt e 4 1 = 0) (fun h w k =>
    if sqeAt c.sqe 44 4 = 0x14 then (h.setCc k (sqeAt c.sqe 48 4)).endWith w stOk 0
    else h.endWith w (nvmeStatus 0 2 false) 0))

/-- The start steps of a controller end once the epoch is valid (R354). -/
def Head.ctlStarted (h : Head) (k : Nat) : Head :=
  let u : UnitId := .controller (Fin.ofNat 4096 k)
  if h.is MER_STS_EPVALID ∧ h.unitState u = uStarting then (h.unitStarted u).wr (FE_C_STS_RDY.nth k) 1 else h

/-- The stop steps of a controller end once no command of it remains (R355); an ended one is deleted (R356). -/
def Head.ctlStopped (h : Head) (k : Nat) : Head :=
  let u : UnitId := .controller (Fin.ofNat 4096 k)
  if h.unitState u ≠ uStopping ∨ h.ctlQuiet k = false then h
  else
    let h := if h.rd (FE_C_STS_SHST.nth k) = 1 then h.wr (FE_C_STS_SHST.nth k) 2 else h
    let (h, _) := h.unitStopped u
    if h.unitState u = uOff then h.ctlDelete k else h.wr (FE_C_STS_SHST.nth k) 0

/-- KATO_EXPIRED (R356). -/
def execKatoExpired (ctrl : Fin 4096) (s : State) : Host.Outcome State Fault Refusal :=
  s.apply (fun h =>
    match h.ctl ctrl.val with
    | some k =>
      if k.ending = false ∧ k.since + k.kato * 25000 ≤ h.mer.sinceReset then
        (h.post 1 0x0105 1 ctrl.val k.kato h.epoch 0).ctlEnd ctrl.val
      else h
    | none => h)

/-! ### Abort (R346) -/

/-- The command an Abort names, where its last byte has not landed. -/
def Head.abortable (h : Head) (k sqid cid : Nat) : Option Nat :=
  (h.works.find? (fun e => e.2.ctrl = k && e.2.cid = cid
    && (match e.2.state with | .fetching u l => decide (u ≠ 0 ∨ l ≠ 0) | _ => false)
    && e.2.qp.any (fun n => (h.qp n).any (fun q => q.qid = sqid && ! q.admin)))).map (·.1)

/-- ABORT (R346): the command is given up and the Abort answered after it, or the Abort completes with Dword 0 bit 0 set. -/
def Head.abort (h : Head) (w k : Nat) (s : BitVec 512) : Head :=
  if 4 ≤ ((h.ctl k).map (fun x => x.aborts.length)).getD 0 then h.endWith w (nvmeStatus 1 3 false) 0
  else
    match h.abortable k (sqeAt s 40 2) (sqeAt s 42 2) with
    | none => h.endWith w stOk 1
    | some v =>
      let h := (h.retireWork w).updCtl k (fun x => { x with aborts := x.aborts ++ [sqeCid s] })
      (h.updWork v (fun y => { y with abort := some (sqeCid s) })).cancelWork v (some (nvmeStatus 0 7 false))

/-- ABORT (R346). -/
def execAbort (c : Capsule) (s : State) : Host.Outcome State Fault Refusal :=
  s.apply (fun h => h.adminIn c (fun e => sqeOpc e = 8) (fun h w k => h.abort w k c.sqe))

/-! ### Asynchronous events and the ANA log (R338, R352) -/

/-- ASYNCHRONOUS_EVENT_REQUEST (R352): held until an event completes it; a fifth exceeds the limit. -/
def Head.aer (h : Head) (w k : Nat) (s : BitVec 512) : Head :=
  if 4 ≤ ((h.ctl k).map (fun x => x.aers.length)).getD 0 then h.endWith w (nvmeStatus 1 5 false) 0
  else ((h.retireWork w).updCtl k (fun x => { x with aers := x.aers ++ [sqeCid s] })).reportAna k

/-- ASYNCHRONOUS_EVENT_REQUEST (R352). -/
def execAsynchronousEventRequest (c : Capsule) (s : State) : Host.Outcome State Fault Refusal :=
  s.apply (fun h => h.adminIn c (fun e => sqeOpc e = 0x0C) (fun h w k => h.aer w k c.sqe))

/-- The NSIDs of a subsystem in an ANA group. -/
def Head.anaNsids (h : Head) (g sub : Nat) : List Nat :=
  ((List.range 16384).map h.nsEntryAddr).filterMap (fun a =>
    if bitAt (h.load (a + 7) 1) 0 && h.load (a + 6) 1 = g && h.load (a + 8) 1 = sub then some (h.load a 4) else none)

/-- The ANA log as a controller of a subsystem sees it: the change count and a descriptor for each group that holds a namespace of the
subsystem; group g is ANAGRPID g + 1. `groupsOnly` leaves the NSIDs out. -/
def Head.anaLog (h : Head) (sub : Nat) (groupsOnly : Bool) : List Byte :=
  let gs := ((List.range 256).map (fun g => (g, h.anaNsids g sub))).filter (fun x => ! x.2.isEmpty)
  toBytes 8 h.fe.anaChanges ++ toBytes 2 gs.length ++ List.replicate 6 0
    ++ gs.flatMap (fun x =>
      let ids := if groupsOnly then [] else x.2
      toBytes 4 (x.1 + 1) ++ toBytes 4 ids.length ++ toBytes 8 (Tbl.get 0 h.fe.anaAt x.1) ++ toBytes 1 (h.anaState x.1)
        ++ List.replicate 15 0 ++ ids.flatMap (toBytes 4))

/-- GET_LOG_PAGE (R339): the ANA log, from an offset, as far as the host asks. -/
def Head.getLog (h : Head) (w k : Nat) (s : BitVec 512) : Head :=
  let n := (sqeAt s 42 2 + 2 ^ 16 * sqeAt s 44 2 + 1) * 4
  let log := (h.anaLog (h.rd (FE_C_STS_SUBSYS.nth k)) (bitAt (sqeAt s 41 1) 0)).drop (sqeAt s 48 8)
  let page := log.take n
  h.sendAnswer w stOk (page ++ List.replicate (n - page.length) 0)

/-- The log page an entry of Get Log Page names. -/
def isAnaLog (e : BitVec 512) : Bool := sqeOpc e = 2 && sqeAt e 40 1 = 0x0C

/-- GET_LOG_PAGE (R339). -/
def execGetLogPage (c : Capsule) (s : State) : Host.Outcome State Fault Refusal :=
  s.apply (fun h => h.adminIn c isAnaLog (fun h w k => h.getLog w k c.sqe))

/-! ### Held commands (R349, R350) -/

/-- The admin and Fabrics commands that the front complex serves itself (R339). -/
def servedAdmin (e : BitVec 512) : Bool :=
  let o := sqeOpc e
  o = 0x18 || o = 8 || o = 0x0C || isAnaLog e || (o = 0x7F && (sqeAt e 4 1 = 0 || sqeAt e 4 1 = 1 || sqeAt e 4 1 = 4))

/-- ADMIN_COMMAND_HELD (R349). The ANA notice is enabled by Set Features, Asynchronous Event Configuration, bit 11 (R352). -/
def Head.holdAdmin (h : Head) (w k : Nat) (s : BitVec 512) : Head :=
  let h := if sqeOpc s = 9 ∧ sqeAt s 40 1 = 0x0B then h.updCtl k (fun x => { x with notice := bitAt (sqeAt s 44 4) 11 }) else h
  h.hold w 2

/-- ADMIN_COMMAND_HELD (R349). -/
def execAdminCommandHeld (c : Capsule) (s : State) : Host.Outcome State Fault Refusal :=
  s.apply (fun h => h.adminIn c (fun e => ! servedAdmin e) (fun h w k => h.holdAdmin w k c.sqe))

/-- RESERVATION_REGISTER (R349). -/
def execReservationRegister (c : Capsule) (s : State) : Host.Outcome State Fault Refusal :=
  s.apply (fun h => h.capsuleIn false (fun o => o = 0x0D) c)

/-- RESERVATION_REPORT (R349). -/
def execReservationReport (c : Capsule) (s : State) : Host.Outcome State Fault Refusal :=
  s.apply (fun h => h.capsuleIn false (fun o => o = 0x0E) c)

/-- RESERVATION_ACQUIRE (R349). -/
def execReservationAcquire (c : Capsule) (s : State) : Host.Outcome State Fault Refusal :=
  s.apply (fun h => h.capsuleIn false (fun o => o = 0x11) c)

/-- RESERVATION_RELEASE (R349). -/
def execReservationRelease (c : Capsule) (s : State) : Host.Outcome State Fault Refusal :=
  s.apply (fun h => h.capsuleIn false (fun o => o = 0x15) c)

/-- The command that an entry of a front queue answers, where the entry is in order (R350). -/
def Head.heldFor (h : Head) (n : Nat) (e : QEntry) : Option Nat :=
  let v := e.body.toNat
  let kind := recAt v 0 1
  let len := recAt v 12 4
  let w := Tbl.find h.fe.holds (recAt v 2 2)
  if e.ok = false ∨ (kind ≠ 1 ∧ kind ≠ 2) ∨ recAt v 1 1 ≠ 0 ∨ recAt v 6 2 ≠ 0 ∨ recAt v 28 36 ≠ 0
      ∨ (kind = 1 ∧ (len = 0 ∨ 8388608 < len ∨ h.inMemory (recAt v 16 8) len = false)) then none
  else w.filter (fun w => (h.work w).any (fun x => x.qp = some n))

/-- The entry at the front of a front queue is taken from it. -/
def Head.takeEntry (h : Head) (n : Nat) : Head :=
  h.setQueue n { h.queue n with waiting := (h.queue n).waiting.drop 1 }

/-- An operation of a posted entry goes out on its queue pair under the entry's own count. -/
def Head.postEntry (h : Head) (n count : Nat) (op : QpOp) (npsn : Nat) (msg : Nat → RoceOut) : Head :=
  match h.qp n with
  | none => h
  | some q =>
    let e : QpEntry := { count := count, psn := q.sendPsn, npsn := npsn, op := op, got := 0, msg := msg q.sendPsn }
    (h.setQp n { q with out := q.out ++ [e], sendPsn := (q.sendPsn + npsn) % 2 ^ 24 }).emit (.roce n e.msg)

/-- The parts of a command's keyed descriptors that a range of its data covers: key, address, and the bytes. -/
def keyParts (off : Nat) (data : List Byte) : List (Nat × Nat × Nat) → List (Nat × Nat × List Byte)
  | [] => []
  | (key, addr, len) :: t =>
    if data = [] then []
    else if len ≤ off then keyParts (off - len) data t
    else (key, addr + off, data.take (len - off)) :: keyParts 0 (data.drop (len - off)) t

/-- DATA (R350): its bytes go to the host, one RDMA WRITE for each descriptor they lie in; the entry is complete with the last. -/
def Head.heldData (h : Head) (n : Nat) (e : QEntry) (w : Nat) : Head :=
  match h.work w with
  | none => h
  | some x =>
    let v := e.body.toNat
    let parts := keyParts (recAt v 8 4) (h.bytes (recAt v 16 8) (recAt v 12 4)) x.keys
    let last := parts.length - 1
    if parts.isEmpty then h.queueDone n
    else
      ((List.range parts.length).zip parts).foldl (fun (h : Head) (p : Nat × Nat × Nat × List Byte) =>
        let (i, key, addr, b) := p
        let k := ((h.qp n).map (fun (q : Qp) => q.psns b.length)).getD 1
        h.postEntry n e.count (if i = last then .write b.length else .part b.length) k (fun psn => .write psn key addr b)) h

/-- RESPONSE (R350): the completion goes out and the slot is freed. -/
def Head.heldResponse (h : Head) (n : Nat) (e : QEntry) (w : Nat) : Head :=
  match h.work w with
  | none => h
  | some x =>
    let v := e.body.toNat
    let inval := if x.inval then (x.keys.head?).map (·.1) else none
    let h := if x.discard then h.queueDone n
      else h.postEntry n e.count (.response x.cid) 1 (fun psn => .response psn inval x.cid (recAt v 4 2 / 2) (recAt v 24 4))
    h.retireWork w

/-- The entry at the front of a front queue is handled where its KIND is one of those a test picks (R350); one that is not in order is
discarded, and counts as posted and completed. -/
def Head.heldEntry (h : Head) (n : Nat) (response : Bool) : Head :=
  match (h.queue n).waiting with
  | [] => h
  | e :: _ =>
    match h.heldFor n e with
    | none => ((h.takeEntry n).wr FE_ERR_BADPOST 1).queueDone n
    | some w =>
      let kind := recAt e.body.toNat 0 1
      if kind = 1 ∧ response = false then (h.takeEntry n).heldData n e w
      else if kind = 2 ∧ response ∧ h.withholds n = false ∧ e.count ≤ (h.queue n).done + 1 then (h.takeEntry n).heldResponse n e w
      else h

/-- HELD_DATA_ENTRY (R350). -/
def execHeldDataEntry (qp : Fin 32768) (s : State) : Host.Outcome State Fault Refusal := s.apply (fun h => h.heldEntry qp.val false)

/-- HELD_RESPONSE_ENTRY (R350): nothing until every earlier entry of the queue has been acknowledged. -/
def execHeldResponseEntry (qp : Fin 32768) (s : State) : Host.Outcome State Fault Refusal := s.apply (fun h => h.heldEntry qp.val true)

end Sys2Proof.Machine
end

