-- ==== Sys2Proof/Machine/Hash.lean ====
section
/-! DEFINITION. The digest algorithms of R72, R151, R459 and R475: SHA-256, SHA-384, SHA-512, SHA-512/256, SHA3-256 and
SHA3-384, as the standards the spec names define them (FIPS 180-4, FIPS 202). A digest in progress keeps its chaining state as
bytes, 64-bit or 32-bit words little-endian one after the other (R153), and the bytes that do not yet form a block. -/
namespace Sys2Proof.Machine

/-! ### SHA-2 -/

/-- The round constants of SHA-256. -/
def sha256K : List (BitVec 32) :=
  [0x428A2F98, 0x71374491, 0xB5C0FBCF, 0xE9B5DBA5, 0x3956C25B, 0x59F111F1, 0x923F82A4, 0xAB1C5ED5]
    ++ [0xD807AA98, 0x12835B01, 0x243185BE, 0x550C7DC3, 0x72BE5D74, 0x80DEB1FE, 0x9BDC06A7, 0xC19BF174]
    ++ [0xE49B69C1, 0xEFBE4786, 0x0FC19DC6, 0x240CA1CC, 0x2DE92C6F, 0x4A7484AA, 0x5CB0A9DC, 0x76F988DA]
    ++ [0x983E5152, 0xA831C66D, 0xB00327C8, 0xBF597FC7, 0xC6E00BF3, 0xD5A79147, 0x06CA6351, 0x14292967]
    ++ [0x27B70A85, 0x2E1B2138, 0x4D2C6DFC, 0x53380D13, 0x650A7354, 0x766A0ABB, 0x81C2C92E, 0x92722C85]
    ++ [0xA2BFE8A1, 0xA81A664B, 0xC24B8B70, 0xC76C51A3, 0xD192E819, 0xD6990624, 0xF40E3585, 0x106AA070]
    ++ [0x19A4C116, 0x1E376C08, 0x2748774C, 0x34B0BCB5, 0x391C0CB3, 0x4ED8AA4A, 0x5B9CCA4F, 0x682E6FF3]
    ++ [0x748F82EE, 0x78A5636F, 0x84C87814, 0x8CC70208, 0x90BEFFFA, 0xA4506CEB, 0xBEF9A3F7, 0xC67178F2]

/-- The round constants of SHA-512. -/
def sha512K : List (BitVec 64) :=
  [0x428A2F98D728AE22, 0x7137449123EF65CD, 0xB5C0FBCFEC4D3B2F, 0xE9B5DBA58189DBBC,
      0x3956C25BF348B538, 0x59F111F1B605D019, 0x923F82A4AF194F9B, 0xAB1C5ED5DA6D8118]
    ++ [0xD807AA98A3030242, 0x12835B0145706FBE, 0x243185BE4EE4B28C, 0x550C7DC3D5FFB4E2,
      0x72BE5D74F27B896F, 0x80DEB1FE3B1696B1, 0x9BDC06A725C71235, 0xC19BF174CF692694]
    ++ [0xE49B69C19EF14AD2, 0xEFBE4786384F25E3, 0x0FC19DC68B8CD5B5, 0x240CA1CC77AC9C65,
      0x2DE92C6F592B0275, 0x4A7484AA6EA6E483, 0x5CB0A9DCBD41FBD4, 0x76F988DA831153B5]
    ++ [0x983E5152EE66DFAB, 0xA831C66D2DB43210, 0xB00327C898FB213F, 0xBF597FC7BEEF0EE4,
      0xC6E00BF33DA88FC2, 0xD5A79147930AA725, 0x06CA6351E003826F, 0x142929670A0E6E70]
    ++ [0x27B70A8546D22FFC, 0x2E1B21385C26C926, 0x4D2C6DFC5AC42AED, 0x53380D139D95B3DF,
      0x650A73548BAF63DE, 0x766A0ABB3C77B2A8, 0x81C2C92E47EDAEE6, 0x92722C851482353B]
    ++ [0xA2BFE8A14CF10364, 0xA81A664BBC423001, 0xC24B8B70D0F89791, 0xC76C51A30654BE30,
      0xD192E819D6EF5218, 0xD69906245565A910, 0xF40E35855771202A, 0x106AA07032BBD1B8]
    ++ [0x19A4C116B8D2D0C8, 0x1E376C085141AB53, 0x2748774CDF8EEB99, 0x34B0BCB5E19B48A8,
      0x391C0CB3C5C95A63, 0x4ED8AA4AE3418ACB, 0x5B9CCA4F7763E373, 0x682E6FF3D6B2B8A3]
    ++ [0x748F82EE5DEFB2FC, 0x78A5636F43172F60, 0x84C87814A1F0AB72, 0x8CC702081A6439EC,
      0x90BEFFFA23631E28, 0xA4506CEBDE82BDE9, 0xBEF9A3F7B2C67915, 0xC67178F2E372532B]
    ++ [0xCA273ECEEA26619C, 0xD186B8C721C0C207, 0xEADA7DD6CDE0EB1E, 0xF57D4F7FEE6ED178,
      0x06F067AA72176FBA, 0x0A637DC5A2C898A6, 0x113F9804BEF90DAE, 0x1B710B35131C471B]
    ++ [0x28DB77F523047D84, 0x32CAAB7B40C72493, 0x3C9EBE0A15C9BEBC, 0x431D67C49C100D4C,
      0x4CC5D4BECB3E42B6, 0x597F299CFC657E2A, 0x5FCB6FAB3AD6FAEC, 0x6C44198C4A475817]

/-- The initial chaining state of SHA-256. -/
def sha256Iv : List (BitVec 32) :=
  [0x6A09E667, 0xBB67AE85, 0x3C6EF372, 0xA54FF53A, 0x510E527F, 0x9B05688C, 0x1F83D9AB, 0x5BE0CD19]

/-- The initial chaining state of SHA-512. -/
def sha512Iv : List (BitVec 64) :=
  [0x6A09E667F3BCC908, 0xBB67AE8584CAA73B, 0x3C6EF372FE94F82B, 0xA54FF53A5F1D36F1,
      0x510E527FADE682D1, 0x9B05688C2B3E6C1F, 0x1F83D9ABFB41BD6B, 0x5BE0CD19137E2179]

/-- The initial chaining state of SHA-384. -/
def sha384Iv : List (BitVec 64) :=
  [0xCBBB9D5DC1059ED8, 0x629A292A367CD507, 0x9159015A3070DD17, 0x152FECD8F70E5939,
      0x67332667FFC00B31, 0x8EB44A8768581511, 0xDB0C2E0D64F98FA7, 0x47B5481DBEFA4FA4]

/-- The initial chaining state of SHA-512/256. -/
def sha512t256Iv : List (BitVec 64) :=
  [0x22312194FC2BF72C, 0x9F555FA3C84C64C2, 0x2393B86B6F53B151, 0x963877195940EABD,
      0x96283EE2A88EFFE3, 0xBE5E1E2553863992, 0x2B0199FC2C85B8AA, 0x0EB72DDC81C52CA2]

/-- Word `i` of a list. -/
def wordAt {w : Nat} (l : List (BitVec w)) (i : Nat) : BitVec w := l.getD i 0

/-- The rotations and shifts of a SHA-2 variant: the two message functions and the two round functions. -/
structure Sha2 (w : Nat) where
  s0 : BitVec w → BitVec w
  s1 : BitVec w → BitVec w
  b0 : BitVec w → BitVec w
  b1 : BitVec w → BitVec w

/-- SHA-256's functions. -/
def sha2w32 : Sha2 32 :=
  { s0 := fun x => x.rotateRight 7 ^^^ x.rotateRight 18 ^^^ x >>> 3,
    s1 := fun x => x.rotateRight 17 ^^^ x.rotateRight 19 ^^^ x >>> 10,
    b0 := fun x => x.rotateRight 2 ^^^ x.rotateRight 13 ^^^ x.rotateRight 22,
    b1 := fun x => x.rotateRight 6 ^^^ x.rotateRight 11 ^^^ x.rotateRight 25 }

/-- SHA-512's functions. -/
def sha2w64 : Sha2 64 :=
  { s0 := fun x => x.rotateRight 1 ^^^ x.rotateRight 8 ^^^ x >>> 7,
    s1 := fun x => x.rotateRight 19 ^^^ x.rotateRight 61 ^^^ x >>> 6,
    b0 := fun x => x.rotateRight 28 ^^^ x.rotateRight 34 ^^^ x.rotateRight 39,
    b1 := fun x => x.rotateRight 14 ^^^ x.rotateRight 18 ^^^ x.rotateRight 41 }

/-- The rounds of a block: the eight working words and the window of sixteen message words, over the round constants. -/
def sha2Rounds {w : Nat} (f : Sha2 w) : List (BitVec w) → List (BitVec w) → List (BitVec w) → List (BitVec w)
  | [], v, _ => v
  | k :: ks, v, m =>
    let a := wordAt v 0
    let e := wordAt v 4
    let t1 := wordAt v 7 + f.b1 e + (e &&& wordAt v 5 ^^^ ~~~e &&& wordAt v 6) + k + wordAt m 0
    let t2 := f.b0 a + (a &&& wordAt v 1 ^^^ a &&& wordAt v 2 ^^^ wordAt v 1 &&& wordAt v 2)
    let next := f.s1 (wordAt m 14) + wordAt m 9 + f.s0 (wordAt m 1) + wordAt m 0
    sha2Rounds f ks [t1 + t2, a, wordAt v 1, wordAt v 2, wordAt v 3 + t1, e, wordAt v 5, wordAt v 6] (m.drop 1 ++ [next])

/-- Big-endian words of a block, `n` bytes each. -/
def blockWords (w n : Nat) (b : List Byte) : List (BitVec w) :=
  (List.range 16).map (fun i => BitVec.ofNat w (beAt b (n * i) n))

/-- The compression of a block into a chaining state. -/
def sha2Block {w : Nat} (f : Sha2 w) (k : List (BitVec w)) (v : List (BitVec w)) (b : List Byte) : List (BitVec w) :=
  List.zipWith (· + ·) v (sha2Rounds f k v (blockWords w (w / 8) b))

/-! ### SHA-3 -/

/-- The round constants of Keccak-f[1600]. -/
def keccakRc : List (BitVec 64) :=
  [0x0000000000000001, 0x0000000000008082, 0x800000000000808A, 0x8000000080008000,
      0x000000000000808B, 0x0000000080000001, 0x8000000080008081, 0x8000000000008009]
    ++ [0x000000000000008A, 0x0000000000000088, 0x0000000080008009, 0x000000008000000A,
      0x000000008000808B, 0x800000000000008B, 0x8000000000008089, 0x8000000000008003]
    ++ [0x8000000000008002, 0x8000000000000080, 0x000000000000800A, 0x800000008000000A,
      0x8000000080008081, 0x8000000000008080, 0x0000000080000001, 0x8000000080008008]

/-- The rotation of each lane, lane (x, y) at 5y + x. -/
def keccakRot : List Nat :=
  [0, 1, 62, 28, 27, 36, 44, 6, 55, 20, 3, 10, 43, 25, 39, 41, 45, 15, 21, 8, 18, 2, 61, 56, 14]

/-- The lane that moves to each place. -/
def keccakFrom : List Nat :=
  [0, 6, 12, 18, 24, 3, 9, 10, 16, 22, 1, 7, 13, 19, 20, 4, 5, 11, 17, 23, 2, 8, 14, 15, 21]

/-- One round of Keccak-f[1600]. -/
def keccakRound (a : List (BitVec 64)) (rc : BitVec 64) : List (BitVec 64) :=
  let c := (List.range 5).map (fun x => (List.range 5).foldl (fun r y => r ^^^ wordAt a (5 * y + x)) 0)
  let d := (List.range 5).map (fun x => wordAt c ((x + 4) % 5) ^^^ (wordAt c ((x + 1) % 5)).rotateLeft 1)
  let a := (List.range 25).map (fun i => (wordAt a i ^^^ wordAt d (i % 5)).rotateLeft (keccakRot.getD i 0))
  let b := keccakFrom.map (wordAt a)
  let r := (List.range 25).map (fun i =>
    wordAt b i ^^^ (~~~(wordAt b (i / 5 * 5 + (i + 1) % 5 % 5)) &&& wordAt b (i / 5 * 5 + (i % 5 + 2) % 5)))
  match r with
  | [] => []
  | x :: t => (x ^^^ rc) :: t

/-- Keccak-f[1600]. -/
def keccak (a : List (BitVec 64)) : List (BitVec 64) := keccakRc.foldl keccakRound a

/-- A block of `rate` bytes is absorbed. -/
def sha3Block (rate : Nat) (a : List (BitVec 64)) (b : List Byte) : List (BitVec 64) :=
  keccak ((List.range 25).map (fun i => wordAt a i ^^^ (if 8 * i < rate then BitVec.ofNat 64 (leAt b (8 * i) 8) else 0)))

/-! ### The algorithms -/

/-- The algorithms: 1 SHA-256, 2 SHA-512/256, 3 SHA3-256 (the ALG codes of R151), 4 SHA-384, 5 SHA-512, 6 SHA3-384. -/
def hashBlock (alg : Nat) : Nat := if alg = 1 then 64 else if alg = 3 then 136 else if alg = 6 then 104 else 128

/-- The bytes of the digest. -/
def hashLen (alg : Nat) : Nat := if alg ≤ 3 then 32 else if alg = 5 then 64 else 48

/-- Words of a chaining state as bytes, little-endian. -/
def chainBytes {w : Nat} (l : List (BitVec w)) : List Byte := l.flatMap (fun x => toBytes (w / 8) x.toNat)

/-- A chaining state from its bytes. -/
def chainWords (w : Nat) (n : Nat) (b : List Byte) : List (BitVec w) :=
  (List.range n).map (fun i => BitVec.ofNat w (leAt b (w / 8 * i) (w / 8)))

/-- The initial chaining state. -/
def hashInit (alg : Nat) : List Byte :=
  if alg = 1 then chainBytes sha256Iv
  else if alg = 2 then chainBytes sha512t256Iv
  else if alg = 4 then chainBytes sha384Iv
  else if alg = 5 then chainBytes sha512Iv
  else List.replicate 200 0

/-- One block is taken into a chaining state. -/
def hashStep (alg : Nat) (c b : List Byte) : List Byte :=
  if alg = 1 then chainBytes (sha2Block sha2w32 sha256K (chainWords 32 8 c) b)
  else if alg = 3 ∨ alg = 6 then chainBytes (sha3Block (hashBlock alg) (chainWords 64 25 c) b)
  else chainBytes (sha2Block sha2w64 sha512K (chainWords 64 8 c) b)

/-- Whole blocks of bytes are taken in turn; the bytes left over form no block. `fuel` bounds the blocks. -/
def hashRun (alg : Nat) : Nat → List Byte → List Byte → List Byte × List Byte
  | 0, c, b => (c, b)
  | fuel + 1, c, b =>
    if b.length < hashBlock alg then (c, b)
    else hashRun alg fuel (hashStep alg c (b.take (hashBlock alg))) (b.drop (hashBlock alg))

/-- More bytes are taken into a digest in progress. -/
def hashMore (alg : Nat) (chain pend data : List Byte) : List Byte × List Byte :=
  hashRun alg (pend.length + data.length) chain (pend ++ data)

/-- The padding after `total` bytes, with `pend` of them not yet in a block. -/
def hashPad (alg total pend : Nat) : List Byte :=
  if alg = 3 ∨ alg = 6 then
    let n := hashBlock alg - pend
    if n = 1 then [0x86] else [0x06] ++ List.replicate (n - 2) 0 ++ [0x80]
  else
    let field := if alg = 1 then 8 else 16
    let block := hashBlock alg
    let zeros := (2 * block - (pend + 1 + field)) % block
    [0x80] ++ List.replicate zeros 0 ++ (toBytes field (8 * total)).reverse

/-- The digest bytes of a final chaining state: SHA-2 words are big-endian, SHA-3 lanes little-endian. -/
def hashOut (alg : Nat) (c : List Byte) : List Byte :=
  let b := if alg = 3 ∨ alg = 6 then c
    else if alg = 1 then (List.range 8).flatMap (fun i => ((c.drop (4 * i)).take 4).reverse)
    else (List.range 8).flatMap (fun i => ((c.drop (8 * i)).take 8).reverse)
  b.take (hashLen alg)

/-- End a digest in progress. -/
def hashEnd (alg total : Nat) (chain pend : List Byte) : List Byte :=
  hashOut alg (hashMore alg chain pend (hashPad alg total pend.length)).1

/-- The digest of bytes. -/
def hash (alg : Nat) (b : List Byte) : List Byte :=
  let (c, p) := hashMore alg (hashInit alg) [] b
  hashEnd alg b.length c p

/-- SHA-256 of bytes. -/
def sha256 (b : List Byte) : List Byte := hash 1 b

/-- SHA-384 of bytes. -/
def sha384 (b : List Byte) : List Byte := hash 4 b

/-- A digest of 32 bytes as a value. -/
def digOf (b : List Byte) : Dig := BitVec.ofNat 256 (ofBytes b)

/-- The 32 bytes of a digest value. -/
def digBytes (d : Dig) : List Byte := toBytes 32 d.toNat

end Sys2Proof.Machine
end

