-- ==== Sys2Proof/Machine/Coalesce.lean ====
section
/-! DEFINITION. Coalesce: chunk IDs, chunk records, the fingerprint index, the owner table, the in-flight table and reference
counts (spec/08_coalesce_index.md, R194 to R212, R534). -/
namespace Sys2Proof.Machine
open Reg

/-! ### Tables and IDs (R194, R197) -/

/-- LOG. -/
def Head.cxLog (h : Head) : Nat := h.rd CX_CTL_LOG

/-- IDs below this may be allocated; 0 while Coalesce holds no tables (R534). -/
def Head.idLimit (h : Head) : Nat := if h.cxLog = 0 then 0 else min (2 ^ (h.cxLog + 3)) 0x1FFFFFFF00

/-- A pattern chunk ID (R183, R197). -/
def isPattern (id : Nat) : Bool := decide (0x1FFFFFFF00 ≤ id ∧ id ≤ 0x1FFFFFFFFF)

/-- The all-zero pattern chunk. -/
def zeroChunk : Nat := 0x1FFFFFFF00

/-- The address of a chunk record. -/
def Head.recAddr (h : Head) (id : Nat) : Nat := h.rd CX_RECBASE_BASE * 2 ^ 30 + 16 * id

/-- The address of an owner entry. -/
def Head.ownAddr (h : Head) (id : Nat) : Nat := h.rd CX_OWNBASE_BASE * 2 ^ 30 + 4 * id

/-- The address of slot `i` of a bucket. -/
def Head.idxAddr (h : Head) (bucket i : Nat) : Nat := h.rd CX_IDXBASE_BASE * 2 ^ 30 + 64 * bucket + 8 * i

/-- A chunk record; an ID without one, and any ID while Coalesce holds no tables (R534), reads as free. -/
def Head.chunkRec (h : Head) (id : Nat) : Nat := if 1 ≤ id ∧ id < h.idLimit then h.load (h.recAddr id) 16 else 0

/-! ### The chunk record (R200) -/

/-- STRIPE and OFFSET: the 48-bit location. -/
def rLoc (r : Nat) : Nat := bitsAt r 0 48
/-- STRIPE of a location. -/
def locStripe (l : Nat) : Nat := bitsAt l 0 31
/-- OFFSET of a location, in units. -/
def locOffset (l : Nat) : Nat := bitsAt l 31 17
/-- A location from its parts. -/
def mkLoc (stripe off : Nat) : Nat := stripe + 2 ^ 31 * off
/-- SLEN. -/
def rSlen (r : Nat) : Nat := bitsAt r 48 20
/-- COUNT. -/
def rCount (r : Nat) : Nat := bitsAt r 68 32
/-- PDIG. -/
def rPdig (r : Nat) : Nat := bitsAt r 100 2
/-- CALG. -/
def rCalg (r : Nat) : Nat := bitsAt r 104 2
/-- ALLOC. -/
def rAlloc (r : Nat) : Bool := bitAt r 106
/-- The 16 bytes with their CRC made right. -/
def recSeal (r : Nat) : Nat := r % 2 ^ 112 + (crc16 0xFFFF (toBytes 14 (r % 2 ^ 112))).toNat * 2 ^ 112
/-- The CRC of a record is right. -/
def recCrcOk (r : Nat) : Bool := recSeal r = r
/-- A record with another COUNT. -/
def recWithCount (r c : Nat) : Nat := recSeal (r - rCount r * 2 ^ 68 + c * 2 ^ 68)
/-- A record with another location. -/
def recWithLoc (r l : Nat) : Nat := recSeal (r - rLoc r + l)
/-- The bytes a stored chunk takes: SLEN rounded up to 64. -/
def stored (slen : Nat) : Nat := roundUp slen 64

/-- COUNT of a pinned chunk. -/
def pinned : Nat := 0xFFFFFFFF

/-! ### What this head may allocate (R197 to R199) -/

/-- The parities this head may allocate: its own, or both while the twin is declared failed. -/
def Head.idParities (h : Head) : List Nat := if h.pair.twinFailed then [0, 1] else [h.headId]

/-- IDs of a parity that can be allocated at all. -/
def Head.idsOf (h : Head) (p : Nat) : Nat := if p = 0 then (h.idLimit - 1) / 2 else h.idLimit / 2

/-- Allocatable IDs that are neither held nor pending. -/
def Head.idsFree (h : Head) : Nat :=
  (h.idParities.map (fun p =>
    let held := (if p = 0 then h.liveIds.1 else h.liveIds.2) + (h.pendingIds.filter (· % 2 = p)).length
      + (h.freedIds.filter (·.1 % 2 = p)).length
    h.idsOf p - held)).foldl (· + ·) 0

/-- CX_FREE, CX_LIVE and CX_INFL follow; ID_LOW is posted as CX_FREE falls below IDLOW (R199). -/
def Head.showIds (h : Head) : Head :=
  let n := h.idsFree
  let low := h.rd CX_IDLOW_IDLOW
  let h := ((h.wr CX_FREE_COUNT n).wr CX_LIVE_COUNT (h.liveIds.1 + h.liveIds.2)).wr CX_INFL_COUNT h.inflight.length
  let h := h.wr CX_INFLPEAK_PEAK (max (h.rd CX_INFLPEAK_PEAK) h.inflight.length)
  if h.cxLog = 0 then h
  else if low < n then { h with idLowPosted := false }
  else if n < low ∧ h.idLowPosted = false then
    (({ h with idLowPosted := true }).wr CX_ERR_IDLOW 1).post 5 0x0504 1 n low h.headId 0
  else h

/-- An ID is free: not allocated, not pending, and not waiting for the reads of R198. -/
def Head.idFree (h : Head) (id : Nat) : Bool :=
  decide (1 ≤ id ∧ id < h.idLimit) && ! rAlloc (h.chunkRec id) && ! h.pendingIds.contains id
    && ! h.freedIds.any (·.1 = id)

/-- The first free ID of a parity at or above a number, wrapping at the end; `fuel` bounds the search. -/
def Head.nextFree (h : Head) (p : Nat) : Nat → Nat → Option Nat
  | 0, _ => none
  | fuel + 1, i =>
    let id := if p = 0 then 2 * (i % h.idsOf 0) + 2 else 2 * (i % h.idsOf 1) + 1
    if h.idFree id then some id else h.nextFree p fuel (i + 1)

/-- A free ID is chosen (R197: which one is not defined: a free value picks it), none where no ID is left. -/
def Head.pickId (h : Head) : Option Nat × Head :=
  let (w, h) := h.draw
  let ps := h.idParities.filter (fun p => h.idsOf p ≠ 0)
  match ps[w.toNat % ps.length]? with
  | none => (none, h)
  | some p =>
    let fuel := h.liveIds.1 + h.liveIds.2 + h.pendingIds.length + h.freedIds.length + 1
    let try_ (p : Nat) := h.nextFree p fuel (w.toNat / 2)
    ((try_ p).or ((ps.filter (· ≠ p)).head?.bind try_), h)

/-- A read has completed as R76 counts it: its recipe has reached CPLT or ended; one that is held for software completes only with
its response. -/
def Head.readOver (h : Head) (w : Nat) (x : Work) : Bool :=
  match x.state with
  | .sending _ _ => ! h.fe.holds.any (fun s => s.2 = w)
  | _ => false

/-- The reads in flight at this head: their read epochs (R76, R226). -/
def Head.readEpochs (h : Head) : List Nat := h.works.filterMap (fun e => if h.readOver e.1 e.2 then none else e.2.readEpoch)

/-- This head's read floor. -/
def Head.ownFloor (h : Head) : Nat :=
  let after := if h.last = noEpoch then 0 else h.last + 1
  h.readEpochs.foldl min after

/-- The lower of the two floors: the twin's is taken as CMT_LAST + 1 until it arrives (R250), and plays no part once the twin is
declared failed. -/
def Head.pairFloor (h : Head) : Nat :=
  if h.pair.twinFailed then h.ownFloor
  else min h.ownFloor (h.fb.twinFloor.getD (if h.last = noEpoch then 0 else h.last + 1))

/-- IDs freed in epoch F return once no read with a read epoch below F is in flight at either head, nor can come to be: a twin whose
floor is F may still accept reads at F - 1 (R198, R76; assumption log 62, DEDUCED). -/
def Head.returnIds (h : Head) : Head :=
  let early (f : Nat) : Bool := ! h.pair.twinFailed && h.fb.twinFloor.any (fun t => decide (t ≤ f))
  ({ h with freedIds := h.freedIds.filter (fun e => decide (h.pairFloor < e.2) || early e.2) }).showIds

/-! ### The fingerprint index (R202 to R205) -/

/-- Bucket and tag of a digest in a domain. -/
def fpPlace (log : Nat) (d : List Byte) (k : Nat) : Nat × Nat :=
  let v := leAt d 0 8
  ((v ^^^ k) % 2 ^ log, bitsAt v 34 27)

/-- The chunk ID of an index entry. -/
def entryId (e : Nat) : Nat := bitsAt e 0 37
/-- The tag of an index entry. -/
def entryTag (e : Nat) : Nat := bitsAt e 37 27

/-- The value that a list of (key, epoch of the change, value before) gives for a key in the view of an epoch: the one before the
first later change. -/
def oldValue (l : List (Nat × Nat × Nat)) (s key : Nat) : Option Nat :=
  ((l.filter (fun e => e.1 = key && decide (s < e.2.1))).foldl (fun (b : Option (Nat × Nat)) e =>
    match b with
    | some x => if e.2.1 < x.1 then some e.2 else b
    | none => some e.2) none).map (·.2)

/-- A chunk record in the view of an epoch (R160, R239): the value before the first later change, else the current one. -/
def Head.recView (h : Head) (view : Option Nat) (id : Nat) : Nat :=
  (view.bind (fun s => oldValue h.fb.recOld s id)).getD (h.chunkRec id)

/-- A word of the index or the owner table in the view of an epoch (R160). -/
def Head.wordView (h : Head) (view : Option Nat) (a n : Nat) : Nat :=
  (view.bind (fun s => oldValue h.fb.wordOld s a)).getD (h.load a n)

/-- The entries of a bucket in a view, none for the current state. -/
def Head.bucketView (h : Head) (view : Option Nat) (b : Nat) : List Nat :=
  (List.range 8).map (fun i => h.wordView view (h.idxAddr b i) 8)

/-- The entries of a bucket. -/
def Head.bucket (h : Head) (b : Nat) : List Nat := h.bucketView none b

/-- The domain of an entry of a bucket, none where it is invisible (R204): empty, of a free chunk, or of a chunk whose owner
entry names another bucket. -/
def Head.entryDomain (h : Head) (view : Option Nat) (b e : Nat) : Option Nat :=
  let o := h.wordView view (h.ownAddr (entryId e)) 4
  if entryId e ≠ 0 ∧ rAlloc (h.recView view (entryId e)) ∧ o / 65536 = b % 65536 then some (o % 65536) else none

/-- The entries that match a lookup in a view (R160, R204). -/
def Head.matches_ (h : Head) (view : Option Nat) (b tag k : Nat) : List Nat :=
  (h.bucketView view b).filter (fun e => entryTag e = tag && h.entryDomain view b e = some k)

/-- The lines of a chunk's record from which no data can be read (R439). -/
def Head.badRec (h : Head) (id : Nat) : List Nat :=
  if 1 ≤ id ∧ id < h.idLimit then h.badLines (h.recAddr id) 16 else []

/-- The lines that a walk of a bucket reads and from which no data can be read (R439): the bucket's own, else those of the records
and the owner entries of its chunks. -/
def Head.badBucket (h : Head) (b : Nat) : List Nat :=
  match h.badLines (h.idxAddr b 0) 64 with
  | [] => ((h.bucket b).map entryId).flatMap (fun id => if id = 0 then [] else h.badRec id ++ h.badLines (h.ownAddr id) 4)
  | bad => bad

/-- The lines of LOOKUP.FP from which no data can be read. -/
def Head.badFp (h : Head) (d : List Byte) (k : Nat) : List Nat :=
  if h.cxLog = 0 then [] else (h.badBucket (fpPlace h.cxLog d k).1).eraseDups

/-- What LOOKUP.FP answers: its status, result and record. -/
structure FpAnswer where
  status : Nat
  result : Nat
  chunk : Nat
  pos : Nat
  record : Nat
  outcome : Nat
  deriving DecidableEq, Repr

/-- The 48 bytes of the answer (R161). -/
def FpAnswer.bytes (a : FpAnswer) : List Byte :=
  toBytes 48 (recOf [(0, 8, a.chunk), (8, 8, a.pos), (16, 16, a.record), (32, 1, a.outcome)])

/-- LOOKUP.FP for a unit of work in a view (R160, R161, R204, R205, R534). -/
def Head.lookupFp (h : Head) (view : Option Nat) (owner : Nat) (d : List Byte) (k skip : Nat) : FpAnswer × Head :=
  let fail (st : Nat) : FpAnswer := { status := st, result := 0, chunk := 0, pos := 0, record := 0, outcome := 0 }
  if h.cxLog = 0 then (fail rsBadParam, h)
  else
    let (b, tag) := fpPlace h.cxLog d k
    let pos := b + tag * 2 ^ 34
    let ms := h.matches_ view b tag k
    match ms[skip]? with
    | some e =>
      let id := entryId e
      ({ status := 0, result := ms.length, chunk := id, pos := pos, record := h.recView view id, outcome := 1 }, h)
    | none =>
      let outcome := if h.inflight.any (fun f => f.domain = k && f.digest = digOf d) then 2 else 0
      if 65536 ≤ h.inflight.length then (fail rsInflightFull, h)
      else
        match h.pickId with
        | (none, h) => (fail rsCapacity, h)
        | (some id, h) =>
          let h := { h with pendingIds := id :: h.pendingIds,
                            inflight := { digest := digOf d, domain := k, id := id, owner := owner } :: h.inflight }
          ({ status := 0, result := ms.length, chunk := id, pos := pos, record := 0, outcome := outcome }, h.showIds)

/-- Apply reaches the CHUNK_NEW of an ID: its in-flight entry goes, and it is pending no longer (R197, R205). -/
def Head.settleId (h : Head) (id : Nat) : Head :=
  ({ h with pendingIds := h.pendingIds.filter (· ≠ id), inflight := h.inflight.filter (fun e => e.id ≠ id) }).showIds

/-! ### Changing tables at apply -/

/-- An entry of a table changes: the next checkpoint's delta holds it (R248). -/
def Head.touch (h : Head) (table nsid key vepoch : Nat) : Head :=
  let t := (table, nsid, key, vepoch)
  if h.fb.touched.contains t then h else { h with fb := { h.fb with touched := t :: h.fb.touched } }

/-- A record changes in the apply of an epoch: the value before stays readable for reads of an earlier epoch (R76), and the
counts of allocated records follow. -/
def Head.setRec (h : Head) (epoch id v : Nat) : Head :=
  let old := h.chunkRec id
  let keep := h.readEpochs.any (· < epoch) && ! h.fb.recOld.any (fun e => e.1 = id && e.2.1 = epoch)
  let h := if keep then { h with fb := { h.fb with recOld := (id, epoch, old) :: h.fb.recOld } } else h
  let d (n : Nat) : Nat := if rAlloc v ∧ rAlloc old = false then n + 1 else if rAlloc old ∧ rAlloc v = false then n - 1 else n
  let live := if id % 2 = 0 then (d h.liveIds.1, h.liveIds.2) else (h.liveIds.1, d h.liveIds.2)
  (({ h with liveIds := live }).store (h.recAddr id) 16 v).touch 1 0 id 0

/-- Values that no read in flight refers to are forgotten. -/
def Head.dropOldRecs (h : Head) : Head :=
  { h with fb := { h.fb with recOld := h.fb.recOld.filter (fun e => h.readEpochs.any (· < e.2.1)),
                             wordOld := h.fb.wordOld.filter (fun e => h.readEpochs.any (· < e.2.1)) } }

/-- The slot an inserted entry takes (R207), and whether it evicts. -/
def Head.insertSlot (h : Head) (b id : Nat) : Nat × Bool :=
  let es := (h.bucket b).zipIdx
  match es.find? (fun p => entryId p.1 = id) with
  | some p => (p.2, false)
  | none =>
    match es.find? (fun p => (h.entryDomain none b p.1).isNone) with
    | some p => (p.2, false)
    | none =>
      let low := es.foldl (fun (m : Nat × Nat) p =>
        let c := rCount (h.chunkRec (entryId p.1))
        if c < m.1 then (c, p.2) else m) (2 ^ 32, 0)
      (low.2, true)

/-- A word of the index or the owner table changes in the apply of an epoch: the value before stays readable for reads of an
earlier epoch (R76, R160). -/
def Head.keepWord (h : Head) (epoch a n : Nat) : Head :=
  if h.readEpochs.any (· < epoch) && ! h.fb.wordOld.any (fun e => e.1 = a && e.2.1 = epoch) then
    { h with fb := { h.fb with wordOld := (a, epoch, h.load a n) :: h.fb.wordOld } }
  else h

/-- The first resident chunk of a bucket whose record fails its CRC (R201). -/
def Head.bucketRecBad (h : Head) (b : Nat) : Option Nat :=
  ((h.bucket b).map entryId).find? (fun id => h.chunkRec id ≠ 0 && ! recCrcOk (h.chunkRec id))

/-- An index entry is inserted (R207). -/
def Head.insertEntry (h : Head) (epoch id pos : Nat) : Head :=
  let b := bitsAt pos 0 34
  let (slot, evicts) := h.insertSlot b id
  let h := (if evicts then h.bump CX_EVICT_COUNT 1 else h).keepWord epoch (h.idxAddr b slot) 8
  (h.store (h.idxAddr b slot) 8 (id + bitsAt pos 34 27 * 2 ^ 37)).touch 3 0 (b * 8 + slot) 0

/-- A CHUNK_NEW may install its record (R206), given the key slot of its namespace. -/
def Head.newOk (h : Head) (id record pos : Nat) : Bool :=
  decide (1 ≤ id ∧ id < h.idLimit) && ! rAlloc (h.chunkRec id) && rCount record = 0 && rAlloc record
    && bitsAt record 107 5 = 0 && recCrcOk record && bitsAt pos h.cxLog (34 - h.cxLog) = 0 && pos < 2 ^ 61

/-- A chunk is installed: record, owner entry and index entry (R206). -/
def Head.installChunk (h : Head) (epoch id record pos k : Nat) : Head :=
  let b := bitsAt pos 0 34
  let h := h.setRec epoch id record
  let h := ((h.keepWord epoch (h.ownAddr id) 4).store (h.ownAddr id) 4 (k + (b % 65536) * 65536)).touch 2 0 id 0
  h.insertEntry epoch id pos

end Sys2Proof.Machine
end

