-- ==== Sys2Proof/Machine/Grants.lean ====
section
/-! DEFINITION. Grant windows (spec/04_terdan_programming_model.md, R94). -/
namespace Sys2Proof.Machine
open Reg

/-- What an access does to memory. -/
inductive AccessKind
  | load | store | fetch
  deriving DecidableEq, Repr

/-- Grant window `i` of a core permits an access of a kind to [a, a+n). -/
def Head.windowPermits (h : Head) (core i a n : Nat) (k : AccessKind) : Bool :=
  let size := h.rd ((CORE_GRANT_SIZE.nth i).ofCore core)
  let base := h.rd ((CORE_GRANT_BASE.nth i).ofCore core) * 2 ^ 20 / 2 ^ size * 2 ^ size
  let bit := match k with
    | .load => CORE_GRANT_R
    | .store => CORE_GRANT_W
    | .fetch => CORE_GRANT_X
  decide (20 ≤ size ∧ size ≤ 43) && h.is ((bit.nth i).ofCore core) && decide (base ≤ a ∧ a + n ≤ base + 2 ^ size)

/-- Bytes that lie in Billow below the reserved area (R446). -/
def inOpenBillow (a n : Nat) : Bool := inBillow a n && decide (a + n ≤ billowBase + billowSize - 2 ^ 21)

/-- An access at level S by its origin is permitted in DRAM by some window, and in Billow below the reserved area without one (R94,
R446). -/
def Head.granted (h : Head) (o : Origin) (a n : Nat) (k : AccessKind) : Bool :=
  match o with
  | .core c => inOpenBillow a n || (List.range 8).any (fun i => h.windowPermits c.val i a n k)
  | .engine .. => false
  | .service => inOpenBillow a n

end Sys2Proof.Machine
end

