-- ==== Sys2Proof/Machine/Terdan.lean ====
section
/-! DEFINITION. Terdan contexts: registers, exception entry and return, the end of a recipe context by an exception, engine
substitution, interrupts and dispatch (spec/04_terdan_programming_model.md, R86 to R108; spec/05_terdan_base_instructions.md,
R120, R133, R135). A context is named by a number: control core n by n, context x of engine e of cluster c by
32 + 8 × (9c + e) + x. -/
namespace Sys2Proof.Machine
open Reg

/-! ### Contexts -/

/-- The number of a context. -/
def ctxKey : Ctx → Nat
  | .core n => n.val
  | .stream c e x => 32 + 8 * (9 * c.val + e.val) + x.val

/-- A context of a stream engine. -/
def isStream (k : Nat) : Bool := decide (32 ≤ k)
/-- The cluster of a stream context. -/
def ctxCluster (k : Nat) : Nat := (k - 32) / 72
/-- The engine of a stream context. -/
def ctxEngine (k : Nat) : Nat := (k - 32) / 8 % 9
/-- The number of a context within its engine. -/
def ctxNumber (k : Nat) : Nat := (k - 32) % 8
/-- The local memory of a context's core (R92). -/
def ctxUnit (k : Nat) : Nat := if isStream k then 32 + (k - 32) / 8 else k

/-- What a context is before anything has changed it: control core 0 at level V in the boot ROM, which it runs from reset (R485), the
other control cores held in reset (CORE_RELEASE), a recipe context idle. -/
def ctxDefault (k : Nat) : Context :=
  if isStream k then Context.fresh .c .idle else if k = 0 then Context.fresh .v .running else Context.fresh .v .reset

/-- A context. -/
def Head.ctx (h : Head) (k : Nat) : Context := Tbl.get (ctxDefault k) h.ctxs k

/-- Replace a context. -/
def Head.setCtx (h : Head) (k : Nat) (c : Context) : Head := { h with ctxs := Tbl.set (ctxDefault k) h.ctxs k c }

/-- CXID (its field map). -/
def Head.cxid (h : Head) (k : Nat) : Nat :=
  if isStream k then ctxNumber k + 16 * ctxEngine k + 2 ^ 8 * ctxCluster k + 2 ^ 13 * h.headId + 2 ^ 15
  else 0xF0 + 2 ^ 8 * k + 2 ^ 13 * h.headId

/-- The code of a level in ST.LEVEL. -/
def levelCode : Level → Nat
  | .v => 0 | .s => 1 | .c => 2

/-- ST. -/
def Context.st (c : Context) : Word :=
  BitVec.ofNat 64 (levelCode c.level + 4 * c.ie.toNat + 8 * c.exls.toNat + 16 * c.exlv.toNat)

/-- A general register; g0 reads as zero (R118). -/
def Context.gr (c : Context) (i : Fin 32) : Word := if i.val = 0 then 0 else c.g[i.val]

/-- Write a general register; a write of g0 is discarded (R118). -/
def Context.setGr (c : Context) (i : Fin 32) (v : Word) : Context := if i.val = 0 then c else { c with g := c.g.set i.val v }

/-- A handle register. -/
def Context.hr (c : Context) (i : Fin 8) : Handle := c.h[i.val]

/-- Write a handle register. -/
def Context.setHr (c : Context) (i : Fin 8) (v : Handle) : Context := { c with h := c.h.set i.val v }

/-- The next instruction. -/
def Context.next (c : Context) : Context := { c with pc := c.pc + 4 }

/-! ### Exceptions on control cores (R96, R97) -/

def excIllegal : Nat := 1
def excPriv : Nat := 2
def excAlign : Nat := 3
def excAccess : Nat := 4
def excBusErr : Nat := 5
def excHandle : Nat := 6
def excSys : Nat := 7
def excBreak : Nat := 8
def excMchk : Nat := 9
def excIntr : Nat := 0x10

/-- What an exception reports beside its code: the faulting address, and whether the access was a store or a fetch. -/
structure ExcInfo where
  addr : Nat
  store : Bool
  fetch : Bool
  deriving DecidableEq, Repr

/-- No address. -/
def ExcInfo.none : ExcInfo := { addr := 0, store := false, fetch := false }

/-- The sources pending and unmasked at a core (R98). -/
def Head.pendingIrq (h : Head) (k : Nat) : Nat := h.rd (CORE_IPEND_PEND.ofCore k) &&& h.rd (CORE_IMASK_MASK.ofCore k)

/-- An exception register of a level (V, or S) at a core. -/
def excField (v : Bool) (k : Nat) (fv fs : Field) : Field := (if v then fv else fs).ofCore k

/-- What exception entry writes to the registers of its level (R96). -/
def excWrites (k : Nat) (v : Bool) (code epc st level irq : Nat) (x : ExcInfo) : List (Field × Nat) :=
  [(excField v k CORE_EPC_V_PC CORE_EPC_S_PC, epc), (excField v k CORE_EST_V_ST CORE_EST_S_ST, st),
   (excField v k CORE_ECAUSE_V_CODE CORE_ECAUSE_S_CODE, code), (excField v k CORE_ECAUSE_V_FROM CORE_ECAUSE_S_FROM, level),
   (excField v k CORE_ECAUSE_V_STORE CORE_ECAUSE_S_STORE, x.store.toNat),
   (excField v k CORE_ECAUSE_V_FETCH CORE_ECAUSE_S_FETCH, x.fetch.toNat),
   (excField v k CORE_ECAUSE_V_IRQ CORE_ECAUSE_S_IRQ, irq), (excField v k CORE_EADDR_V_ADDR CORE_EADDR_S_ADDR, x.addr)]

/-- The cause register's value for an exception taken from a context (the field map of CORE_ECAUSE). -/
def causeWord (code : Nat) (c : Context) (x : ExcInfo) (irq : Nat) : Nat :=
  code + 2 ^ 8 * levelCode c.level + 2 ^ 10 * x.store.toNat + 2 ^ 11 * x.fetch.toNat + 2 ^ 16 * irq

/-- The vector of an exception at a level (R96). -/
def Head.excVector (h : Head) (k code : Nat) (v : Bool) : Word :=
  BitVec.ofNat 64 (h.rd (excField v k CORE_VBASE_V_BASE CORE_VBASE_S_BASE) * 4096 + 64 * code)

/-- The level at which an exception is taken: V for SYS and MCHK, the current level otherwise (the table of ch. 04). -/
def excAtV (code : Nat) (c : Context) : Bool := code = excSys || code = excMchk || c.level = .v

/-- Exception entry (R96) on a control core: of an interrupt the cause holds the sources pending, masked or not. With EXLx set the core halts instead (R97). -/
def Head.enterExc (h : Head) (k code : Nat) (x : ExcInfo) : Head :=
  let c := h.ctx k
  let v := excAtV code c
  let irq := if code = excIntr then h.rd (CORE_IPEND_PEND.ofCore k) else 0
  let epc := if code = excSys then c.pc + 4 else c.pc
  if (if v then c.exlv else c.exls) then
    (h.setCtx k { c with run := .halted }).post 3 0x0304 3 k (causeWord code c x irq) c.pc.toNat c.st.toNat
  else
    (h.wrList (excWrites k v code epc.toNat c.st.toNat (levelCode c.level) irq x)).setCtx k
      { c with level := if v then .v else .s, ie := false, exls := c.exls || !v, exlv := c.exlv || v,
               pc := h.excVector k code v, run := .running }

/-- Exception return (R133): none where it raises ILLEGAL. -/
def Head.eret (h : Head) (k : Nat) : Option Context :=
  let c := h.ctx k
  let v : Bool := c.level = .v
  let st := h.rd (excField v k CORE_EST_V_ST CORE_EST_S_ST)
  let n := st % 4
  if (if v then c.exlv else c.exls) = false ∨ 2 ≤ n ∨ (v = false ∧ n = 0) then none
  else
    some { c with level := if n = 0 then .v else .s, ie := bitAt st 2, exls := bitAt st 3, exlv := bitAt st 4,
                  pc := BitVec.ofNat 64 (h.rd (excField v k CORE_EPC_V_PC CORE_EPC_S_PC) / 4 * 4) }

/-! ### The end of a recipe context (R99, R100, R149, R161) -/

/-- Chunk IDs and in-flight entries allocated to a unit of work are released (R161). -/
def Head.releaseAlloc (h : Head) (w : Nat) : Head :=
  let mine := (h.inflight.filter (fun e => e.owner = w)).map (·.id)
  ({ h with inflight := h.inflight.filter (fun e => e.owner ≠ w),
            pendingIds := h.pendingIds.filter (fun i => ¬ mine.contains i) }).showIds

/-- A context becomes free: its jobs are cancelled, its buffers but those kept are returned, its descriptors and slots
emptied. -/
def Head.freeCtx (h : Head) (k : Nat) (keep : List Nat) : Head :=
  let c := h.ctx k
  let h := { h with jobs := h.jobs.filter (fun e => e.2.owner ≠ k),
                    descTbl := h.descTbl.filter (fun e => ¬ c.descs.contains e.1) }
  (h.dropBufs (c.bufs.filter (fun b => ¬ keep.contains b))).setCtx k (Context.fresh .c .idle)

/-- An engine is marked failed (R102): causes 0 self-check, 1 MCHK, 2 memory. -/
def Head.failEngine (h : Head) (c e cause : Nat) : Head :=
  if h.failedEngines.any (fun f => f.1 = c && f.2.1 = e) then h
  else { h with failedEngines := h.failedEngines ++ [(c, e, cause)] }

/-- A recipe context ends by an exception (R99, R100): its jobs, buffers and descriptors go, and its allocations; RECIPE_EXC is
posted and the cluster's monitor core interrupted. The result names the job it was bound to. -/
def Head.endContext (h : Head) (k code : Nat) (x : ExcInfo) : Nat × Head :=
  let c := h.ctx k
  let w := c.work.getD 0
  let (nsid, opc) := match h.work w with
    | some y => (y.nsid, y.opc)
    | none => (0, 0)
  let h := (h.freeCtx k []).releaseAlloc w
  let h := h.post 3 0x0301 2 (code + 2 ^ 16 * h.cxid k) c.pc.toNat x.addr (nsid + 2 ^ 32 * opc)
  (w, h.raise (h.rd (CORE_CL_CTL_MON.nth (ctxCluster k))) 2)

/-- A recipe context ends by an exception other than MCHK (R99). -/
def Head.terminate (h : Head) (k code : Nat) (x : ExcInfo) : Head :=
  let (w, h) := h.endContext k code x
  h.abandon w rsRecipeFault

/-- An exception of any context but MCHK on a stream engine: entry on a control core, the end of a recipe context. -/
def Head.except (h : Head) (k code : Nat) (x : ExcInfo) : Head :=
  if isStream k then h.terminate k code x else h.enterExc k code x

/-! ### Fetching and starting an instruction -/

/-- Where a context may fetch (R12, R13, R93, R94): the exception its fetch raises, none where it may. At level S the top 2 MiB of
Billow give a bus error (R446), at both levels DRAM before its fill has ended (R430). -/
def Head.fetchFault (h : Head) (k : Nat) (c : Context) : Option Nat :=
  let a := c.pc.toNat
  let isLocal : Bool := localBase ≤ a && a + 4 ≤ localBase + 2 ^ 20
  let afterglow : Bool := afterglowBase ≤ a && a + 4 ≤ afterglowBase + 2 ^ 23
  let dram (may : Bool) : Option Nat :=
    if may = false then some excAccess else if h.is MEM_STS_FILLDONE then none else some excBusErr
  match c.level with
  | .c => if localBase ≤ a ∧ a + 4 ≤ localBase + 0x18000 then none else some excAccess
  | .s =>
    if isLocal ∨ afterglow then none
    else if inBillow a 4 then (if billowBase + billowSize - 2 ^ 21 < a + 4 then some excBusErr else none)
    else if a + 4 ≤ romSize then some excAccess
    else if h.inDram a 4 then dram (h.granted (.core (Fin.ofNat 32 k)) a 4 .fetch)
    else some excBusErr
  | .v =>
    if isLocal ∨ afterglow ∨ inBillow a 4 ∨ a + 4 ≤ romSize then none
    else if h.inDram a 4 then dram true else some excBusErr

/-- The line of a fetch from DRAM is accessed; the result says whether it could be delivered (R439). -/
def Head.fetchLine (h : Head) (c : Context) : Bool × Head :=
  if dramBase ≤ c.pc.toNat then h.touchLines 0 (linesOf c.pc.toNat 4) else (true, h)

/-- A context comes to its next instruction: only a running context executes; a control core with an interrupt to take takes it
first (R98, R132); a power-fail dump stops recipes (R278). -/
def Head.atInstr (h : Head) (x : Ctx) (f : Head → Nat → Context → Head) : Head :=
  let k := ctxKey x
  let c := h.ctx k
  if c.run ≠ .running ∨ (isStream k ∧ h.plt.stopped) then h
  else if isStream k = false ∧ c.ie ∧ h.pendingIrq k ≠ 0 then h.enterExc k excIntr .none
  else f h k c

/-- An instruction is fetched: the fetch may fault, or meet a line that cannot be read (R120). -/
def Head.fetched (h : Head) (k : Nat) (c : Context) (f : Head → Nat → Context → Head) : Head :=
  let fetch : ExcInfo := { addr := c.pc.toNat, store := false, fetch := true }
  match h.fetchFault k c, h.fetchLine c with
  | some e, _ => h.except k e fetch
  | none, (false, h) => h.except k excBusErr fetch
  | none, (true, h) => f h k c

/-- An instruction of a context: it is fetched, and a level without the privilege raises PRIV (R135, R173). -/
def Head.instr (h : Head) (x : Ctx) (may : Level → Bool) (f : Head → Nat → Context → Head) : Head :=
  h.atInstr x (fun h k c => h.fetched k c (fun h k c => if may c.level then f h k c else h.except k excPriv .none))

/-- Every level may execute it. -/
def anyLevel : Level → Bool := fun _ => true
/-- Only S and V may execute it. -/
def notC : Level → Bool := fun l => l ≠ .c
/-- Only C may execute it. -/
def onlyC : Level → Bool := fun l => l = .c

/-- Write a general register and go to the next instruction. -/
def Head.result (h : Head) (k : Nat) (c : Context) (rd : Fin 32) (v : Word) : Head := h.setCtx k (c.setGr rd v).next

/-! ### Interrupts (R98, R134) -/

/-- INTR is taken between two instructions; a control core that waits in EWAIT takes it too, EPC staying at the EWAIT. -/
def Head.takeInterrupt (h : Head) (k : Nat) : Head :=
  let c := h.ctx k
  let ready : Bool := match c.run with
    | .running | .epoch .. | .applied .. => true
    | _ => false
  if isStream k = false ∧ ready ∧ c.ie ∧ h.pendingIrq k ≠ 0 then h.enterExc k excIntr .none else h

/-- A stalled WFI ends once a source is pending (R134); with IE set the interrupt is taken. -/
def Head.wfiWake (h : Head) (k : Nat) : Head :=
  let c := h.ctx k
  if isStream k = false ∧ c.run = .interrupt ∧ h.pendingIrq k ≠ 0 then
    let h := h.setCtx k { c with run := .running }
    if c.ie then h.enterExc k excIntr .none else h
  else h

/-! ### Dispatch (R101, R103, R104, R106) -/

/-- A slot that matches, with its number and address: the lowest one whose CSET and OPC match and that is bound. -/
def Head.findSlot (h : Head) (row cset opc : Nat) : Option (Nat × Nat) :=
  let base := h.rd CORE_RTBASE_BASE * 64 + 512 * row
  ((List.range 16).map (fun i => (i, base + 32 * i))).find? (fun p =>
    h.load p.2 1 = cset && h.load (p.2 + 1) 1 = opc && h.load (p.2 + 2) 2 % 4 ≠ 0)

/-- The binding of a slot at a dispatch epoch (R103): library and entry index. -/
def Head.slotBinding (h : Head) (a d : Nat) : Option (Nat × Nat) :=
  let flags := h.load (a + 2) 2
  if bitAt flags 1 ∧ h.load (a + 16) 8 ≤ d then some (h.load (a + 12) 4, h.load (a + 10) 2)
  else if bitAt flags 0 then some (h.load (a + 4) 4, h.load (a + 8) 2)
  else none

/-- A cluster is ON. -/
def Head.clusterOn (h : Head) (c : Nat) : Bool := h.rd (CORE_CL_STS_STATE.nth c) = uOn

/-- The clusters that are ON. -/
def Head.onClusters (h : Head) : List Nat := (List.range 24).filter h.clusterOn

/-- A cluster holds a library. -/
def Head.holdsLib (h : Head) (c lib : Nat) : Bool := (Tbl.find h.libs c).any (fun l => l.libid = lib)

/-- The entry offset of an index in a loaded library. -/
def Head.libEntry (h : Head) (c index : Nat) : Option Nat :=
  (Tbl.find h.libs c).bind (fun l => (l.entries.find? (fun e => e.1 = index)).map (·.2))

/-- The engines of a cluster that take jobs: those active and not marked failed. -/
def Head.enginesOf (h : Head) (c : Nat) : List Nat :=
  (List.range 9).filter (fun e => bitAt (h.rd (CORE_CL_STS_ACTIVE.nth c)) e && ! h.failedEngines.any (fun f => f.1 = c && f.2.1 = e))

/-- The lowest-numbered free context of some clusters, on an engine that a budget class, where there is one, may still occupy (R47). -/
def Head.freeIn (h : Head) (cls : Option Nat) (cs : List Nat) : Option Nat :=
  cs.flatMap (fun c => ((h.enginesOf c).filter (fun e => cls.all (fun b => h.mayUse b (engineRes c e)))).flatMap (fun e =>
      (List.range 8).map (fun x => 32 + 8 * (9 * c + e) + x)))
    |>.find? (fun k => (h.ctx k).run = .idle)

/-- The ON clusters holding a library. -/
def Head.clustersOf (h : Head) (lib : Nat) : List Nat := h.onClusters.filter (fun c => h.holdsLib c lib)

/-- The lowest-numbered free context of ON clusters holding a library, on an active engine not marked failed. -/
def Head.freeContext (h : Head) (cls : Option Nat) (lib : Nat) : Option Nat := h.freeIn cls (h.clustersOf lib)

/-- The context for a job that runs again (R100): of the cluster that its first run left, while an engine remains there. -/
def Head.rerunContext (h : Head) (cls : Option Nat) (lib c : Nat) : Option Nat :=
  if (h.clustersOf lib).contains c ∧ h.enginesOf c ≠ [] then h.freeIn cls [c] else h.freeContext cls lib

/-- The dispatch block of a unit of work (R106). -/
def dispatchBlock (x : Work) (slot lib index : Nat) : List Byte :=
  let bg : Bool := x.qp.isNone
  let key := x.keyBytes ++ List.replicate (16 - x.keyBytes.length) 0
  toBytes 64 x.capsule.toNat ++ toBytes 24 (recOf [(0, 8, x.stamp), (8, 4, if bg then 0xFFFFFFFF else x.cseq), (12, 2, x.row),
    (14, 1, slot), (16, 4, lib), (20, 2, index)]) ++ key ++ toBytes (2048 - 104) x.keyBytes.length

/-- A recipe context starts (R106): the registers, the dispatch block, h0 and h1. -/
def Head.startRecipe (h : Head) (w k slot lib index arg entry : Nat) : Head :=
  match h.work w with
  | none => h
  | some x =>
    let n := ctxNumber k
    let block := 0x38000 + n * 0x800
    let b (v : Nat) : Word := BitVec.ofNat 64 v
    let c := Context.fresh .c .running
    let g := ((((((c.g.set 1 (b x.nsid)).set 2 (b (x.opc + 256 * x.cset))).set 3 (b x.len)).set 4 (b x.lba)).set 5
      (b (localBase + block))).set 6 (b arg)).set 30 (b (localBase + 0x23000 + n * 0x3000))
    let h := h.put (localKey (ctxUnit k) block) (dispatchBlock x slot lib index)
    let h0 := match x.cap with
      | some c => Handle.buffer c
      | none => .empty
    let (h1, ds, h) := if x.segs = [] then (Handle.empty, [], h)
      else (Handle.desc h.nextDesc, [h.nextDesc],
        { h with descTbl := Tbl.put h.descTbl h.nextDesc x.segs, nextDesc := h.nextDesc + 1 })
    let hs := (c.h.set 0 h0).set 1 h1
    let h := h.updWork w (fun x => { x with state := .running k })
    h.setCtx k { c with g := g, h := hs, pc := b (localBase + entry), work := some w, descs := ds }

/-- A job's capsule lies in a buffer (R106). Of a background job, and of a command whose first run has returned it (R100), one is
allocated at dispatch: the smallest that holds 64 bytes, of the job's requester class, 2 for a background job (R444). The spec names
neither the pool nor what h0 holds when none is free: it is left empty (assumption log 67, DESIGN CHOICE). -/
def Head.capsuleBuffer (h : Head) (w : Nat) (x : Work) : Head :=
  if x.cap.isSome then h else
    match (h.poolFor 64).map (fun p => h.allocIn p (if x.qp.isSome then 0 else 2)) with
    | some (.buffer b, h) =>
      ((h.put (h.bufAddr b) (toBytes 64 x.capsule.toNat)).setLen b 64).updWork w (fun x => { x with cap := some b })
    | _ => h

/-- What the dispatch of a job binds in the recipe table at a dispatch epoch (R103): none where no slot matches, none within where
the slot yields no binding. -/
def Head.bindJob (h : Head) (x : Work) (d : Nat) : Option (Option Binding) :=
  (h.findSlot x.row x.cset x.opc).map (fun s =>
    (h.slotBinding s.2 d).map (fun b => { slot := s.1, lib := b.1, index := b.2, arg := h.load (s.2 + 24) 8 }))

/-- A job that finds no recipe (R104): a command completes, with recipe status NO_RECIPE unless no slot matches; a background job is
dropped with RECIPE_MISSING, whose parameter 1 holds CSET in bits 7:0 and OPC above it (assumption log 67, DESIGN CHOICE). -/
def Head.noRecipe (h : Head) (w : Nat) (x : Work) (slot : Bool) (lib d : Nat) : Head :=
  if x.qp.isNone then (h.abandon w rsNoRecipe).post 3 0x0305 1 x.row (x.cset + 256 * x.opc) lib d
  else if slot then (h.updWork w (fun x => { x with rstatus := rsNoRecipe })).deliverNvme w (nvmeStatus 0 0x82 false)
  else h.deliverNvme w (nvmeStatus 0 1 false)

/-- A bound job is started on a context; one that runs again after MCHK is told by MCHK_RETRY, whose CSEQ is 0xFFFFFFFF for a background
job (R100, R116; assumption log 75, DESIGN CHOICE). -/
def Head.beginRun (h : Head) (w : Nat) (x : Work) (b : Binding) (k entry : Nat) : Head :=
  let h := (h.capsuleBuffer w x).updWork w (fun x => { x with bound := some b })
  let h := h.startRecipe w k b.slot b.lib b.index b.arg entry
  match x.left with
  | none => h
  | some c => h.post 3 0x0307 1 (h.cxid c) (h.cxid k) (if x.qp.isNone then 0xFFFFFFFF else x.cseq) x.stamp

/-- RECIPE_DISPATCH (R103, R104): the job of a unit of work that waits for dispatch is bound and started on a free context, or
completes with the status of R104; with no cluster ON, or no free context, it waits (R101), as
a background job does whose class may occupy no engine (R47). A background job without a binding
is dropped with RECIPE_MISSING. A job that runs again keeps what its first dispatch bound, and its dispatch epoch (R100). -/
def Head.dispatch (h : Head) (w : Nat) : Head :=
  match h.work w with
  | none => h
  | some x =>
    if x.state ≠ .ready ∨ h.onClusters = [] ∨ h.plt.stopped then h
    else
      let again : Option Binding := if x.left.isSome then x.bound else none
      let d := if x.qp.isNone ∧ again.isNone then h.epoch else x.stamp
      let h := h.updWork w (fun x => { x with stamp := d })
      match (match again with | some b => some (some b) | none => h.bindJob x d) with
      | none => h.noRecipe w x false 0 d
      | some none => h.noRecipe w x true 0 d
      | some (some b) =>
        match h.onClusters.find? (fun c => h.holdsLib c b.lib) with
        | none => h.noRecipe w x true b.lib d
        | some c =>
          let free := match x.left with
            | none => h.freeContext x.budget b.lib
            | some k => h.rerunContext x.budget b.lib (ctxCluster k)
          match h.libEntry c b.index, free with
          | none, _ => h.noRecipe w x true b.lib d
          | some _, none => h
          | some entry, some k => h.beginRun w { x with stamp := d } b k entry

/-- MCHK (R100): a control core takes it. A recipe context ends as under R99, its in-flight entries go, its engine is marked failed,
and the job is dispatched once more on another engine, from its original dispatch state; a second MCHK ends the command with
RECIPE_FAULT. -/
def Head.machineCheck (h : Head) (k cause : Nat) (info : ExcInfo) : Head :=
  if isStream k = false then h.enterExc k excMchk info
  else
    let (w, h) := h.endContext k excMchk info
    let h := h.failEngine (ctxCluster k) (ctxEngine k) cause
    match h.work w with
    | none => h
    | some x =>
      if x.left.isSome then h.abandon w rsRecipeFault
      else (h.updWork w (fun y => { y with left := some k, state := .ready })).dispatch w

/-! ### Spare engines (R102) -/

/-- At an epoch's first tick a failed engine is retired, and the spare, if one remains, becomes active with the cluster's
library; a cluster with no active engine is moved to STOPPING. Parameter 2 of ENGINE_LOST is how many engines are still active, not which (assumption
log 67, DESIGN CHOICE). -/
def Head.spareEngine (h : Head) (f : Nat × Nat × Nat) : Head :=
  let (c, e, cause) := f
  let act := CORE_CL_STS_ACTIVE.nth c
  let h := (h.wrBit act e false).wrBit (CORE_CL_STS_RETIRED.nth c) e true
  let h := h.logRetired (.engine c e)
  let spare := (List.range 9).find? (fun s => ! bitAt (h.rd act) s && ! bitAt (h.rd (CORE_CL_STS_RETIRED.nth c)) s)
  match spare with
  | some s =>
    let lib := match Tbl.find h.libs c with
      | some l => l.code ++ List.replicate (0x18000 - l.code.length) 0 ++ l.rodata
      | none => []
    ((h.wrBit act s true).put (localKey (32 + 9 * c + s) 0) lib).post 3 0x0302 1 c e s cause
  | none =>
    let h := h.post 3 0x0303 2 c e (popN 9 (h.rd act)) cause
    if h.rd act = 0 then (h.unitFailed (.cluster (Fin.ofNat 24 c))).1 else h

/-- Every engine marked failed before this epoch is replaced. -/
def Head.spareEngines (h : Head) : Head :=
  let fs := h.failedEngines
  fs.foldl Head.spareEngine { h with failedEngines := [] }

end Sys2Proof.Machine
end

