-- ==== Sys2Proof/Machine/Veil.lean ====
section
/-! DEFINITION. The Veil caches (spec/16_memory.md, R447 to R453). Memory shows what every access observes (R447); an entry
keeps, under its dirty lines, what DRAM itself still holds. A version of a metadata page is named by its key and epoch in place of an
address, for where in the pool it lies is the controller's own (assumption log 71, DESIGN CHOICE). -/
namespace Sys2Proof.Machine
open Reg

/-- The key of entry `e` of cache `n`. -/
def veilKey (n e : Nat) : Nat := n * 64 + e

/-- An entry of a cache. -/
def Head.veil (h : Head) (n e : Nat) : VeilEntry := Tbl.get VeilEntry.none h.veilEntries (veilKey n e)

/-- Replace an entry; VEIL_Cn_STS.DIRTY and FILLS follow. -/
def Head.setVeil (h : Head) (n e : Nat) (x : VeilEntry) : Head :=
  let h := { h with veilEntries := Tbl.set VeilEntry.none h.veilEntries (veilKey n e) x }
  let es := (List.range 48).map (h.veil n)
  (h.wr (VEIL_C_STS_DIRTY.nth n) (es.filter (·.dirty ≠ 0)).length).wr (VEIL_C_STS_FILLS.nth n)
    (es.filter (·.filling)).length

/-- The page lies in the page pool (R447). -/
def Head.inPagePool (h : Head) (a : Nat) : Bool :=
  let b := h.rd FB_MPBASE_BASE * 2 ^ 30
  b ≤ a && a < b + h.rd FB_MPSIZE_GIB * 2 ^ 30

/-- The entry that holds a page (R449). -/
def Head.veilHit (h : Head) (n page : Nat) : Option Nat :=
  (List.range 48).find? (fun e => (h.veil n e).page = page && ((h.veil n e).valid ≠ 0 || (h.veil n e).filling))

/-- Write back an entry's dirty lines (R449, R453). -/
def Head.veilCleanEntry (h : Head) (n e : Nat) : Head :=
  h.setVeil n e { h.veil n e with dirty := 0, under := [], old := none }

/-- What stands for the address of a version of a metadata page: no address of memory. -/
def versionPage (v : Nat × Nat) : Nat := ((v.1 + 1) * 2 ^ 64 + v.2) * 4096

/-- The version that a page stands for, none where it is an address. -/
def pageVersion (page : Nat) : Option (Nat × Nat) :=
  let q := page / 4096
  if q < 2 ^ 64 then none else some (q / 2 ^ 64 - 1, q % 2 ^ 64)

/-- The entries of a version. -/
def Head.versionEntries (h : Head) (v : Nat × Nat) : Option (List (Nat × PageSlot)) :=
  ((Tbl.get [] h.pages v.1).find? (fun x => x.epoch = v.2)).map (·.entries)

/-- A version takes its older entries again. -/
def Head.restoreVersion (h : Head) (page : Nat) (old : Option (List (Nat × PageSlot))) : Head :=
  match pageVersion page, old with
  | some v, some l => { h with pages := Tbl.upd h.pages v.1 (fun vs => vs.map (fun x => if x.epoch = v.2 then { x with entries := l } else x)) }
  | _, _ => h

/-- Drop an entry: its dirty lines are lost, so memory shows what DRAM holds under them (R453, the caution). -/
def Head.veilDiscard (h : Head) (n e : Nat) : Head :=
  let x := h.veil n e
  let mem := x.under.foldl (fun m (u : Nat × List Byte) => Memory.writeAll m (x.page + 64 * u.1) u.2) h.mem
  let h := { h with mem := mem }
  (h.restoreVersion x.page x.old).setVeil n e VeilEntry.none

/-- Clean and drop an entry. -/
def Head.veilDrop (h : Head) (n e : Nat) : Head := (h.veilCleanEntry n e).setVeil n e VeilEntry.none

/-- The entries a class may allocate: its mask, without retired ones (R449). -/
def Head.veilAllowed (h : Head) (n k : Nat) : List Nat :=
  (List.range 48).filter (fun e => bitAt (h.rd (VEIL_C_MASK_MASK.el n k 0)) e && ¬ bitAt (h.rd (VEIL_C_RET_RETIRED.nth n)) e)

/-- The entry a miss of a class takes (R449): the first invalid allowed one, else the least recently used. -/
def Head.veilVictim (h : Head) (n k : Nat) : Option Nat :=
  let es := h.veilAllowed n k
  match es.find? (fun e => (h.veil n e).valid = 0 && (h.veil n e).filling = false) with
  | some e => some e
  | none => (es.filter (fun e => (h.veil n e).filling = false)).foldl (fun b e =>
      match b with
      | none => some e
      | some c => if (h.veil n e).used < (h.veil n c).used then some e else some c) none

/-- Every other cache's copy of a line is invalidated before a cache writes it; a dirty holder writes it back (R447). -/
def Head.veilInvalidateOthers (h : Head) (n page line : Nat) : Head :=
  (List.range 28).foldl (fun h c =>
    if c = n then h else
      match h.veilHit c page with
      | none => h
      | some e =>
        let x := h.veil c e
        h.setVeil c e { x with valid := x.valid &&& ~~~(1#64 <<< line), dirty := x.dirty &&& ~~~(1#64 <<< line),
                               under := x.under.filter (fun u => u.1 ≠ line) }) h

/-- A line of an entry is used: a write makes it dirty, with what was there before the first one kept. -/
def Head.veilUse (h : Head) (n e line : Nat) (write : Bool) : Head :=
  let x := { h.veil n e with used := h.veilClock }
  let x := { x with valid := x.valid ||| (1#64 <<< line) }
  if write = false then h.setVeil n e x
  else
    let x := match pageVersion x.page with
      | some v => { x with old := if x.dirty = 0 then h.versionEntries v else x.old }
      | none =>
        { x with under := if x.dirty.getLsbD line then x.under else (line, h.bytes (x.page + 64 * line) 64) :: x.under }
    h.setVeil n e { x with dirty := x.dirty ||| (1#64 <<< line) }

/-- One access to a line of a page through a cache (R447 to R450): a line an entry holds is a hit, and marks the entry used; any other is
a miss, which joins the entry that holds or fills the page, or else, on an ON cache, takes a fill slot, of which there are 8; in every
other state and for a class without an allocatable entry it is served uncached. -/
def Head.veilTouch (h : Head) (n k page line : Nat) (write : Bool) : Head :=
  let state := h.rd (VEIL_C_STS_STATE.nth n)
  let h := if write then h.veilInvalidateOthers n page line else h
  let h := { h with veilClock := h.veilClock + 1 }
  if state ≠ 2 ∧ state ≠ 3 then h
  else
    match h.veilHit n page with
    | some e =>
      let hit := (h.veil n e).valid.getLsbD line
      (h.bump (if hit then VEIL_C_CNT_HITS.nth n else VEIL_C_CNT_MISSES.nth n) 1).veilUse n e line write
    | none =>
      let h := h.bump (VEIL_C_CNT_MISSES.nth n) 1
      if state = 3 ∨ 8 ≤ h.rd (VEIL_C_STS_FILLS.nth n) then h
      else
        match h.veilVictim n k with
        | none => h
        | some e =>
          let h := h.veilCleanEntry n e
          let y := h.veil n e
          (h.setVeil n e { VeilEntry.none with page := page, filling := true, count := y.count, start := y.start }).veilUse n e line write

/-- An access of memory through a cache, which caches the page pool only (R447). -/
def Head.veilAccess (h : Head) (n k a : Nat) (write : Bool) : Head :=
  if h.inPagePool a then h.veilTouch n k (a / 4096 * 4096) (a % 4096 / 64) write else h

/-- Versions of metadata pages are used through a cache, each counting as one access to its first line (assumption log 71, DESIGN CHOICE). -/
def Head.veilPages (h : Head) (n k : Nat) (write : Bool) (vs : List (Nat × Nat)) : Head :=
  vs.foldl (fun (h : Head) v => h.veilTouch n k (versionPage v) 0 write) h

/-- The entries that hold a page, in any cache. -/
def Head.veilHolders (h : Head) (page : Nat) : List (Nat × Nat) :=
  (h.veilEntries.filter (fun x => x.2.page = page && (x.2.valid ≠ 0 || x.2.filling))).map (fun x => (x.1 / 64, x.1 % 64))

/-- A version leaves the pool, or is another: no cache holds it. -/
def Head.veilForget (h : Head) (v : Nat × Nat) : Head :=
  (h.veilHolders (versionPage v)).foldl (fun (h : Head) p => h.setVeil p.1 p.2 VeilEntry.none) h

/-- A version changed in place keeps the entries that hold it. -/
def Head.veilRename (h : Head) (v w : Nat × Nat) : Head :=
  (h.veilHolders (versionPage v)).foldl (fun (h : Head) p =>
    h.setVeil p.1 p.2 { h.veil p.1 p.2 with page := versionPage w, old := if v = w then (h.veil p.1 p.2).old else none }) h

/-- An agent that passes the caches by reads or writes bytes of the page pool (R447): dirty lines of them are written back first, and a
write leaves no copy. -/
def Head.veilBypass (h : Head) (a n : Nat) (write : Bool) : Head :=
  if h.veilEntries = [] ∨ n = 0 then h
  else
    h.veilEntries.foldl (fun (h : Head) x =>
      let y := h.veil (x.1 / 64) (x.1 % 64)
      let mine := (List.range 64).filter (fun i => decide (a < y.page + 64 * i + 64 ∧ y.page + 64 * i < a + n))
      if mine = [] then h
      else
        let bits : BitVec 64 := mine.foldl (fun b i => b ||| (1#64 <<< i)) 0
        h.setVeil (x.1 / 64) (x.1 % 64)
          { y with dirty := y.dirty &&& ~~~bits, valid := if write then y.valid &&& ~~~bits else y.valid,
                   under := y.under.filter (fun u => ! mine.contains u.1) }) h

/-- A read of memory by a unit, past the caches: none where it completes with a bus error (R430) or meets an uncorrectable line
(R439). -/
def Head.dmaRead (h : Head) (a n who : Nat) : Option (List Byte) × Head :=
  if h.dramAnswers a then (h.veilBypass a n false).readMem a n who else (none, h)

/-- A write of memory by a unit, past the caches; it fails where it completes with a bus error (R430) or meets an uncorrectable
line. -/
def Head.dmaWrite (h : Head) (a who : Nat) (b : List Byte) : Bool × Head :=
  if h.dramAnswers a then (h.veilBypass a b.length true).writeMem a who b else (false, h)

/-- A page fill completes and releases its slot (R450). -/
def Head.veilFillComplete (h : Head) (n e : Nat) : Head :=
  let x := h.veil n e
  if x.filling then h.setVeil n e { x with filling := false, valid := BitVec.allOnes 64 } else h

/-- VEIL_ENTRY_RETIRED (R451): written back, invalidated, and marked in VEIL_Cn_RET and the configuration record. A dirty
line lost to an uncorrectable error is poisoned in DRAM, and VEIL_UNCORR posted. The counts of both records: assumption log 75, DESIGN CHOICE. -/
def Head.veilRetire (h : Head) (n e : Nat) (unc : Bool) (line : Nat) : Head :=
  let x := h.veil n e
  let lost := unc && x.dirty.getLsbD line
  let h := if lost then (h.poisonLine (lineOf (x.page + 64 * line))).wr VEIL_ERR_UNC 1 else h
  let h := h.veilDrop n e
  let h := h.wrBit (VEIL_C_RET_RETIRED.nth n) e true
  let left := ((List.range 48).filter (fun i => ¬ bitAt (h.rd (VEIL_C_RET_RETIRED.nth n)) i)).length
  let h := h.logRetired (.veil n e)
  let h := h.post 10 0x0A08 1 n e unc.toNat left
  if lost then h.post 10 0x0A09 2 n e x.page 1 else h

/-- An error the code of an entry reports at an access (R451): three corrections within 2^20 epochs, or one uncorrectable,
retire the entry. -/
def Head.veilError (h : Head) (n e line : Nat) (soft : Soft) : Head :=
  match soft with
  | .clean => h
  | .uncorrectable => h.veilRetire n e true line
  | .corrected _ =>
    let x := h.veil n e
    let fresh := x.count = 0 || x.start + 2 ^ 20 ≤ h.epoch
    let x := if fresh then { x with count := 1, start := h.epoch } else { x with count := x.count + 1 }
    let h := h.setVeil n e x
    if 3 ≤ x.count then h.veilRetire n e false line else h

/-- A cache starts: every entry is invalidated (R452). -/
def Head.veilStart (h : Head) (n : Nat) : Head :=
  (List.range 48).foldl (fun h e => h.setVeil n e VeilEntry.none) h

/-- A cache's stop completes once no entry is dirty: the write-back engine has cleaned every one, and all are invalidated
(R452). -/
def Head.veilStop (h : Head) (n : Nat) : Head :=
  (List.range 48).foldl (fun h e => h.veilDrop n e) h

/-- What a VEIL_OP value names: the caches and, in each, the entry (R453). -/
def Head.veilTargets (h : Head) (v : Nat) : List (Nat × Nat) :=
  let caches := if bitAt v 3 then List.range 28 else [bitsAt v 4 5]
  caches.filterMap (fun n =>
    if 28 ≤ n then none
    else if bitAt v 2 then (if bitsAt v 10 6 < 48 then some (n, bitsAt v 10 6) else none)
    else (h.veilHit n (h.rd VEIL_OPADDR_PAGE * 4096)).map (fun e => (n, e)))

/-- VEIL_OP (R453): the write is kept, BUSY is set and the operation applied; a write while BUSY is 1, with an operation of 0
or a field out of range is ignored and sets CFGERR. -/
def Head.veilOp (h : Head) (level : Level) (v : Nat) : Head :=
  let op := bitsAt v 0 2
  if h.is VEIL_OP_BUSY ∨ op = 0 ∨ (bitAt v 3 = false ∧ 28 ≤ bitsAt v 4 5) ∨ (bitAt v 2 ∧ 48 ≤ bitsAt v 10 6) then
    h.wr VEIL_ERR_CFGERR 1
  else
    let h := [VEIL_OP_OP, VEIL_OP_BY, VEIL_OP_ALL, VEIL_OP_CACHE, VEIL_OP_INDEX].foldl
      (fun h f => h.wr f (bitsAt v f.lo f.width)) h
    let h := h.wr VEIL_OP_BUSY 1
    (h.veilTargets v).foldl (fun h (n, e) =>
      let h := h.veilFillComplete n e
      if op = 1 then h.veilCleanEntry n e
      else if op = 2 ∧ level = .v then h.veilDiscard n e
      else h.veilDrop n e) h

/-- A maintenance operation completes (R453). -/
def Head.veilOpDone (h : Head) : Head := h.wr VEIL_OP_BUSY 0

end Sys2Proof.Machine
end

