-- ==== Sys2Proof/Machine/CoreMem.lean ====
section
/-! DEFINITION. What a Terdan context reaches by address and by handle, short of the register blocks (spec/01_architecture.md,
R12, R13; spec/04_terdan_programming_model.md, R89 to R95; spec/05_terdan_base_instructions.md, R126). -/
namespace Sys2Proof.Machine
open Reg

/-! ### Addresses -/

/-- Where an access of a context to [a, a+n) goes: bytes of memory at a key, a register block, the Afterglow window, the boot
ROM, or an exception. -/
inductive Place
  | mem (key : Nat)
  | reg
  | afterglow
  | rom
  | bad (code : Nat)
  deriving DecidableEq, Repr

/-- An access at level C within local memory (R92, R93). -/
def localPlaceC (k off n : Nat) (store : Bool) : Place :=
  let area := 0x20000 + ctxNumber k * 0x3000
  let block := 0x38000 + ctxNumber k * 0x800
  let own : Bool := area ≤ off && off + n ≤ area + 0x3000
  let readable : Bool := (0x18000 ≤ off && off + n ≤ 0x20000) || (block ≤ off && off + n ≤ block + 0x800)
  if own || (readable && ! store) then .mem (localKey (ctxUnit k) off) else .bad excAccess

/-- An access to the register blocks (R12). -/
def inRegs (a n : Nat) : Bool := regBase ≤ a && a + n ≤ billowBase

/-- Where an access goes (R12, R13, R92 to R94): a level too low for a region raises ACCESS, an address outside every region or
above installed DRAM a bus error, and so does DRAM before its fill has ended (R430). At level S the top 2 MiB of Billow give a bus
error (R446). The spec gives a store to the boot ROM at level V no outcome: it completes with a bus error (assumption log 74,
DESIGN CHOICE). -/
def Head.place (h : Head) (k : Nat) (c : Context) (a n : Nat) (store : Bool) : Place :=
  let isLocal : Bool := localBase ≤ a && a + n ≤ localBase + 2 ^ 20
  if inRegs a n then .reg
  else
    match c.level with
    | .c => if isLocal then localPlaceC k (a - localBase) n store else .bad excAccess
    | l =>
      if isLocal then .mem (localKey (ctxUnit k) (a - localBase))
      else if a + n ≤ romSize then (if l = .v then (if store then .bad excBusErr else .rom) else .bad excAccess)
      else if inBillow a n then
        (if l = .s ∧ billowBase + billowSize - 2 ^ 21 < a + n then .bad excBusErr else .mem a)
      else if afterglowBase ≤ a ∧ a + n ≤ afterglowBase + 2 ^ 23 then (if store then .bad excBusErr else .afterglow)
      else if h.inDram a n then
        (if l = .s ∧ h.granted (.core (Fin.ofNat 32 k)) a n (if store then .store else .load) = false then .bad excAccess
         else if h.is MEM_STS_FILLDONE then .mem a else .bad excBusErr)
      else .bad excBusErr

/-- What the code reports at a line that the context's cache holds is the entry's (R451): a clean line is fetched again from DRAM, and of a
dirty one that is lost the line of DRAM is poison. -/
def Head.veilCheck (h : Head) (k key : Nat) (soft : Soft) : Soft × Head :=
  if isStream k ∨ soft = .clean then (soft, h)
  else
    match h.veilHit (24 + k / 8) (key / 4096 * 4096) with
    | some e => (.clean, h.veilError (24 + k / 8) e (key % 4096 / 64) soft)
    | none => (soft, h)

/-- Memory of a context is read: what the code reports beside the line itself decides between the bytes, BUSERR and, for local
memory, MCHK. -/
def Head.loadKey (h : Head) (k key n : Nat) (soft : Soft) : Except Nat (List Byte) × Head :=
  if dramBase ≤ key ∧ key < 2 ^ 48 then
    let h := if isStream k then h else h.veilAccess (24 + k / 8) 2 key false
    let (soft, h) := h.veilCheck k key soft
    let (ok, h) := match soft with
      | .clean => (true, h)
      | s => h.touchLine (lineOf key) 0 s
    match h.readMem key n 0 with
    | (some b, h) => (if ok then .ok b else .error excBusErr, h)
    | (none, h) => (.error excBusErr, h)
  else if soft = .uncorrectable then (.error (if key < 2 ^ 48 then excBusErr else excMchk), h)
  else (.ok (h.bytes key n), h)

/-- Memory of a context is written. -/
def Head.storeKey (h : Head) (k key : Nat) (b : List Byte) : Option Nat × Head :=
  if dramBase ≤ key ∧ key < 2 ^ 48 then
    let h := if isStream k then h else h.veilAccess (24 + k / 8) 2 key true
    match h.writeMem key 0 b with
    | (true, h) => (none, h)
    | (false, h) => (some excBusErr, h)
  else (none, h.put key b)

/-! ### Handles (R89, R126) -/

/-- The members of what a handle names, none for the empty handle. -/
def Head.segsOfHandle (h : Head) : Handle → Option (List Seg)
  | .empty => none
  | .buffer b => some [{ buf := b, off := 0, len := h.lenOf b }]
  | .desc d => Tbl.find h.descTbl d

/-- LENGTH of a handle; zero for the empty handle. -/
def Head.handleLen (h : Head) (x : Handle) : Nat := segLen ((h.segsOfHandle x).getD [])

/-- The address of bytes [off, off+n) of a handle, none where they lie in two members. -/
def Head.segAddr (h : Head) (off n : Nat) : List Seg → Option Nat
  | [] => none
  | s :: t =>
    if s.len ≤ off then h.segAddr (off - s.len) n t
    else if off + n ≤ s.len then some (h.bufAddr s.buf + s.off + off) else none

/-- The address an HLDx or HSTx of `n` bytes at an offset reaches, or the exception it raises (R120, R126): HANDLE, then ALIGN,
then ACCESS, and BUSERR where the buffer lies in DRAM that is not installed or not filled (R13, R430). -/
def Head.handleAddr (h : Head) (x : Handle) (off n : Nat) : Except Nat Nat :=
  match h.segsOfHandle x with
  | none => .error excHandle
  | some ss =>
    if off % n ≠ 0 then .error excAlign
    else if segLen ss < off + n then .error excAccess
    else
      match h.segAddr off n ss with
      | some a => if dramBase ≤ a ∧ ¬ (h.inDram a n ∧ h.is MEM_STS_FILLDONE) then .error excBusErr else .ok a
      | none => .error excAlign

/-- The byte at an address lies in a buffer that a handle names. -/
def Head.handleHolds (h : Head) (x : Handle) (a : Nat) : Bool :=
  ((h.segsOfHandle x).getD []).any (fun s => h.bufAddr s.buf ≤ a && a < h.bufAddr s.buf + poolSize (bufPool s.buf))

/-- A job whose ticket has not been waited for has the byte at an address in its output, or in its input too (R127). -/
def Head.jobHolds (h : Head) (j : Job) (input : Bool) (a : Nat) : Bool :=
  h.handleHolds j.outp a || (input && h.handleHolds j.inp a)

/-- Ranges of bytes take free values (R127). -/
def Head.freshen (h : Head) : List (Nat × Nat) → Head
  | [] => h
  | (a, n) :: t => let (b, h) := h.drawBytes n; (h.put a b).freshen t

/-- The bytes of an HSTx to `a`: free where a job that has not been waited for uses the buffer (R127), which the job notes. -/
def Head.touchJobs (h : Head) (a : Nat) (b : List Byte) : List Byte × Head :=
  if h.jobs.any (fun e => h.jobHolds e.2 true a) then
    let jobs := h.jobs.map (fun e =>
      (e.1, if h.jobHolds e.2 true a then { e.2 with touched := (a, b.length) :: e.2.touched } else e.2))
    ({ h with jobs := jobs }).drawBytes b.length
  else (b, h)

/-- All the bytes of a range of a handle. -/
def Head.handleBytes (h : Head) (x : Handle) (off n : Nat) : List Byte := h.getSegs off n ((h.segsOfHandle x).getD [])

/-- The lines under a range of a handle from which no data can be read (R439). -/
def Head.badHandle (h : Head) (x : Handle) (off n : Nat) : List Nat := h.badSegs off n ((h.segsOfHandle x).getD [])

/-- The 64 bytes an INTENT or QPOST reads from a buffer (R165, R168): the exception, or the bytes. -/
def Head.recordAt (h : Head) (x : Handle) (off : Nat) : Except Nat (List Byte) :=
  match x with
  | .buffer b =>
    if off % 8 ≠ 0 then .error excAlign
    else if h.lenOf b < off + 64 then .error excAccess
    else .ok (h.bytes (h.bufAddr b + off) 64)
  | _ => .error excHandle

/-- Bytes read from a handle: in the output of a job that has ended and has not been waited for, each is what stood there before
the job or what the job wrote, freely (R127). -/
def Head.mixBefore (h : Head) (x : Nat) (b : List Byte) : List (Nat × Job) → List Byte × Head
  | [] => (b, h)
  | e :: t =>
    match e.2.before with
    | some (a, old) =>
      if a < x + b.length ∧ x < a + old.length then
        let (w, h) := h.draw
        let pick (i : Nat) (now : Byte) : Byte :=
          if a ≤ x + i ∧ x + i < a + old.length ∧ w.getLsbD i then old.getD (x + i - a) now else now
        h.mixBefore x (b.zipIdx.map (fun p => pick p.2 p.1)) t
      else h.mixBefore x b t
    | none => h.mixBefore x b t

/-- The record read: BUSERR where a line under it cannot be read (R439). -/
def Head.readRecord (h : Head) (x : Handle) (off : Nat) : Except Nat (List Byte) × Head :=
  match h.recordAt x off with
  | .error e => (.error e, h)
  | .ok b =>
    match h.badHandle x off 64 with
    | [] => (.ok b, h)
    | bad => (.error excBusErr, h.meetBad 0 bad)

/-- HQRY's description of a handle (the table of ch. 05, "Handle access"). -/
def Head.describe (h : Head) (x : Handle) : Word :=
  BitVec.ofNat 64 (match x with
    | .empty => 0
    | .buffer b => 1 + 4 * bufPool b + 256 * h.lenOf b
    | .desc d => 2 + 256 * h.handleLen (.desc d))

/-- The requester class of a context (R444). -/
def Head.classOf (h : Head) (k : Nat) (c : Context) : Nat :=
  if isStream k = false then 3
  else match (c.work.bind h.work) with
    | some x => if x.qp.isNone then 2 else 1
    | none => 1

end Sys2Proof.Machine
end

