-- ==== Sys2Proof/Machine/Umbra.lean ====
section
/-! DEFINITION. Umbra: key slots and roles, derivations, the operations of UMB_CMD, key permissions, the link key, alarms and
the control-plane digest units (spec/17_umbra_security.md, R456 to R477). -/
namespace Sys2Proof.Machine
open Reg

/-! ### Slots and roles -/

/-- The device slot of a role (R457, R458). -/
def Head.roleSlot (h : Head) (r : Nat) : Nat := h.rd (UMB_DEVMAP_SLOT.el (r / 8) 0 (r % 8))

/-- The key record of a slot, where it is LOADED. -/
def Head.slotKey (h : Head) (s : Nat) : Option KeyRec :=
  match Tbl.find h.umb.slots s with
  | some (.loaded k) => some k
  | _ => none

/-- A slot is FAILED. -/
def Head.slotFailed (h : Head) (s : Nat) : Bool := Tbl.find h.umb.slots s = some .failed

/-- The key of a role, where its slot is LOADED. -/
def Head.roleKey (h : Head) (r : Nat) : Option KeyRec := h.slotKey (h.roleSlot r)

/-- UMB_STS follows the roles, the failed slots, the latch and the fuses. -/
def Head.umbSts (h : Head) : Head :=
  let h := (h.wr UMB_STS_AKEK (h.roleKey 0).isSome.toNat).wr UMB_STS_METAKEY (h.roleKey 4).isSome.toNat
  let h := (h.wr UMB_STS_DUMPKEY (h.roleKey 5).isSome.toNat).wr UMB_STS_LINKKEY (h.roleKey 3).isSome.toNat
  let h := h.wr UMB_STS_FAILCNT (h.umb.slots.filter (fun e => e.2 = Slot.failed)).length
  let h := (h.wr UMB_STS_LATCH h.umb.latch.toNat).wr UMB_ALARM_LAST h.umb.lastAlarm
  (h.wr UMB_STS_OWNED h.plt.fuses.ownHash.isSome.toNat).wr UMB_STS_RETIRED h.plt.fuses.retired.toNat

/-- Put a key into a slot. -/
def Head.loadSlot (h : Head) (s : Nat) (k : KeyRec) : Head :=
  ({ h with umb := { h.umb with slots := Tbl.put h.umb.slots s (.loaded k) } }).umbSts

/-- Empty a slot that holds a key; a FAILED slot stays FAILED. -/
def Head.emptySlot (h : Head) (s : Nat) : Head :=
  if h.slotFailed s then h else ({ h with umb := { h.umb with slots := Tbl.del h.umb.slots s } }).umbSts

/-- Every slot is zeroed (R472, R476); failed slots stay failed. -/
def Head.zeroSlots (h : Head) : Head :=
  ({ h with umb := { h.umb with slots := h.umb.slots.filter (fun e => e.2 = Slot.failed), staged := none,
                                linkKey := none, linkSalt := [] },
            memc := { h.memc with key := [] } }).umbSts

/-- SLOT_FAILED (R458): the slot becomes FAILED and is retired; a role that lies on it is named. -/
def Head.failSlot (h : Head) (s : Nat) : Head :=
  let h := ({ h with umb := { h.umb with slots := Tbl.put h.umb.slots s .failed } }).logRetired (.keySlot s)
  let h := (h.umbSts).wr UMB_ERR_SLOTFAIL 1
  let role := ((List.range 8).find? (fun r => h.roleSlot r = s)).getD 0xFF
  h.post 11 0x0B05 2 s role (h.rd UMB_STS_FAILCNT) 0

/-! ### Derivations (R459) -/

/-- XOR every byte with a byte. -/
def xorAll (c : Byte) (b : List Byte) : List Byte := b.map (· ^^^ c)

/-- HMAC-SHA-256. -/
def hmac (key msg : List Byte) : List Byte :=
  let k := if 64 < key.length then sha256 key else key
  let k := k ++ List.replicate (64 - k.length) 0
  sha256 (xorAll 0x5C k ++ sha256 (xorAll 0x36 k ++ msg))

/-- A number as four bytes, most significant first. -/
def be32 (v : Nat) : List Byte := (toBytes 4 v).reverse

/-- The ASCII bytes of a string. -/
def ascii (s : String) : List Byte := s.toList.map (fun c => BitVec.ofNat 8 c.toNat)

/-- KDF(K, label, context) in counter mode, for `blocks` blocks of 256 bits (R459). -/
def kdf (key : List Byte) (label : String) (context : List Byte) (blocks : Nat) : List Byte :=
  (List.range blocks).flatMap (fun i =>
    hmac key (be32 (i + 1) ++ ascii label ++ [0] ++ context ++ be32 (256 * blocks)))

/-- SERIAL, 16 bytes. -/
def Head.serial (h : Head) : List Byte := toBytes 16 h.plt.fuses.serial.toNat

/-- The device root secret as the fuses hold it. -/
def Head.drs (h : Head) : List Byte := Config.deviceRootSecret h.umb.drsDamaged

/-- The device storage key (R459). -/
def Head.dsk (h : Head) : List Byte := kdf h.drs "CH9K store" h.serial 1

/-- The private scalar of the device identity key (R459). -/
def Head.dik (h : Head) : List Byte := Config.dikScalar (kdf h.drs "CH9K identity" h.serial 2)

/-- The signed message of a purpose (R462). -/
def Head.challengeMsg (h : Head) (purpose : Nat) : List Byte :=
  ascii "CH9K" ++ toBytes 1 purpose ++ h.serial ++ h.umb.nonce.getD []

/-! ### Key records (R464) -/

/-- A key record from its 80 bytes; none where a reserved byte is not zero, KIND or USE is out of range, or a key of KIND 2
to 5 has bytes beyond 32. -/
def parseKeyRec (b : List Byte) : Option KeyRec :=
  let kind := leAt b 68 1
  let use := leAt b 69 1
  if b.length ≠ 80 ∨ kind = 0 ∨ 5 < kind ∨ 8 ≤ use ∨ leAt b 70 2 ≠ 0 ∨ (kind ≠ 1 ∧ leAt b 32 32 ≠ 0)
      ∨ (kind = 1 ∧ leAt b 64 4 ≠ 0) ∨ (3 ≤ kind ∧ use ≠ 0) then none
  else some { key := if kind = 1 then b.take 64 else b.take 32, salt := (b.drop 64).take 4, kind, use, keyid := leAt b 72 8 }

/-! ### The operations (R465, R466) -/

/-- The addresses of an operation's input and output are permitted (R465): DRAM or Billow, and at level S within the grants
of the issuing core. -/
def Head.umbAddrOk (h : Head) (o : Origin) (l : Level) (len : Nat) (write : Bool) : Bool :=
  let a := h.rd UMB_ADDR_ADDR * 8
  h.inMemory a len && (l = .v || h.granted o a len .load) && (! write || l = .v || h.granted o a len .store)

/-- The conditions of R466 for an operation, in the order of the rule; the first that holds gives the status. -/
def firstStatus (cs : List (Bool × Nat)) : Nat := ((cs.find? (·.1)).map (·.2)).getD 0

/-- A challenge is consumed (R462). -/
def Head.consumeNonce (h : Head) : Head := { h with umb := { h.umb with nonce := none } }

/-- An operation starts: BUSY is set, and `status` will be shown when it ends. -/
def Head.umbStart (h : Head) (status : Nat) : Head :=
  { (h.wr UMB_CMDSTS_BUSY 1) with umb := { h.umb with answer := some status } }

/-- NONCE (R462): a fresh challenge of 48 bytes, while the random source is sound. -/
def Head.umbNonce (h : Head) : Head :=
  let st := firstStatus [(h.is UMB_STS_RNGOK = false, 11)]
  if st ≠ 0 then h.umbStart st else
    let (n, h) := h.drawBytes 48
    let h := (List.range 6).foldl (fun h i => h.wr (UMB_NONCE_N.nth i) (leAt n (8 * i) 8)) h
    ({ h with umb := { h.umb with nonce := some n } }).umbStart 0

/-- A failed credential is posted; CREDFAILS counts those of UNLOCK, since a failed TESTENTRY changes nothing else (R463, R476). -/
def Head.credFail (h : Head) (op : Nat) : Head :=
  let h := h.wr UMB_ERR_CREDFAIL 1
  let h := if op = 2 then h.bump UMB_STS_CREDFAILS 1 else h
  h.post 11 0x0B04 2 op (h.rd UMB_STS_CREDFAILS) 0 0

/-- UNLOCK (R463): success sets UNLOCKED and clears the alarm latch. -/
def Head.umbUnlock (h : Head) (o : Origin) (l : Level) : Head :=
  let b := h.bytes (h.rd UMB_ADDR_ADDR * 8) 200
  let pub := b.take 97
  let good := h.plt.fuses.ownHash = some (sha384 pub)
    && Config.ecdsaVerify pub (h.challengeMsg 1) ((b.drop 104).take 96)
  let st := firstStatus [(h.umbAddrOk o l 200 false = false || leAt b 97 7 ≠ 0, 1), (h.plt.fuses.retired, 9),
    (h.plt.fuses.ownHash.isNone, 10), (decide (8 ≤ h.rd UMB_STS_CREDFAILS), 4), (h.umb.nonce.isNone, 2), (! good, 3)]
  let h := if st = 0 then
      let was := h.umb.latch
      let h := ({ h with umb := { h.umb with latch := false } }).umbSts
      (h.wr UMB_STS_UNLOCKED 1).post 11 0x0B08 1 was.toNat 0 0 0
    else if st = 3 then h.credFail 2 else h
  h.consumeNonce.umbStart st

/-- IMPORT_AKEK (R465): the record under the transport key goes to role 0, and its sealed form under the DSK to memory. -/
def Head.umbImport (h : Head) (o : Origin) (l : Level) : Head :=
  let a := h.rd UMB_ADDR_ADDR * 8
  let b := h.bytes a 192
  let rec_ := match Config.ecdh h.dik (b.take 97) with
    | some z => (Config.unwrap5649 (kdf z "CH9K import" (h.serial ++ h.umb.nonce.getD []) 1) ((b.drop 104).take 88))
    | none => none
  let key := (rec_.bind parseKeyRec).filter (·.kind = 5)
  let st := firstStatus [(h.umbAddrOk o l 280 true = false || leAt b 97 7 ≠ 0, 1), (h.plt.fuses.retired, 9),
    (h.plt.fuses.ownHash.isNone, 10), (h.is UMB_STS_UNLOCKED = false, 4), (h.umb.nonce.isNone, 2), (key.isNone, 5),
    (h.slotFailed (h.roleSlot 0), 7)]
  let h := match st, key with
    | 0, some k => { h.put (a + 192) (Config.wrap5649 h.dsk (rec_.getD [])) with
                       umb := { h.umb with staged := some (h.roleSlot 0, k) } }
    | _, _ => h
  h.consumeNonce.umbStart st

/-- LOAD_AKEK (R465): role 0 from the sealed record, refused while the alarm latch is set. -/
def Head.umbLoadAkek (h : Head) (o : Origin) (l : Level) : Head :=
  let b := h.bytes (h.rd UMB_ADDR_ADDR * 8) 88
  let key := ((Config.unwrap5649 h.dsk b).bind parseKeyRec).filter (·.kind = 5)
  let st := firstStatus [(h.umbAddrOk o l 88 false = false, 1), (h.plt.fuses.retired, 9), (h.umb.latch, 4),
    (key.isNone, 5), (h.slotFailed (h.roleSlot 0), 7)]
  let h := match st, key with
    | 0, some k => { h with umb := { h.umb with staged := some (h.roleSlot 0, k) } }
    | _, _ => h
  h.umbStart st

/-- The slot that a key record unwrapped for `slot` goes to (R465): role 4 for KIND 3, role 5 for KIND 4. -/
def Head.unwrapTarget (h : Head) (kind slot : Nat) : Nat :=
  if kind = 3 then h.roleSlot 4 else if kind = 4 then h.roleSlot 5 else slot

/-- UNWRAP (R465). -/
def Head.umbUnwrap (h : Head) (o : Origin) (l : Level) (slot : Nat) : Head :=
  let b := h.bytes (h.rd UMB_ADDR_ADDR * 8) 88
  let key := match h.roleKey 0 with
    | some k => ((Config.unwrap5649 k.key b).bind parseKeyRec).filter (·.kind ≠ 5)
    | none => none
  let kind := (key.map (·.kind)).getD 0
  let target := h.unwrapTarget kind slot
  let st := firstStatus [(h.umbAddrOk o l 88 false = false, 1), (h.plt.fuses.retired, 9), ((h.roleKey 0).isNone, 8),
    (key.isNone, 5), ((kind ≤ 2 && slot < 256) || h.slotFailed target, 7), ((h.slotKey target).isSome, 6)]
  let h := match st, key with
    | 0, some k => { h with umb := { h.umb with staged := some (target, k) } }
    | _, _ => h
  h.umbStart st

/-- ZERO (R465, R468): an ordinary slot is emptied, and KEY_ZEROED posted where it held a key. -/
def Head.umbZero (h : Head) (slot : Nat) : Head :=
  let st := firstStatus [(slot < 256 || h.slotFailed slot, 7)]
  if st ≠ 0 then h.umbStart st else
    let was := h.slotKey slot
    let h := h.emptySlot slot
    let h := match was with
      | some k => h.post 11 0x0B03 0 slot k.keyid 0 0
      | none => h
    h.umbStart 0

/-- DIKPUB (R465): the public key of the device identity key and SERIAL are written. -/
def Head.umbDikpub (h : Head) (o : Origin) (l : Level) : Head :=
  let st := firstStatus [(h.umbAddrOk o l 113 true = false, 1)]
  if st ≠ 0 then h.umbStart st else
    (h.put (h.rd UMB_ADDR_ADDR * 8) ((Config.p384Public h.dik).take 97 ++ h.serial)).umbStart 0

/-- OWN (R461): fuses SHA-384 of the ownership public key, once. -/
def Head.umbOwn (h : Head) (o : Origin) (l : Level) : Head :=
  let st := firstStatus [(l ≠ .v || h.umbAddrOk o l 97 false = false, 1), (h.plt.fuses.retired, 9),
    (h.plt.fuses.ownHash.isSome, 10)]
  if st ≠ 0 then h.umbStart st else
    let k := h.bytes (h.rd UMB_ADDR_ADDR * 8) 97
    (({ h with plt := { h.plt with fuses := { h.plt.fuses with ownHash := some (sha384 k) } } }).umbSts).umbStart 0

/-- Umbra ends the running operation (R466): its status shows, BUSY falls, and a key it loads takes effect. -/
def Head.umbComplete (h : Head) : Head :=
  match h.umb.answer with
  | none => h
  | some st =>
    let h := (h.wr UMB_CMDSTS_STATUS st).wr UMB_CMDSTS_BUSY 0
    let staged := h.umb.staged
    let h := { h with umb := { h.umb with answer := none, staged := none } }
    match staged with
    | some (s, k) => (h.loadSlot s k).post 11 0x0B02 0 s k.kind k.use k.keyid
    | none => h

/-- A write of UMB_DEVMAP (R458): one value per role of the register; a changed role must name a sound spare slot that no
other role has. -/
def Head.writeDevmap (h : Head) (j : Nat) (v : Nat) : Head :=
  let news := (List.range 8).map (fun r => (8 * j + r, bitsAt v (8 * r) 8))
  let changed := news.filter (fun p => h.roleSlot p.1 ≠ p.2)
  let others (r s : Nat) : Bool := (List.range 16).any (fun q => q ≠ r && (if q / 8 = j then bitsAt v (8 * (q % 8)) 8
    else h.roleSlot q) = s)
  let ok := changed.all (fun p => 240 ≤ p.2 && ! h.slotFailed p.2 && ! others p.1 p.2)
  if ok = false then h.wr UMB_ERR_CFGERR 1
  else
    (changed.foldl (fun h p =>
      let old := h.roleSlot p.1
      (h.wr (UMB_DEVMAP_SLOT.el (p.1 / 8) 0 (p.1 % 8)) p.2).post 11 0x0B06 1 p.1 old p.2 0) h).umbSts

/-! ### Key permission (R157, R467) -/

/-- Who issues a cipher job. -/
inductive KeyIssuer
  | command (binding : Nat)
  | background
  | core
  deriving DecidableEq, Repr

/-- The binding of a row (R467). -/
def Head.rowBinding (h : Head) (row : Nat) : Nat := h.load (h.rd UMB_RBBASE_BASE * 4096 + 2 * row) 2

/-- The checks of R467 in order: 0 with the key, KEY_LOST or KEY_DENIED otherwise. `xts` is the mode of the job. -/
def Head.keyCheck (h : Head) (i : KeyIssuer) (slot : Nat) (xts : Bool) (lost denied : Nat) : Except Nat KeyRec :=
  let first := match i with
    | .command binding => slot = binding && slot ≠ 0
    | .background => true
    | .core => decide (256 ≤ slot)
  if first = false then .error denied
  else
    match h.slotKey slot with
    | none => .error lost
    | some k =>
      let bit := match i with
        | .command _ => 0
        | .background => 1
        | .core => 2
      if bitAt k.use bit ∧ k.kind = (if xts then 1 else 2) then .ok k else .error denied

/-! ### The link key (R470) -/

/-- CHECK under the AKEK. -/
def linkCheck (akek : List Byte) : Word := BitVec.ofNat 64 (leAt (kdf akek "CH9K check" [] 1) 0 8)

/-- The nonce frame of this head. -/
def Head.linkFrame (h : Head) (akek : List Byte) (n : BitVec 256) : LinkKeyFrame :=
  { magic := 0x594B4E4C, ver := 1, headId := BitVec.ofNat 8 h.headId, zeros := true, nonce := n, check := linkCheck akek }

/-- The link key and its salt, once both nonces are held (R470). -/
def Head.deriveLinkKey (h : Head) (akek : List Byte) : Head :=
  match h.umb.ownNonce, h.umb.twinNonce with
  | some own, some twin =>
    let a := toBytes 32 own.toNat
    let b := toBytes 32 twin.toNat
    let ctx := if h.headId = 0 then a ++ b else b ++ a
    let k := kdf akek "CH9K link" ctx 1
    let salt := (kdf akek "CH9K link salt" ctx 1).take 4
    let h := h.loadSlot (h.roleSlot 3) { key := k, salt := salt, kind := 2, use := 0, keyid := 0 }
    { h with umb := { h.umb with linkKey := some k, linkSalt := salt } }
  | _, _ => h

/-! ### Alarms, health and digests -/

/-- RNG_HEALTH_FAIL (R460). -/
def Head.rngFail (h : Head) (test : Nat) : Head :=
  ((h.wr UMB_ERR_RNGFAIL 1).wr UMB_STS_RNGOK 0).post 11 0x0B0A 3 test 0 0 0

/-- The algorithm of UMB_DGn_CTL.ALG: 1 SHA-256, 2 SHA-384, 3 SHA-512, 4 SHA3-256, 5 SHA3-384. -/
def dgAlg (a : Nat) : Nat := [0, 1, 4, 5, 3, 6].getD a 0

/-- The bytes lie where level V may read by address (R12, R475): DRAM, Billow, the boot ROM or the Afterglow window. -/
def Head.dgReadable (h : Head) (a n : Nat) : Bool :=
  h.inMemory a n || decide (a + n ≤ romSize) || (decide (afterglowBase ≤ a) && decide (a + n ≤ afterglowBase + 2 ^ 23))

/-- The digest of a range, none where its data is uncorrectable or completes with a bus error (R475). The contents of the boot ROM are
not given, and so their digest is free. -/
def Head.dgDigest (h : Head) (alg a n : Nat) : Option (List Byte) × Head :=
  if h.inMemory a n then
    let (data, h) := h.dmaRead a n 0
    (data.map (fun d => (hash alg d).take 64), h)
  else if a + n ≤ romSize then
    let (b, h) := h.drawBytes (hashLen alg)
    (some b, h)
  else (some ((hash alg (h.agBytes (a - afterglowBase) n)).take 64), h)

/-- A digest unit's GO (R475): ignored with CFGERR while BUSY; an undefined ALG, or an address that level V may not read, is out of
range and ignored. -/
def Head.dgGo (h : Head) (n : Nat) : Head :=
  let alg := h.rd (UMB_DG_CTL_ALG.nth n)
  let a := h.rd (UMB_DG_ADDR_ADDR.nth n)
  let len := h.rd (UMB_DG_LEN_LEN.nth n)
  if h.is (UMB_DG_CTL_BUSY.nth n) ∨ alg = 0 ∨ 5 < alg ∨ h.dgReadable a len = false then h.wr UMB_ERR_CFGERR 1
  else
    let (d, h) := h.dgDigest (dgAlg alg) a len
    let r : DigestRun := { result := d.getD [], err := d.isNone }
    let h := { h with umb := { h.umb with digests := Tbl.put h.umb.digests n r } }
    (h.wr (UMB_DG_CTL_BUSY.nth n) 1).wr (UMB_DG_CTL_ERR.nth n) 0

/-- A digest completes (R475): the result fills RES0 to RES7, the rest zero; uncorrectable data gives ERR and zero. -/
def Head.dgDone (h : Head) (n : Nat) : Head :=
  match Tbl.find h.umb.digests n with
  | none => h
  | some r =>
    let h := (List.range 8).foldl (fun h i => h.wr (UMB_DG_RES_D.el n i 0) (leAt r.result (8 * i) 8)) h
    let h := (h.wr (UMB_DG_CTL_BUSY.nth n) 0).wr (UMB_DG_CTL_ERR.nth n) r.err.toNat
    { h with umb := { h.umb with digests := Tbl.del h.umb.digests n } }

end Sys2Proof.Machine
end

