-- ==== Sys2Proof/Machine/Posting.lean ====
section
/-! DEFINITION. The stream instructions up to the posting of a job: buffers, job blocks, tickets, intents, waits and epochs
(spec/06_terdan_stream_instructions.md, R137 to R173). -/
namespace Sys2Proof.Machine
open Reg

/-! ### Buffers (R148, R149) -/

/-- BGET: the status and the buffer, whose bytes are unpredictable until they are written (R148). -/
def Head.bget (h : Head) (k : Nat) (c : Context) (n : Nat) : Nat × Option Nat × Head :=
  if n = 0 ∨ 4194304 < n then (rsBadParam, none, h)
  else
    match h.poolFor n with
    | none => (rsPoolEmpty, none, h)
    | some p =>
      match h.allocIn p (h.classOf k c) with
      | (.buffer b, h) =>
        let (bytes, h) := h.drawBytes (poolSize p)
        (rsOk, some b, (h.put (h.bufAddr b) bytes).setLen b n)
      | (.poolEmpty, h) => (rsPoolEmpty, none, h)
      | (.poolReserved, h) => (rsPoolReserved, none, h)

/-- The buffers of a command are no longer the front complex's to return. -/
def Head.disown (h : Head) (w : Nat) (bs : List Nat) : Head :=
  h.updWork w (fun x => { x with cap := x.cap.filter (fun b => ¬ bs.contains b), data := x.data.filter (fun b => ¬ bs.contains b) })

/-- BPUT: the buffer, or every member of a descriptor with the descriptor, is returned. Through a copy of its handle a descriptor
still reaches its members until the context is free (R91). -/
def Head.bput (h : Head) (k : Nat) (c : Context) (x : Handle) : Option (Head × Context) :=
  match x with
  | .empty => none
  | .buffer b => some ((h.dropBufs [b]).disown (c.work.getD 0) [b], { c with bufs := c.bufs.erase b })
  | .desc d =>
    let bs := ((Tbl.find h.descTbl d).getD []).map (·.buf)
    some ((h.dropBufs bs).disown (if isStream k then c.work.getD 0 else 0) bs,
      { c with bufs := c.bufs.filter (fun b => ¬ bs.contains b) })

/-- BGET (R148). -/
def execBget (x : Ctx) (rd rs : Fin 32) (ha : Fin 8) (s : State) : Host.Outcome State Fault Refusal :=
  s.apply (fun h => h.instr x anyLevel (fun h k c =>
    let (st, b, h) := h.bget k c (c.gr rs).toNat
    let c := match b with
      | some b => { c.setHr ha (.buffer b) with bufs := b :: c.bufs }
      | none => c
    h.result k c rd (BitVec.ofNat 64 st)))

/-- BPUT (R91, R149). -/
def execBput (x : Ctx) (rd : Fin 32) (ha : Fin 8) (s : State) : Host.Outcome State Fault Refusal :=
  s.apply (fun h => h.instr x anyLevel (fun h k c =>
    match h.bput k c (c.hr ha) with
    | none => h.except k excHandle .none
    | some (h, c) => h.result k (c.setHr ha .empty) rd 0))

/-! ### Job blocks and ranges (R138, R140) -/

/-- A job block from its 32 bytes. -/
def jobBlock (b : List Byte) : JobBlock :=
  { ioff := leAt b 0 4, ilen := leAt b 4 4, ooff := leAt b 8 4, ocap := leAt b 12 4, arg0 := leAt b 16 8, arg1 := leAt b 24 8 }

/-- A job of a kind takes an input handle. -/
def JobKind.hasIn : JobKind → Bool
  | .dgsave | .ctxsv | .lookupMap | .lookupRec | .mread => false
  | _ => true

/-- A job of a kind takes an output handle. -/
def JobKind.hasOut : JobKind → Bool
  | .dgload | .ctxld | .mprog => false
  | _ => true

/-- The bytes a job must be able to write, where that is fixed. A PARFIX that can rebuild nothing writes nothing (R159). Of a cipher
job the spec has no status for an output that does not fit (R174): its OCAP is out of range (assumption log 73, DEDUCED). -/
def JobKind.fixedOut (k : JobKind) (b : JobBlock) : Nat :=
  match k with
  | .dgsave => 384
  | .ctxsv => 192
  | .digest => if bitAt b.arg0 3 then 32 else 0
  | .lookupFp => 48
  | .lookupMap | .lookupKey => 8
  | .lookupRec => 16
  | .mread => b.ilen
  | .pargen => bitsAt b.arg0 8 2 * b.arg1
  | .parfix =>
    let lost := bitsAt b.arg0 32 32
    if bitsAt b.arg0 8 2 < popN 32 lost ∨ 2 ^ (bitsAt b.arg0 0 5 + bitsAt b.arg0 8 2) ≤ lost then 0 else popN 32 lost * b.arg1
  | .encx | .decx =>
    let body := b.ilen - (if bitAt b.arg0 2 then bitsAt b.arg0 32 16 else 0)
    let tag := if bitAt b.arg0 3 then 16 else 0
    if bitsAt b.arg0 0 2 = 1 then b.ilen else if k = .encx then body + tag else body - tag
  | _ => 0

/-- The instruction's own rules for a job block. -/
def JobKind.rules (k : JobKind) (b : JobBlock) : Bool :=
  let a := b.arg0
  let f (lo w : Nat) := bitsAt a lo w
  match k with
  | .chunk => decide (1 ≤ b.ilen ∧ b.ilen ≤ 67108864 ∧ a < 16 ∧ b.arg1 = 0)
      && (if bitAt a 0 then decide (f 1 2 ≠ 3) else decide (f 1 2 = 0))
  | .digest => decide (f 0 2 ≠ 0 ∧ a < 64 ∧ b.ilen ≤ 67108864 ∧ b.arg1 = 0)
  | .dgsave => decide (a < 4 ∧ b.arg1 = 0 ∧ b.ocap = 384)
  | .dgload => decide (a < 4 ∧ b.arg1 = 0 ∧ b.ilen = 384)
  | .pack => decide ((f 0 2 = 1 ∨ f 0 2 = 2) ∧ f 2 2 = 0 ∧ 1 ≤ f 4 3 ∧ f 4 3 ≤ 6 ∧ f 7 1 = 0 ∧ a < 2 ^ 13 ∧ b.arg1 = 0
      ∧ 1 ≤ b.ilen ∧ b.ilen ≤ 262144) && (if f 0 2 = 1 then decide (10 ≤ f 8 5 ∧ f 8 5 ≤ 18) else decide (f 8 5 = 0))
  | .unpack => decide (a < 3 ∧ 1 ≤ b.arg1 ∧ b.arg1 ≤ 262144)
  | .encx | .decx =>
    decide (f 5 11 = 0 ∧ f 48 16 = 0) &&
      (if f 0 2 = 1 then decide (f 2 3 = 0 ∧ f 32 16 = 0 ∧ b.arg1 < 2 ^ 37 ∧ 16 ≤ b.ilen ∧ b.ilen ≤ 1048576)
       else if f 0 2 = 2 then
         (if bitAt a 2 then decide (f 32 16 ≤ b.ilen) else decide (f 32 16 = 0 ∧ b.arg1 = 0))
         && (! (k = .decx && bitAt a 3) || decide (16 + f 32 16 ≤ b.ilen))
       else false)
  | .ctxsv => decide (a / 32 = 0 ∧ a % 16 = 0 ∧ b.arg1 = 0 ∧ b.ocap = 192)
  | .ctxld => decide (a / 32 = 0 ∧ a % 16 = 0 ∧ b.arg1 = 0 ∧ b.ilen = 192)
  | .pargen | .parfix =>
    decide (2 ≤ f 0 5 ∧ f 0 5 ≤ 29 ∧ f 5 3 = 0 ∧ 1 ≤ f 8 2 ∧ f 0 5 + f 8 2 ≤ 32 ∧ f 10 22 = 0 ∧ b.arg1 % 64 = 0 ∧ 64 ≤ b.arg1
      ∧ b.arg1 ≤ 262144)
      && (if k = .pargen then decide (f 32 32 = 0 ∧ b.ilen = f 0 5 * b.arg1) else decide (b.ilen = (f 0 5 + f 8 2) * b.arg1))
  | .lookupFp => decide (a < 2 ^ 16 ∧ b.ilen = 32 ∧ (b.ocap = 0 ∨ b.ocap = 48))
  | .lookupMap => decide (a < 2 ^ 32)
  | .lookupKey => decide (a < 2 ^ 32 ∧ 1 ≤ b.arg1 ∧ b.arg1 ≤ 16 ∧ b.ilen = b.arg1)
  | .lookupRec => decide (a = 0)
  | .mread => decide (a ≤ 1 ∧ b.arg1 < 2 ^ 48 ∧ 64 ≤ b.ilen ∧ b.ilen ≤ 1048576 ∧ b.ilen % 64 = 0)
  | .mprog => decide (a < 2 ^ 16 ∧ b.arg1 = 0 ∧ 64 ≤ b.ilen ∧ b.ilen ≤ 262208)

/-- The pool size of an output buffer. -/
def outSize : Handle → Nat
  | .buffer b => poolSize (bufPool b)
  | _ => 0

/-- The most bytes a job may write (R138). -/
def JobBlock.cap (b : JobBlock) (out : Handle) : Nat := if b.ocap = 0 then outSize out - b.ooff else b.ocap

/-- Every field of a job is in range (R140). -/
def Head.jobOk (h : Head) (k : JobKind) (b : JobBlock) (inp out : Handle) : Bool :=
  let inOk := if k.hasIn then decide (b.ioff + b.ilen ≤ h.handleLen inp)
    else decide (b.ioff = 0) && (k = .mread || decide (b.ilen = 0))
  let outOk := if k.hasOut then decide (b.ooff + b.ocap ≤ outSize out ∧ b.ooff ≤ outSize out ∧ k.fixedOut b ≤ b.cap out)
    else decide (b.ooff = 0 ∧ b.ocap = 0)
  inOk && outOk && k.rules b

/-! ### Posting (R139, R141) -/

/-- A failed ticket. -/
def failedTicket (status : Nat) : Word := BitVec.ofNat 64 (2 ^ 63 + status)

/-- A context's outstanding jobs (R141). -/
def Head.outstanding (h : Head) (k : Nat) : Nat := (h.jobs.filter (fun e => e.2.owner = k)).length

/-- The limit of outstanding jobs (R141). -/
def jobLimit (k : Nat) : Nat := if isStream k then 16 else 64

/-- The job block of a posting instruction: the exception of its read, or the block (R138). The contents of the boot ROM are not
given: free. A register block raises ACCESS: no register is 32 bytes wide (R3). -/
def Head.readBlock (h : Head) (k : Nat) (c : Context) (a : Nat) : Except Nat JobBlock × Head :=
  if a % 8 ≠ 0 then (.error excAlign, h)
  else
    match h.place k c a 32 false with
    | .mem key =>
      match h.loadKey k key 32 .clean with
      | (.ok b, h) => (.ok (jobBlock b), h)
      | (.error e, h) => (.error e, h)
    | .afterglow => (.ok (jobBlock (h.agBytes (a - afterglowBase) 32)), h)
    | .rom => let (b, h) := h.drawBytes 32; (.ok (jobBlock b), h)
    | .bad e => (.error e, h)
    | .reg => (.error excAccess, h)

/-- What a kind does at its posting beside the ticket: MPROG's placement stands in its own file and is passed in. -/
abbrev PostHook := Head → Nat → Head

/-- The live ticket of a job: its number, which is never zero, under free bits, with bit 63 clear (R139; assumption log 12, DEDUCED). -/
def liveTicket (n : Nat) (f : Word) : Word := BitVec.ofNat 64 (n % 2 ^ 32 + 1 + 2 ^ 32 * (f.toNat % (2 ^ 31 - 1)))

/-- A job as it is posted. -/
def Job.new (owner : Nat) (ticket : Word) (kind : JobKind) (blk : JobBlock) (inp outp : Handle) (level : Level)
    (posted bind : Nat) : Job :=
  { owner, ticket, kind, blk, inp, outp, level, posted, bind, accel := none, resume := 0, place := none, mirrored := false,
    ended := none, rerun := none, touched := [], before := none, save := none }

/-- A job is posted (R139): handles, the block, the limits, then a live ticket. -/
def Head.post_ (h : Head) (k : Nat) (c : Context) (kind : JobKind) (rd : Fin 32) (a : Nat) (inp out : Handle)
    (hook : PostHook) : Head :=
  let bad := (kind.hasIn && (h.segsOfHandle inp).isNone) || (kind.hasOut && outSize out = 0)
  if bad then h.except k excHandle .none
  else
    match h.readBlock k c a with
    | (.error e, h) => h.except k e { addr := a, store := false, fetch := false }
    | (.ok b, h) =>
      let fail (h : Head) (st : Nat) : Head := h.setCtx k { (c.setGr rd (failedTicket st)).next with tk := failedTicket st }
      if jobLimit k ≤ h.outstanding k then fail h rsTicketsFull
      else if h.jobOk kind b inp out = false then fail h rsBadParam
      else
        let (f, h) := h.draw
        let n := h.nextJob
        let t := liveTicket n f
        let j := Job.new k t kind b inp out c.level h.epoch (((c.work.bind h.work).map (fun w => h.rowBinding w.row)).getD 0)
        let h := { h with jobs := Tbl.put h.jobs n j, nextJob := n + 1 }
        hook (h.setCtx k { (c.setGr rd t).next with tk := t }) n

/-- The kinds an accelerator serves, by its number (the table of ch. 06). -/
def accelServes (a : Nat) (k : JobKind) : Bool :=
  match k with
  | .digest | .dgsave | .dgload => decide (a ≤ 3)
  | .chunk => a = 4
  | .pack => a = 5 || a = 6
  | .unpack => a = 7 || a = 8
  | .encx | .decx | .ctxsv | .ctxld => a = 9 || a = 10
  | .pargen | .parfix => a = 11
  | _ => false

/-- A job needs an accelerator of a cluster. -/
def JobKind.onAccel (k : JobKind) : Bool := (List.range 12).any (fun a => accelServes a k)

/-- The state of an accelerator. -/
def Head.accelState (h : Head) (c a : Nat) : Nat := bitsAt (h.rd (ACC_CL_STS_STATE.nth c)) (2 * a) 2

/-- No job runs on an accelerator. -/
def Head.accelIdle (h : Head) (c a : Nat) : Bool := ! h.jobs.any (fun e => e.2.accel = some (c, a) && e.2.ended.isNone)

/-- The accelerators a job may go to, in order (R145): an ON unit of its kind in the posting cluster, or, where that cluster has
none ON or STARTING, of the lowest-numbered other cluster; for a control core any ON unit. -/
def Head.accelChoices (h : Head) (owner : Nat) (kind : JobKind) : List (Nat × Nat) :=
  let units (c : Nat) := ((List.range 12).filter (fun a => accelServes a kind && h.accelState c a = uOn)).map (fun a => (c, a))
  let rest := (List.range 24).flatMap units
  if isStream owner then
    let c := ctxCluster owner
    let waits := (List.range 12).any (fun a => accelServes a kind && h.accelState c a = uStarting)
    if units c ≠ [] then units c
    else if waits then []
    else ((List.range 24).find? (fun d => d ≠ c && units d ≠ [])).map units |>.getD []
  else rest

/-- An earlier job of the same issuer holds the same digest or cipher slot (R152, R156). -/
def sameSlot (a b : Job) : Bool :=
  let dg (j : Job) : Option Nat := match j.kind with
    | .digest => if bitAt j.blk.arg0 2 && bitAt j.blk.arg0 3 then none else some (bitsAt j.blk.arg0 4 2)
    | .dgsave | .dgload => some (j.blk.arg0 % 4)
    | _ => none
  let cs (j : Job) : Option Nat := match j.kind with
    | .encx | .decx => if bitsAt j.blk.arg0 0 2 = 2 then some (bitsAt j.blk.arg0 4 1) else none
    | .ctxsv | .ctxld => some (bitsAt j.blk.arg0 4 1)
    | _ => none
  a.owner = b.owner && ((dg a ≠ none && dg a = dg b) || (cs a ≠ none && cs a = cs b))

/-- The budget class that a job is charged to, none for a command's or a core's (R47). -/
def Head.jobClass (h : Head) (j : Job) : Option Nat :=
  if isStream j.owner then ((h.ctx j.owner).work.bind h.work).bind (·.budget) else none

/-- A unit may take a job: it is idle, and the job's class has budget left there (R47). -/
def Head.unitFree (h : Head) (j : Job) (u : Nat × Nat) : Bool :=
  h.accelIdle u.1 u.2 && (h.jobClass j).all (fun c => h.mayUse c (accelRes u.1 u.2))

/-- A job that waits for a unit takes an idle one (R145); jobs on one slot run in posting order. A job of a failed unit that runs
again is told by JOB_RERUN (R147). -/
def Head.placeJob (h : Head) (n : Nat) : Head :=
  match Tbl.find h.jobs n with
  | none => h
  | some j =>
    let blocked := h.jobs.any (fun e => e.1 < n && e.2.ended.isNone && sameSlot e.2 j)
    if j.kind.onAccel = false ∨ j.accel.isSome ∨ j.ended.isSome ∨ blocked then h
    else
      match (h.accelChoices j.owner j.kind).find? (h.unitFree j) with
      | some u =>
        let h := { h with jobs := Tbl.put h.jobs n { j with accel := some u, rerun := none } }
        match j.rerun with
        | some (c, a) => h.post 4 0x0402 1 c a u.2 (h.cxid j.owner)
        | none => h
      | none => h

/-- Every waiting job is placed as far as units are idle. -/
def Head.placeJobs (h : Head) : Head := h.jobs.foldl (fun h e => h.placeJob e.1) h

/-! ### Tickets (R142) -/

/-- The outstanding job of an issuer that a ticket names. -/
def Head.jobOf (h : Head) (k : Nat) (t : Word) : Option (Nat × Job) :=
  h.jobs.find? (fun e => e.2.owner = k && e.2.ticket = t)

/-- The word TWAIT returns for an ended job. -/
def jobWord (st res : Nat) : Word := BitVec.ofNat 64 (st + 2 ^ 16 * (res % 2 ^ 48))

/-- TWAIT (R142). -/
def execTwait (x : Ctx) (rd rs1 : Fin 32) (s : State) : Host.Outcome State Fault Refusal :=
  s.apply (fun h => h.instr x anyLevel (fun h k c =>
    let t := if rs1.val = 0 then c.tk else c.gr rs1
    if t.getLsbD 63 then h.result k c rd (t &&& 0xFFFF#64)
    else
      match h.jobOf k t with
      | none => h.result k c rd (BitVec.ofNat 64 rsBadTicket)
      | some (n, j) =>
        match j.ended with
        | some (st, res) => ({ h with jobs := Tbl.del h.jobs n }).result k c rd (jobWord st res)
        | none => h.setCtx k { c with run := .ticket n rd.val }))

/-- A waiting TWAIT returns when its job has ended (R142). -/
def Head.twaitReturn (h : Head) (k : Nat) : Head :=
  let c := h.ctx k
  match c.run with
  | .ticket n rd =>
    match (Tbl.find h.jobs n).bind (·.ended) with
    | some (st, res) =>
      ({ h with jobs := Tbl.del h.jobs n }).result k { c with run := .running } (Fin.ofNat 32 rd) (jobWord st res)
    | none => h
  | _ => h

/-- TWAIT_RETURN (R142). -/
def execTwaitReturn (x : Ctx) (s : State) : Host.Outcome State Fault Refusal := s.apply (fun h => h.twaitReturn (ctxKey x))

/-! ### Intents (R165, R166) -/

/-- The background intents of a context that bear an epoch and are not yet recorded hold its seal (R56). -/
def Head.heldIntents (h : Head) (e : Nat) : Bool :=
  h.ctxs.any (fun p => p.2.intents.any (fun r => iBack r && iEpoch r = e))

/-- INTENT at level C for a job: the status, and the context with the record on its list. -/
def Head.intentC (h : Head) (c : Context) (x : Work) (r : Rec64) : Nat × Context × Head :=
  let bg : Bool := x.qp.isNone
  let t := iType r
  if bg then
    if h.is MER_STS_EPVALID = false then (rsIntentDenied, c, h)
    else if 65536 ≤ h.issued false then (rsIntentFull, c, h)
    else if iNsid r ≠ 0 ∧ iNsid r ≠ x.nsid then (rsIntentDenied, c, h)
    else if t = 9 ∨ t = 0x0B then (rsIntentDenied, c, h)
    else
      let r := fillIntent r h.headId h.epoch cseqBackground (h.issued false) false false true
      (rsOk, { c with intents := c.intents ++ [r] }, h.countIssued false 1)
  else if 65536 ≤ c.intents.length then (rsIntentFull, c, h)
  else if (iNsid r ≠ 0 ∧ iNsid r ≠ x.nsid) ∨ t = 9 ∨ t = 0x0A ∨ t = 0x0B ∨ x.holdsSeal = false then (rsIntentDenied, c, h)
  else (rsOk, { c with intents := c.intents ++ [r] }, h)

/-- INTENT (R165, R166): at levels S and V it records at once. -/
def execIntent (x : Ctx) (rd rs1 : Fin 32) (ha : Fin 8) (s : State) : Host.Outcome State Fault Refusal :=
  s.apply (fun h => h.instr x anyLevel (fun h k c =>
    let off := (c.gr rs1).toNat
    match h.readRecord (c.hr ha) off with
    | (.error e, h) => h.except k e .none
    | (.ok b, h) =>
      let r := rec64 b
      match c.work.bind h.work with
      | some w =>
        let (st, c, h) := h.intentC c w r
        h.result k c rd (BitVec.ofNat 64 st)
      | none =>
        if h.is MER_STS_EPVALID = false then h.result k c rd (BitVec.ofNat 64 rsIntentDenied)
        else
          let (n, h) := h.issueIntents true [r]
          h.result k c rd (BitVec.ofNat 64 (if n = 0 then rsIntentFull else rsOk))))

/-! ### Waits and epochs (R169 to R171) -/

/-- QWAIT (R169). -/
def execQwait (x : Ctx) (rd rs1 rs2 : Fin 32) (s : State) : Host.Outcome State Fault Refusal :=
  s.apply (fun h => h.instr x anyLevel (fun h k c =>
    let q := (c.gr rs1).toNat
    let n := (c.gr rs2).toNat
    if h.queueThere q = false then h.result k c rd (BitVec.ofNat 64 rsBadQueue)
    else if n ≤ (h.queue q).done then h.result k c rd 0
    else h.setCtx k { c with run := .queue q n rd.val }))

/-- QWAIT_RETURN (R169). -/
def execQwaitReturn (x : Ctx) (s : State) : Host.Outcome State Fault Refusal :=
  s.apply (fun h =>
    let k := ctxKey x
    let c := h.ctx k
    match c.run with
    | .queue q n rd =>
      if n ≤ (h.queue q).done then h.result k { c with run := .running } (Fin.ofNat 32 rd) 0 else h
    | _ => h)

/-- An EPOCH instruction: a value of the job, or the value that stands for none. -/
def State.epochValue (s : State) (x : Ctx) (rd : Fin 32) (f : Head → Option Work → Nat) : Host.Outcome State Fault Refusal :=
  s.apply (fun h => h.instr x anyLevel (fun h k c => h.result k c rd (BitVec.ofNat 64 (f h (c.work.bind h.work)))))

/-- EPOCH.STAMP (R170). -/
def execEpochStamp (x : Ctx) (rd : Fin 32) (s : State) : Host.Outcome State Fault Refusal :=
  s.epochValue x rd (fun _ w => (w.map (·.stamp)).getD noEpoch)

/-- EPOCH.READ (R170). -/
def execEpochRead (x : Ctx) (rd : Fin 32) (s : State) : Host.Outcome State Fault Refusal :=
  s.epochValue x rd (fun _ w => (w.bind (·.readEpoch)).getD noEpoch)

/-- EPOCH.APPLIED (R170). -/
def execEpochApplied (x : Ctx) (rd : Fin 32) (s : State) : Host.Outcome State Fault Refusal :=
  s.epochValue x rd (fun h _ => h.applied)

/-- The value an EWAIT or EWAIT.A compares its target with, none where it names no epoch (R171). -/
def Head.waitValue (h : Head) (applied : Bool) : Option Nat :=
  let v := if applied then h.applied else h.epoch
  if applied ∧ v = noEpoch then none else some v

/-- A wait for an epoch (R171): a target met returns at once, one more than 65,536 epochs above the current value is
BAD_PARAM. -/
def Head.ewait (h : Head) (k : Nat) (c : Context) (rd : Fin 32) (t : Nat) (applied : Bool) : Head :=
  let v := if applied then h.applied else h.epoch
  if (h.waitValue applied).any (fun v => decide (t ≤ v)) then h.result k c rd 0
  else if v + 65536 < t then h.result k c rd (BitVec.ofNat 64 rsBadParam)
  else h.setCtx k { c with run := if applied then .applied t rd.val else .epoch t rd.val }

/-- EWAIT (R171). -/
def execEwait (x : Ctx) (rd rs1 : Fin 32) (s : State) : Host.Outcome State Fault Refusal :=
  s.apply (fun h => h.instr x anyLevel (fun h k c => h.ewait k c rd (c.gr rs1).toNat false))

/-- EWAIT.A (R171). -/
def execEwaitA (x : Ctx) (rd rs1 : Fin 32) (s : State) : Host.Outcome State Fault Refusal :=
  s.apply (fun h => h.instr x anyLevel (fun h k c => h.ewait k c rd (c.gr rs1).toNat true))

/-- EWAIT_RETURN (R171). A base-library entry that waited takes its step again (R185). -/
def execEwaitReturn (x : Ctx) (s : State) : Host.Outcome State Fault Refusal :=
  s.apply (fun h =>
    let k := ctxKey x
    let c := h.ctx k
    let back (t rd : Nat) (applied : Bool) : Head :=
      if (h.waitValue applied).any (fun v => decide (t ≤ v)) then
        if c.lib.wait then h.setCtx k { c with run := .running, lib := { c.lib with wait := false } }
        else h.result k { c with run := .running } (Fin.ofNat 32 rd) 0
      else h
    match c.run with
    | .epoch t rd => back t rd false
    | .applied t rd => back t rd true
    | _ => h)

/-! ### The end of a job (R172) -/

/-- CPLT: the context waits for its jobs; CPLT_FINISH completes it. -/
def execCplt (x : Ctx) (rs1 rs2 : Fin 32) (ha : Fin 8) (s : State) : Host.Outcome State Fault Refusal :=
  s.apply (fun h => h.instr x onlyC (fun h k c =>
    h.setCtx k { c with run := .ending ((c.gr rs1).toNat % 65536) (c.hr ha) (c.gr rs2).toNat }))

/-- The intents of a command as CPLT records them (R53, R54, R166): INDEX by position, LAST on the last. -/
def Head.commandIntents (h : Head) (x : Work) (rs : List Rec64) : List Rec64 :=
  rs.zipIdx.map (fun p => fillIntent p.1 h.headId x.stamp x.cseq p.2 (p.2 + 1 = rs.length) false false)

/-- The intents of a background job as CPLT records them (R166): LAST on the last. -/
def Head.backgroundIntents (h : Head) (rs : List Rec64) : List Rec64 :=
  rs.zipIdx.map (fun p =>
    if p.2 + 1 = rs.length then fillIntent p.1 h.headId (iEpoch p.1) cseqBackground (recAt p.1.toNat 20 2) true false true else p.1)

/-- The intents of a context are recorded: of a command in its stamp's epoch, of a background job in the epochs they bear. -/
def Head.recordList (h : Head) (x : Work) (rs : List Rec64) : Head :=
  if x.qp.isSome then h.recordIntents x.stamp (h.commandIntents x rs)
  else (h.backgroundIntents rs).foldl (fun h r => h.recordIntents (iEpoch r) [r]) h

/-- CPLT_FINISH (R172): with every job of the context ended the intents are recorded or discarded, the data handed over, the
other buffers returned and the status delivered. Data shorter than the command's is not handed over, and the status is RECIPE_FAULT; of
a Key Value command that reads, the bytes there are up to the host's length are handed over (R190). A buffer handed over is the front
complex's, which returns it with the command's own. Where the data cannot be read the host receives Data Transfer Error (R439). A CPLT that does not succeed releases the job's allocations (R161). -/
def Head.cpltFinish (h : Head) (k : Nat) : Head :=
  let c := h.ctx k
  match c.run, c.work with
  | .ending st data off, some w =>
    if h.jobs.any (fun e => e.2.owner = k && e.2.ended.isNone) then h
    else
      match h.work w with
      | none => h.setCtx k (Context.fresh .c .idle)
      | some x =>
        let h := if st = rsOk then h.recordList x c.intents else h
        let len := h.handleLen data
        let want := if x.reads ∧ x.cset = 1 then min x.len (len - off) else x.len
        let short : Bool := data ≠ .empty && decide (len < off + want)
        let s := if short then rsRecipeFault else st
        let bytes := if data = .empty ∨ short ∨ x.reads = false then [] else h.handleBytes data off want
        let bad := if bytes = [] ∨ s ≠ rsOk ∨ x.qp.isNone then [] else h.badHandle data off want
        let h := if st = rsOk then h else h.releaseAlloc w
        let own (b : Nat) : Bool := c.bufs.contains b && ! short && x.qp.isSome
        let given := ((((h.segsOfHandle data).getD []).map (·.buf)).filter own).eraseDups
        let h := (h.updWork w (fun x => { x with data := x.data ++ given })).freeCtx k given
        match bad with
        | [] => h.deliver w s bytes
        | _ => ((h.meetBad 3 bad).updWork w (fun x => { x with rstatus := s })).deliverNvme w (nvmeStatus 0 4 false)
  | _, _ => h

/-- CPLT_FINISH (R172). -/
def execCpltFinish (cluster : Fin 24) (engine : Fin 9) (ctx : Fin 8) (s : State) : Host.Outcome State Fault Refusal :=
  s.apply (fun h => h.cpltFinish (ctxKey (.stream cluster engine ctx)))

end Sys2Proof.Machine
end

