-- ==== Sys2Proof/Machine/Bands.lean ====
section
/-! DEFINITION. Rows, bands, the band table, the remap table and spares, the hole table, module states and capacities
(spec/09_fogbank_flash.md, R213 to R219, R242 to R246; spec/10_redundancy.md, R255, R258 to R266, R275). -/
namespace Sys2Proof.Machine
open Reg

/-! ### Geometry (R213 to R215, R255, R275) -/

/-- k and m in force for a band. -/
def Head.geomOf (h : Head) (b : Nat) : Nat × Nat :=
  if h.is PAR_STS_RESHAPING ∧ b < h.rd PAR_BOUND_BAND then (h.rd PAR_GEOM_NEWK, h.rd PAR_GEOM_NEWM)
  else (h.rd PAR_GEOM_CURK, h.rd PAR_GEOM_CURM)

/-- W: k + m, which a reshape leaves unchanged. -/
def Head.width (h : Head) : Nat := h.rd PAR_GEOM_CURK + h.rd PAR_GEOM_CURM

/-- G: the bands of a row. -/
def Head.groups (h : Head) : Nat := if h.width = 0 then 0 else h.mods / h.width

/-- Bands exist below this number (R215). -/
def Head.bandCount (h : Head) : Nat := min (2 ^ 24) (h.groups * h.rd FB_GEOM1_ROWS)

/-- The row of a band. -/
def Head.rowOf (h : Head) (b : Nat) : Nat := h.rd FB_GEOM1_ROW0 + b / h.groups

/-- The pool position of strip position `p` of a band (R214). -/
def Head.homePos (h : Head) (b p : Nat) : Nat := (b % h.groups * h.width + p + h.rowOf b) % h.mods

/-- The band of a stripe number. -/
def stripeBand (s : Nat) : Nat := s / 128
/-- The index of a stripe number. -/
def stripeIndex (s : Nat) : Nat := s % 128

/-- The row spare at index `t` of a row (R268). -/
def Head.rowSpare (h : Head) (row t : Nat) : Nat := (h.groups * h.width + t + row) % h.mods

/-! ### The band table (R216 to R219) -/

/-- FREE. -/
def bFree : Nat := 0
/-- OPEN. -/
def bOpen : Nat := 1
/-- CLOSED. -/
def bClosed : Nat := 2
/-- VICTIM. -/
def bVictim : Nat := 3
/-- ERASE_PENDING. -/
def bPending : Nat := 4
/-- ERASING. -/
def bErasing : Nat := 5
/-- RETIRED. -/
def bRetired : Nat := 6

/-- A band table entry. -/
structure Band where
  state : Nat
  oneBit : Bool
  refresh : Bool
  owner : Nat
  cls : Nat
  wptr : Nat
  erases : Nat
  live : Nat
  last : Nat
  deriving DecidableEq, Repr

/-- The address of a band table entry. -/
def Head.bandAddr (h : Head) (b : Nat) : Nat := h.rd FB_BTBASE_BASE * 2 ^ 30 + 32 * b

/-- An entry from its 32 bytes. -/
def Band.ofNat (v : Nat) : Band :=
  { state := bitsAt v 0 3, oneBit := bitAt v 3, refresh := bitAt v 4, owner := bitsAt v 5 1, cls := recAt v 1 1,
    wptr := recAt v 2 1, erases := recAt v 4 4, live := recAt v 8 8, last := recAt v 16 8 }

/-- The 32 bytes of an entry. -/
def Band.toNat (x : Band) : Nat :=
  recOf [(0, 1, x.state % 8 + 8 * x.oneBit.toNat + 16 * x.refresh.toNat + 32 * x.owner), (1, 1, x.cls), (2, 1, x.wptr),
    (4, 4, x.erases), (8, 8, x.live), (16, 8, x.last)]

/-- A band. -/
def Head.band (h : Head) (b : Nat) : Band := Band.ofNat (h.load (h.bandAddr b) 32)

/-- This head owns a band (R217). -/
def Head.ownsBand (h : Head) (b : Nat) : Bool := h.pair.twinFailed || (h.band b).owner = h.headId

/-- The bands. -/
def Head.bands (h : Head) : List Nat := List.range h.bandCount

/-- The stripes a band of a mode holds. -/
def Head.stripesOf (h : Head) (oneBit : Bool) : Nat := if oneBit then h.rd FB_GEOM0_SPB1 else h.rd FB_GEOM0_SPBF

/-- No stripe of a band waits to become durable: none of this head's, and no data reference of either head's (R222). -/
def Head.bandDurable (h : Head) (b : Nat) : Bool :=
  ! h.fb.stripes.any (fun e => stripeBand e.1 = b) && ! h.cmt.ring.any (fun r => r.loc ≠ 0 && stripeBand (locStripe r.loc) = b)

/-! ### Module states (ch. 10, "Module states") -/

def mNone : Nat := 0
def mOnline : Nat := 1
def mAbsent : Nat := 2
def mResync : Nat := 3
def mFailed : Nat := 4
def mReplacing : Nat := 5

/-- The state of a pool position. -/
def Head.modState (h : Head) (j : Nat) : Nat := h.rd (PAR_MOD_STATE.nth j)

/-- A state in which strips outside holes are read and written normally. -/
def modUp (s : Nat) : Bool := s = mOnline || s = mResync || s = mReplacing

/-- The module at a pool position. -/
def Head.module (h : Head) (j : Nat) : Option Module := Tbl.find h.modules j

/-! ### The remap table and spares (R215, R242, R243) -/

/-- The address of a remap entry: 4 bytes per slot, the slots of one row side by side (assumption log 13, DESIGN CHOICE). -/
def Head.remapAddr (h : Head) (j slot : Nat) : Nat := h.rd FB_RMBASE_BASE * 2 ^ 30 + 4 * (slot * 32 + j)

/-- The physical block of a slot: the entry, or the slot's own number where it is zero. -/
def Head.physical (h : Head) (j slot : Nat) : Nat :=
  let v := h.load (h.remapAddr j slot) 4
  if v = 0 then slot else v

/-- The entry of a slot whose block is retired and for which there is no spare (R243; assumption log 13, DESIGN CHOICE). -/
def deadSlot : Nat := 0xFFFFFFFF

/-- A physical block is retired (R244). -/
def Head.isRetired (h : Head) (j pblk : Nat) : Bool :=
  pblk = deadSlot || h.retiredLog.any (fun r => match r with
    | .block p _ b => p = j && b = pblk
    | _ => false)

/-- The band whose strip a slot of a row carries, none for a row spare. -/
def Head.slotBand (h : Head) (j row : Nat) : Option Nat :=
  let first := (row - h.rd FB_GEOM1_ROW0) * h.groups
  ((List.range h.groups).map (first + ·)).find? (fun b =>
    b < h.bandCount && (List.range h.width).any (fun p => h.homePos b p = j))

/-! ### The hole table (R263 to R265) -/

/-- An entry of a band's hole record. -/
structure Hole where
  pos : Nat
  tgt : Nat
  lo : Nat
  eowed : Bool
  deriving DecidableEq, Repr

/-- The address of a band's hole record. -/
def Head.holeAddr (h : Head) (b : Nat) : Nat := h.rd PAR_HTBASE_BASE * 2 ^ 30 + 16 * b

/-- The VALID entries of a 16-byte record. -/
def holesOf (v : Nat) : List Hole :=
  ((List.range 3).map (fun i => recAt v (4 * i) 4)).filterMap (fun e =>
    if bitAt (recAt e 3 1) 0 then some { pos := recAt e 0 1, tgt := recAt e 1 1, lo := recAt e 2 1, eowed := bitAt (recAt e 3 1) 1 }
    else none)

/-- The record of a list of entries. -/
def holesTo (l : List Hole) : Nat :=
  recOf (((l.take 3).zipIdx).map (fun p =>
    (4 * p.2, 4, recOf [(0, 1, p.1.pos), (1, 1, p.1.tgt), (2, 1, p.1.lo), (3, 1, 1 + 2 * p.1.eowed.toNat)])))

/-- The entries of a band. -/
def Head.holes (h : Head) (b : Nat) : List Hole := holesOf (h.load (h.holeAddr b) 16)

/-- The entry of a strip position of a band. -/
def Head.holeAt (h : Head) (b p : Nat) : Option Hole := (h.holes b).find? (·.pos = p)

/-- PAR_MODj.HOLES, PAR_RBREM and REBUILDING follow the table. -/
def Head.showHoles (h : Head) : Head :=
  let h := (List.range h.mods).foldl (fun h j =>
    h.wr (PAR_MOD_HOLES.nth j) (h.fb.holed.filter (fun b => (h.holes b).any (fun e => h.homePos b e.pos = j))).length) h
  let n := (h.fb.holed.filter (fun b => h.ownsBand b && (h.holes b).any (fun e => decide (e.lo < (h.band b).wptr)))).length
  (h.wr PAR_RBREM_BANDS n).wr PAR_STS_REBUILDING (decide (n ≠ 0)).toNat

/-- Write a band without a note: what apply does to LIVE and to the state (R218). PAR_RBREM follows where its holes are concerned. -/
def Head.putBand (h : Head) (b : Nat) (x : Band) : Head :=
  let h := (h.store (h.bandAddr b) 32 x.toNat).touch 6 0 b 0
  if h.fb.holed.contains b then h.showHoles else h

/-- A band's fields change on its owner: written, and told to the twin (R218, R219). `pos` and `pblk` name a remap; 0xFF for
none. -/
def Head.noteBand (h : Head) (b : Nat) (x : Band) (pos pblk : Nat) : Head :=
  (h.putBand b x).sendTwin (.bandNote b pblk (BitVec.ofNat 64 x.toNat) pos h.epoch)

/-- Change a band on its owner. -/
def Head.setBand (h : Head) (b : Nat) (x : Band) : Head := if h.band b = x then h else h.noteBand b x 0xFF 0

/-- Write a band's hole record as apply of a note does. -/
def Head.putHoles (h : Head) (b : Nat) (l : List Hole) : Head :=
  let h := (h.store (h.holeAddr b) 16 (holesTo l)).touch 11 0 b 0
  let rest := h.fb.holed.filter (· ≠ b)
  ({ h with fb := { h.fb with holed := if l = [] then rest else b :: rest } }).showHoles

/-- A HOLE_NOTE with the newest value of a band's record. `noteSent` keeps twice the epoch of the last note of a band, plus one
while a later change is still to be told. -/
def Head.sendHoleNote (h : Head) (b : Nat) : Head :=
  ({ h with fb := { h.fb with noteSent := Tbl.put h.fb.noteSent b (2 * h.epoch) } }).sendTwin
    (.holeNote b (BitVec.ofNat 128 (h.load (h.holeAddr b) 16)) h.epoch)

/-- The owner changes a band's entries (R264): entries that are made good are cleared, and the newest value goes to the twin in
a HOLE_NOTE, at most once per band per epoch: a change later in the epoch is told at the next boundary. -/
def Head.setHoles (h : Head) (b : Nat) (l : List Hole) : Head :=
  let w := (h.band b).wptr
  let l := l.filter (fun e => ! (e.lo = w && e.tgt = h.homePos b e.pos && ! e.eowed))
  if h.holes b = l then h
  else
    let h := h.putHoles b l
    if (Tbl.find h.fb.noteSent b).any (fun e => e / 2 = h.epoch) then
      { h with fb := { h.fb with noteSent := Tbl.put h.fb.noteSent b (2 * h.epoch + 1) } }
    else h.sendHoleNote b

/-- At a boundary the hole notes still owed go out. -/
def Head.owedHoleNotes (h : Head) : Head :=
  (h.fb.noteSent.filter (fun e => e.2 % 2 = 1)).foldl (fun h e => h.sendHoleNote e.1) h

/-! ### The lost-stripe table (R266, R270, R272) -/

/-- PAR_LOST follows. -/
def Head.showLost (h : Head) : Head := h.wr PAR_LOST_COUNT h.fb.lost.length

/-- A stripe is entered in the lost-stripe table and the retirement log; a full table takes no more (R272). -/
def Head.enterLost (h : Head) (s mask e : Nat) : Head :=
  if h.fb.lost.any (·.1 = s) then h
  else if 65536 ≤ h.fb.lost.length then (h.wr PAR_ERR_LOSTFULL 1).post 7 0x0707 2 s mask e 0
  else (({ h with fb := { h.fb with lost := Tbl.put h.fb.lost s (mask, e) } }).logRetired (.lost s mask e)).showLost

/-- This head finds a stripe lost: it is posted, entered, and told to the twin. -/
def Head.loseStripe (h : Head) (s mask : Nat) : Head :=
  if h.fb.lost.any (·.1 = s) then h
  else
    let h := (h.wr PAR_ERR_STRIPELOST 1).post 7 0x0706 2 s mask h.epoch 0
    (h.enterLost s mask h.epoch).sendTwin (.lostNote s (BitVec.ofNat 32 mask) h.epoch)

/-- The entries of a band's stripes leave the table when the band is erased; the retirement log takes their removal. -/
def Head.clearLost (h : Head) (b : Nat) : Head :=
  let gone := (h.fb.lost.filter (fun e => stripeBand e.1 = b)).map (·.1)
  let h := { h with fb := { h.fb with lost := h.fb.lost.filter (fun e => stripeBand e.1 ≠ b) } }
  (gone.foldl (fun (h : Head) s => h.logRetired (.found s)) h).showLost

/-- The pool position that holds strip position `p` of a stripe (R263), none where the strip is missing. -/
def Head.stripPos (h : Head) (s p : Nat) : Option Nat :=
  let b := stripeBand s
  match h.holeAt b p with
  | none => some (h.homePos b p)
  | some e => if stripeIndex s < e.lo then some e.tgt else none

/-- A position is writable for a stripe of a band (R260). -/
def Head.writable (h : Head) (s p : Nat) : Bool :=
  let b := stripeBand s
  match h.holeAt b p with
  | none => h.reaches (h.homePos b p) && modUp (h.modState (h.homePos b p))
  | some e => e.lo = stripeIndex s && h.reaches e.tgt && ! e.eowed

/-! ### Spares -/

/-- A block is in use as a spare: as a remap target, or its row spare as a redirect target. -/
def Head.spareTaken (h : Head) (j pblk : Nat) : Bool :=
  h.fb.spareUsed.contains (j, pblk)
    || h.fb.holed.any (fun b => (h.holes b).any (fun e => e.tgt = j && e.tgt ≠ h.homePos b e.pos && h.physical j (h.rowOf b) = pblk))

/-- The spare blocks of a pool position (R215): blocks no slot maps, row spares, and blocks released from retired bands. -/
def Head.spares (h : Head) (j : Nat) : List Nat :=
  let row0 := h.rd FB_GEOM1_ROW0
  let rows := h.rd FB_GEOM1_ROWS
  let n := ((h.module j).map (·.nblk)).getD 0
  let beyond := (List.range (n - (row0 + rows))).map (row0 + rows + ·)
  let inRows := ((List.range rows).map (row0 + ·)).filter (fun r =>
    match h.slotBand j r with
    | none => true
    | some b => (h.band b).state = bRetired)
  (beyond ++ inRows.map (h.physical j)).filter (fun p => ! h.isRetired j p && ! h.spareTaken j p)

/-- FB_SPAREj follows. -/
def Head.showSpares (h : Head) (j : Nat) : Head :=
  let gone := (h.retiredLog.filter (fun r => match r with
    | .block p _ _ => p = j
    | _ => false)).length
  (h.wr (FB_SPARE_SPARE.nth j) (h.spares j).length).wr (FB_SPARE_RETIRED.nth j) gone

/-! ### Capacities (R245) -/

/-- The data capacity of a band in KiB. -/
def Head.bandKib (h : Head) (b : Nat) : Nat := (h.geomOf b).1 * h.rd FB_GEOM0_SPBF * 256

/-- The reserve in KiB: 16 FREE bands per head. -/
def Head.reserveKib (h : Head) : Nat := 32 * (h.rd PAR_GEOM_CURK * h.rd FB_GEOM0_SPBF * 256)

/-- A sum over the bands. -/
def Head.sumBands (h : Head) (f : Nat → Band → Nat) : Nat := h.bands.foldl (fun a b => a + f b (h.band b)) 0

/-- The usable capacity in KiB. -/
def Head.usableKib (h : Head) : Nat := h.sumBands (fun b x => if x.state = bRetired then 0 else h.bandKib b) - h.reserveKib

/-- The unplaced data area of an OPEN band in KiB. -/
def Head.unplacedKib (h : Head) (b : Nat) (x : Band) : Nat :=
  let left := (h.stripesOf x.oneBit - x.wptr) * (h.geomOf b).1 * 256
  match Tbl.find h.fb.stripes (b * 128 + x.wptr) with
  | some st => left - st.dataEnd / 16
  | none => left

/-- The free capacity in KiB with the reserve still in it. -/
def Head.freeKib (h : Head) : Nat :=
  h.sumBands (fun b x => if x.state = bFree then h.bandKib b else if x.state = bOpen then h.unplacedKib b x else 0)

/-- FB_CAPF and FB_CAPH follow; FULL clears once the free capacity exceeds the headroom again (R246). -/
def Head.showFree (h : Head) : Head :=
  let h := h.wr FB_CAPF_MIB ((h.freeKib - h.reserveKib) / 1024)
  let h := h.wr FB_CAPH_MIB (h.rd FB_CAPU_MIB * h.rd FB_CTL_HEADBP / 10000)
  if h.rd FB_CAPH_MIB < h.rd FB_CAPF_MIB then { (h.wr FB_STS_FULL 0) with fb := { h.fb with lowPosted := false } } else h

/-- Foreground collection is entered below FGBP basis points of FB_CAPU (R235), with its first allowance (R236). -/
def Head.fgEnter (h : Head) : Head :=
  let f := h.rd FB_CAPF_MIB
  let u := h.rd FB_CAPU_MIB
  if h.is FB_STS_FG = false ∧ f * 10000 < h.rd FB_CTL_FGBP * u then
    let h := { h with fe := { h.fe with allowance := max (h.rd FB_CREDIT_KIB) (h.rd FB_CTL_FGMIN) } }
    (h.wr FB_STS_FG 1).post 6 0x0601 1 f u h.epoch 0
  else h

/-- The capacities are recomputed (R245). -/
def Head.recompute (h : Head) : Head :=
  let old := h.rd FB_CAPU_MIB
  let h := (h.wr FB_CAPU_MIB (h.usableKib / 1024)).showFree
  if h.rd FB_CAPU_MIB = old then h else h.post 6 0x0606 1 old (h.rd FB_CAPU_MIB) (h.rd FB_CAPF_MIB) 0

/-- The command's headroom is reached (R246). -/
def Head.capacityLow (h : Head) : Head :=
  let h := h.wr FB_STS_FULL 1
  if h.fb.lowPosted then h
  else ({ h with fb := { h.fb with lowPosted := true } }).post 6 0x060C 1 (h.rd FB_CAPF_MIB) (h.rd FB_CAPH_MIB)
    (h.rd CX_FREE_COUNT) 0

end Sys2Proof.Machine
end

