-- ==== Sys2Proof/Machine/Media.lean ====
section
/-! DEFINITION. The self-describing media format and the erasure code (spec/11_media_format.md, R286 to R302;
spec/10_redundancy.md, R255 to R257; spec/06_terdan_stream_instructions.md, R159). -/
namespace Sys2Proof.Machine

/-! ### The field GF(2^8) and the code (R257) -/

/-- Multiplication by α = 0x02. -/
def gfTwo (a : Byte) : Byte := if a.getLsbD 7 then (a <<< 1) ^^^ 0x1D#8 else a <<< 1

/-- The field product, over the low `n` bits of the first factor. -/
def gfMulBits : Nat → Byte → Byte → Byte
  | 0, _, _ => 0
  | n + 1, a, b => (if a.getLsbD 0 then b else 0#8) ^^^ gfMulBits n (a >>> 1) (gfTwo b)

/-- The field product. -/
def gfMul (a b : Byte) : Byte := gfMulBits 8 a b

/-- Powers. -/
def gfPow (a : Byte) : Nat → Byte
  | 0 => 1
  | n + 1 => gfMul a (gfPow a n)

/-- The inverse of an element that is not zero. -/
def gfInv (a : Byte) : Byte := gfPow a 254

/-- The coefficient of data strip `j` in parity `i`. -/
def gfCoeff (i j : Nat) : Byte := gfPow 2 (i * j % 255)

/-- The sum of two strips. -/
def stripAdd (a b : List Byte) : List Byte := List.zipWith (· ^^^ ·) a b

/-- A strip times an element. -/
def stripMul (c : Byte) (a : List Byte) : List Byte := a.map (gfMul c)

/-- The sum of strips with their coefficients, of `n` bytes. -/
def stripSum (n : Nat) (l : List (Byte × List Byte)) : List Byte :=
  l.foldl (fun acc p => stripAdd acc (stripMul p.1 p.2)) (List.replicate n 0)

/-- Parity strip `i` of data strips of `n` bytes. -/
def parityStrip (n i : Nat) (data : List (List Byte)) : List Byte :=
  stripSum n (data.zipIdx.map (fun p => (gfCoeff i p.2, p.1)))

/-- Solve a square linear system over the field whose right sides are strips: rows of coefficients with their sums. -/
def gfSolve : Nat → List (List Byte × List Byte) → List (List Byte)
  | 0, _ => []
  | n + 1, rows =>
    match rows.find? (fun r => r.1.headD 0 ≠ 0) with
    | none => List.replicate (n + 1) []
    | some p =>
      let inv := gfInv (p.1.headD 0)
      let pc := p.1.map (gfMul inv)
      let pr := stripMul inv p.2
      let rest := (rows.erase p).map (fun r =>
        let c := r.1.headD 0
        ((stripAdd r.1 (stripMul c pc)).drop 1, stripAdd r.2 (stripMul c pr)))
      let tail := gfSolve n rest
      (List.zip (pc.drop 1) tail).foldl (fun acc q => stripAdd acc (stripMul q.1 q.2)) pr :: tail

/-- PARFIX (R159): every strip of a stripe of `k` data and `m` parity strips of `n` bytes from those that survive, none where
more than `m` are missing. -/
def rebuildStrips (k m n : Nat) (strips : List (Option (List Byte))) : Option (List (List Byte)) :=
  let at_ (i : Nat) : Option (List Byte) := (strips[i]?).join
  let lost := (List.range k).filter (fun j => (at_ j).isNone)
  let have_ := (List.range m).filter (fun i => (at_ (k + i)).isSome)
  if have_.length < lost.length then none
  else
    let known : List (List Byte) := (List.range k).map (fun j => (at_ j).getD (List.replicate n 0))
    let rows := (have_.take lost.length).map (fun i =>
      (lost.map (gfCoeff i), stripAdd ((at_ (k + i)).getD []) (parityStrip n i known)))
    let sol := gfSolve lost.length rows
    let data := known.zipIdx.map (fun p =>
      match lost.findIdx? (· = p.2) with
      | some q => sol.getD q []
      | none => p.1)
    some (data ++ (List.range m).map (fun i => (at_ (k + i)).getD (parityStrip n i data)))

/-! ### Strips and seals (R256, R289, R290) -/

/-- Bytes of a strip. -/
def stripBytes : Nat := 262144

/-- Trailing zeros left out, as a strip is kept. -/
def trimZeros (b : List Byte) : List Byte := (b.reverse.dropWhile (· = 0)).reverse

/-- A seal (R289): `kind` 1 a band strip, 2 a dump unit; the fields of the two columns in the table's order. -/
def mkSeal (kind pos mode pool stripe row unit k m : Nat) (tag : List Byte) (epoch : Nat) (data : List Byte) : BitVec 512 :=
  let body := recOf [(0, 4, 0x4C414553), (4, 1, 1), (5, 1, kind), (6, 1, pos), (7, 1, mode), (8, 8, pool), (16, 4, stripe),
    (20, 4, row), (24, 4, unit), (28, 1, k), (29, 1, m), (32, 16, ofBytes tag), (48, 8, epoch),
    (56, 4, (crc32c (padTo stripBytes data)).toNat)]
  BitVec.ofNat 512 (body + (crc32c (toBytes 60 body)).toNat * 2 ^ 480)

/-- A seal's own fields are good: MAGIC, VER and SCRC (R287, R290). -/
def sealOk (s : BitVec 512) : Bool :=
  let v := s.toNat
  recAt v 0 4 = 0x4C414553 && recAt v 4 1 = 1 && (crc32c (toBytes 60 v)).toNat = recAt v 60 4

/-- DCRC agrees with a whole strip (R290). -/
def sealData (s : BitVec 512) (data : List Byte) : Bool := (crc32c (padTo stripBytes data)).toNat = recAt s.toNat 56 4

/-! ### Stripes (R291 to R293) -/

/-- The 128 bytes of a head block. -/
def headBlock (oneBit : Bool) (head cls k m stripe pool first last nchunk dataEnd : Nat) : List Byte :=
  let b := toBytes 120 (recOf [(0, 4, 0x50525453), (4, 1, 1), (5, 1, oneBit.toNat + 2 * head), (6, 1, cls), (7, 1, k), (8, 1, m),
    (12, 4, stripe), (16, 8, pool), (24, 8, first), (32, 8, last), (40, 4, nchunk), (44, 4, dataEnd)])
  b ++ toBytes 8 (crc64 b).toNat

/-- A head block passes its checks: MAGIC, VER and CRC. -/
def headBlockOk (b : List Byte) : Bool :=
  leAt b 0 4 = 0x50525453 && leAt b 4 1 = 1 && (crc64 (b.take 120)).toNat = leAt b 120 8

/-- A directory entry. -/
def dirEntry (chunk off slen : Nat) : List Byte := toBytes 16 (recOf [(0, 8, chunk), (8, 4, off), (12, 4, slen)])

/-- Units of the chunk directory of `n` entries. -/
def dirUnits (n : Nat) : Nat := ceilDiv (16 * n) 64

/-- A chunk of `s` units fits behind DATAEND in a stripe of `k` data strips (R291). -/
def fits (k dataEnd nchunk s : Nat) : Bool := dataEnd + s + dirUnits (nchunk + 1) ≤ k * 4096

/-! ### Stored chunks (R294 to R297) -/

/-- The 64-byte header of a stored chunk. -/
def chunkHeader (pdig fdig calg llen id : Nat) (p f : List Byte) : List Byte :=
  let desc := 1 + 8 * pdig + 32 * fdig + 128 * calg + 512 * (llen - 1) + 2 ^ 27 * id
  let b := toBytes 8 desc ++ padTo 32 (p.take 32) ++ padTo 16 (f.take 16)
  b ++ toBytes 8 (crc64 b).toNat

/-- What DESC says. -/
structure ChunkDesc where
  ver : Nat
  pdig : Nat
  fdig : Nat
  calg : Nat
  llen : Nat
  id : Nat
  deriving DecidableEq, Repr

/-- DESC of a header. -/
def chunkDesc (b : List Byte) : ChunkDesc :=
  let d := leAt b 0 8
  { ver := bitsAt d 0 3, pdig := bitsAt d 3 2, fdig := bitsAt d 5 2, calg := bitsAt d 7 2, llen := bitsAt d 9 18 + 1,
    id := bitsAt d 27 37 }

/-- The header's CRC is right. -/
def chunkCrcOk (b : List Byte) : Bool := (crc64 (b.take 56)).toNat = leAt b 56 8

/-- SLEN agrees with R295. -/
def slenOk (d : ChunkDesc) (slen : Nat) : Bool :=
  if d.calg = 0 then slen = 64 + max d.llen 64 else decide (d.calg ≤ 2 ∧ 128 ≤ slen)

/-- The header checks of R296 against a record's PDIG, CALG and SLEN. -/
def headerOk (b : List Byte) (id pdig calg slen : Nat) : Bool :=
  let d := chunkDesc b
  chunkCrcOk b && d.ver = 1 && d.id = id && d.pdig = pdig && d.calg = calg && slenOk d slen

/-! ### Manifests (R298) -/

/-- The logical bytes of a manifest: key, head, NSID, CSEQ, stamp, value size and entries (chunk, length). -/
def manifestBytes (key : List Byte) (head nsid cseq stamp vsize : Nat) (es : List (Nat × Nat)) : List Byte :=
  let hd := toBytes 56 (recOf [(0, 4, 0x464E414D), (4, 1, 1), (5, 1, key.length), (6, 1, head), (8, 4, nsid), (12, 4, cseq),
    (16, 8, stamp), (24, 8, vsize), (32, 16, ofBytes key), (48, 4, es.length)])
  let body := es.flatMap (fun e => toBytes 16 (recOf [(0, 8, e.1), (8, 4, e.2)]))
  hd ++ toBytes 8 (crc64 (hd ++ body)).toNat ++ body

/-- The value size and entries of a manifest, none where it fails its checks. -/
def parseManifest (b : List Byte) : Option (Nat × List (Nat × Nat)) :=
  let n := leAt b 48 4
  let body := (b.drop 64).take (16 * n)
  let es := (List.range n).map (fun i => (leAt body (16 * i) 8 % 2 ^ 37, leAt body (16 * i + 8) 4))
  if leAt b 0 4 = 0x464E414D ∧ leAt b 4 1 = 1 ∧ n ≤ 4097 ∧ 64 + 16 * n ≤ b.length
      ∧ (crc64 (b.take 56 ++ body)).toNat = leAt b 56 8 ∧ (es.map (·.2)).foldl (· + ·) 0 = leAt b 24 8 then
    some (leAt b 24 8, es)
  else none

/-! ### Segments (R299) -/

/-- The additional authenticated data of a segment: bytes 0 to 39 of its header. -/
def segmentHead (kind head table cut plen nsid page vepoch : Nat) : List Byte :=
  toBytes 40 (recOf [(0, 4, 0x54474553), (4, 1, 1), (5, 1, kind), (6, 1, head), (7, 1, table), (8, 8, cut), (16, 4, plen),
    (20, 4, nsid), (24, 8, page), (32, 8, vepoch)])

/-- The 64-byte header of a segment. -/
def segmentHeader (aad : List Byte) (nonce : Nat) : List Byte :=
  let b := aad ++ toBytes 16 nonce
  b ++ toBytes 8 (crc64 b).toNat

/-- A segment's header passes its CRC, MAGIC and VER. -/
def segmentOk (b : List Byte) : Bool :=
  leAt b 0 4 = 0x54474553 && leAt b 4 1 = 1 && (crc64 (b.take 56)).toNat = leAt b 56 8

end Sys2Proof.Machine
end

