-- ==== Sys2Proof/Machine/Stored.lean ====
section
/-! DEFINITION. Reading stored bytes: the data ring while a stripe is not durable, strips on the modules, and the degraded read
(spec/09_fogbank_flash.md, R222; spec/10_redundancy.md, R258, R263, R267; spec/06_terdan_stream_instructions.md, R163). -/
namespace Sys2Proof.Machine
open Reg

/-- What reading a strip gives. -/
inductive StripRead
  | ok (b : List Byte)
  | unreadable
  | absent
  | fenced
  deriving DecidableEq, Repr

/-- The port of the modules that this head is (R301 of the module link: head 0 is port 0). -/
def Head.side (h : Head) : Bool := h.headId = 1

/-- A range of the strip in a slot of a module: the block that the slot's row maps, at the stripe's index. -/
def Head.readSlot (h : Head) (j row index off n : Nat) : StripRead :=
  match h.module j with
  | none => .absent
  | some m =>
    if h.reaches j = false then .absent
    else if m.failed ∨ m.fatal then .unreadable
    else if bitAt m.fence h.headId then .fenced
    else
      match (Tbl.get Block.blank m.blocks (h.physical j row)).strips[index]? with
      | none => .unreadable
      | some s =>
        if sealOk s.sealRec = false ∨ (n = stripBytes ∧ sealData s.sealRec s.data = false) then .unreadable
        else .ok (padTo n ((s.data.drop off).take n))

/-- A range of strip position `p` of a stripe (R258, R263; ch. 10, "Module states"). `bad` names the positions whose inner code
fails in this read. -/
def Head.readStrip (h : Head) (bad s p off n : Nat) : StripRead :=
  let b := stripeBand s
  match h.stripPos s p with
  | none => .unreadable
  | some j =>
    let st := h.modState j
    let redirect := j ≠ h.homePos b p
    if bitAt bad p then .unreadable
    else if st = mNone ∨ (st = mFailed ∧ redirect = false) then .unreadable
    else
      match h.readSlot j (h.rowOf b) (stripeIndex s) off n with
      | .unreadable => if st = mAbsent then .absent else .unreadable
      | r => r

/-- What a reconstruction reads (R267): a range of the strips at positions in turn, those that are missing or fail to read skipped, until
enough are read. True where a read is FENCED, which ends it. -/
def Head.readSome (h : Head) (bad s off n : Nat) : Nat → List Nat → Bool × List (Nat × List Byte)
  | 0, _ => (false, [])
  | _, [] => (false, [])
  | want + 1, q :: t =>
    match h.readStrip bad s q off n with
    | .ok b => let r := h.readSome bad s off n want t; (r.1, (q, b) :: r.2)
    | .fenced => (true, [])
    | _ => h.readSome bad s off n (want + 1) t

/-- The in-strip range widened to 4 KiB boundaries: its start and length. -/
def widened (off n : Nat) : Nat × Nat := (off / 4096 * 4096, roundUp (off + n) 4096 - off / 4096 * 4096)

/-- The positions that stand beside one in a stripe, data before parity. -/
def Head.others (h : Head) (s p : Nat) : List Nat :=
  (List.range ((h.geomOf (stripeBand s)).1 + (h.geomOf (stripeBand s)).2)).filter (· ≠ p)

/-- The strips that a reconstruction of a range of position `p` reads. -/
def Head.sources (h : Head) (bad s p off n : Nat) : Bool × List (Nat × List Byte) :=
  let w := widened off n
  h.readSome bad s w.1 w.2 (h.geomOf (stripeBand s)).1 (h.others s p)

/-- The range of a strip rebuilt from the other positions (R267): unreadable where fewer than k are readable, and FENCED where a
module answers so (R163). -/
def Head.rebuildRange (h : Head) (bad s p off n : Nat) : StripRead :=
  let (k, m) := h.geomOf (stripeBand s)
  let w := widened off n
  let r := h.sources bad s p off n
  if r.1 then .fenced
  else if r.2.length < k then .unreadable
  else
    match (rebuildStrips k m w.2 ((List.range (k + m)).map (Tbl.find r.2))).bind (·[p]?) with
    | some b => .ok ((b.drop (off - w.1)).take n)
    | none => .unreadable

/-- The positions that a reconstruction of a range of position `p` tries. -/
def Head.tried (h : Head) (bad s p off n : Nat) : List Nat :=
  let used := (h.sources bad s p off n).2.map (·.1)
  if used.length < (h.geomOf (stripeBand s)).1 then h.others s p
  else (h.others s p).takeWhile (fun q => decide (q ≤ used.getLastD 0))

/-- A strip that a read finds unreadable though its module answers is counted at the port, and so are the retries that its inner code
took (R317). -/
def Head.countUnread (h : Head) (bad s off n p : Nat) : Head :=
  match h.stripPos s p with
  | none => h
  | some j =>
    if h.reaches j = false ∨ h.modState j = mNone ∨ h.modState j = mFailed ∨ h.readStrip bad s p off n ≠ .unreadable then h
    else
      let h := h.bump (ML_P_CNT_UNREAD.nth j) 1
      if bitAt bad p then h.bump (ML_P_CNT_RETRIES.nth j) (h.rd ML_CTL_RETRYMAX) else h

/-- The strips that the rebuild of a range tries are counted so. -/
def Head.countTried (h : Head) (bad s p off n : Nat) : Head :=
  (h.tried bad s p off n).foldl (fun (h : Head) q => h.countUnread bad s (widened off n).1 (widened off n).2 q) h

/-- The positions that fail to read in a stripe. -/
def Head.unread (h : Head) (bad s : Nat) : List Nat :=
  (List.range ((h.geomOf (stripeBand s)).1 + (h.geomOf (stripeBand s)).2)).filter (fun q =>
    match h.readStrip bad s q 0 stripBytes with
    | .ok _ => false
    | _ => true)

/-- Positions of a band receive entries; where its record has no room for them all, every placed stripe of the band is lost, each with
the positions of it that cannot be read (R266, R272). -/
def Head.addHoles (h : Head) (b : Nat) (new : List Hole) : Head :=
  if new = [] then h
  else
    let all := h.holes b ++ new
    let mask (i : Nat) : Nat :=
      (h.unread 0 (b * 128 + i)).foldl setBitN (((new.filter (fun e => e.lo ≤ i)).map (·.pos)).foldl setBitN 0)
    let lost := if 3 < all.length then (List.range (h.band b).wptr).map (fun i => (b * 128 + i, mask i)) else []
    lost.foldl (fun (h : Head) q => h.loseStripe q.1 q.2) (h.setHoles b (all.take 3))

/-- The pieces of an image range by strip: (position, offset, length); `fuel` bounds their number. -/
def stripRanges : Nat → Nat → Nat → List (Nat × Nat × Nat)
  | 0, _, _ => []
  | fuel + 1, o, n =>
    if n = 0 then [] else
      let len := min n (stripBytes - o % stripBytes)
      (o / stripBytes, o % stripBytes, len) :: stripRanges fuel (o + len) (n - len)

/-- What a read of stored bytes answers. -/
structure StoredRead where
  status : Nat
  degraded : Bool
  data : List Byte
  deriving DecidableEq, Repr

/-- A failed read. -/
def StoredRead.fail (status : Nat) : StoredRead := { status, degraded := false, data := [] }

/-- An image range from the strips. -/
def Head.readPieces (h : Head) (bad s : Nat) (rebuild : Bool) : List (Nat × Nat × Nat) → StoredRead
  | [] => { status := rsOk, degraded := false, data := [] }
  | (p, off, n) :: t =>
    let here : StoredRead := match h.readStrip bad s p off n with
      | .ok b => { status := rsOk, degraded := false, data := b }
      | .fenced => .fail rsFenced
      | r =>
        if rebuild then
          if h.fb.lost.any (·.1 = s) then .fail rsUnrecovered
          else match h.rebuildRange bad s p off n with
            | .ok b => { status := rsOk, degraded := true, data := b }
            | .fenced => .fail rsFenced
            | _ => .fail rsUnrecovered
        else .fail (if r = .absent then rsModuleAbsent else rsMediaError)
    if here.status ≠ rsOk then here
    else
      let rest := h.readPieces bad s rebuild t
      if rest.status ≠ rsOk then rest
      else { status := rsOk, degraded := here.degraded || rest.degraded, data := here.data ++ rest.data }

/-- The data-ring reference that holds a range of a stripe not durable (R222). -/
def Head.ringAt (h : Head) (loc n : Nat) : Option RingRef :=
  h.cmt.ring.find? (fun r => r.loc ≠ 0 && locStripe r.loc = locStripe loc && decide (locOffset r.loc ≤ locOffset loc)
    && decide (64 * locOffset loc + n ≤ 64 * (locOffset r.loc + r.units)))

/-- The control address of a data-ring offset. -/
def Head.ringAddr (h : Head) (off : Nat) : Nat := h.rd CMT_JBASE_BASE + h.intentRing + off

/-- The lines of the data ring that a read of `n` bytes at a location meets and from which no data can be read (R222, R439). -/
def Head.badStored (h : Head) (loc n : Nat) : List Nat :=
  match h.ringAt loc n with
  | some r => h.badLines (h.ringAddr (r.offset + 64 * (locOffset loc - locOffset r.loc))) n
  | none => []

/-- A location exists: its index lies within its band's mode (R213). -/
def Head.locOk (h : Head) (loc : Nat) : Bool :=
  let s := locStripe loc
  decide (stripeBand s < h.bandCount) && decide (stripeIndex s < h.stripesOf (h.band (stripeBand s)).oneBit)

/-- `n` stored bytes at a location (R163, R222); DATA_CORRUPT where the data ring cannot be read (R439; assumption log 64, DEDUCED). -/
def Head.readStored (h : Head) (bad loc n : Nat) (rebuild : Bool) : StoredRead :=
  if h.locOk loc = false then .fail rsBadParam
  else if h.badStored loc n ≠ [] then .fail rsDataCorrupt
  else
    match h.ringAt loc n with
    | some r => { status := rsOk, degraded := false,
                  data := h.bytes (h.ringAddr (r.offset + 64 * (locOffset loc - locOffset r.loc))) n }
    | none => h.readPieces bad (locStripe loc) rebuild (stripRanges 8 (64 * locOffset loc) n)

/-- The strips that a read of stored bytes tries are counted where they are unreadable (R317). -/
def Head.countRead (h : Head) (bad loc n : Nat) (rebuild : Bool) : Head :=
  let s := locStripe loc
  if h.locOk loc = false ∨ (h.ringAt loc n).isSome then h
  else (stripRanges 8 (64 * locOffset loc) n).foldl (fun (h : Head) q =>
    let again : Bool := rebuild && (match h.readStrip bad s q.1 q.2.1 q.2.2 with
      | .ok _ | .fenced => false
      | _ => true)
    let h := h.countUnread bad s q.2.1 q.2.2 q.1
    if again then h.countTried bad s q.1 q.2.1 q.2.2 else h) h

/-- The ports that a read of `n` bytes at a location uses, with the bytes read there (R252, R267). -/
def Head.readPorts (h : Head) (bad loc n : Nat) (rebuild : Bool) : List (Nat × Nat) :=
  let s := locStripe loc
  if h.locOk loc = false ∨ (h.ringAt loc n).isSome then []
  else (stripRanges 8 (64 * locOffset loc) n).flatMap (fun q =>
    match h.readStrip bad s q.1 q.2.1 q.2.2 with
    | .ok _ => ((h.stripPos s q.1).map (fun j => (j, q.2.2))).toList
    | .fenced => []
    | _ => if rebuild = false then [] else (h.sources bad s q.1 q.2.1 q.2.2).2.filterMap (fun e => (h.stripPos s e.1).map (fun j => (j, e.2.length))))

/-- A stored chunk by its record: the bytes of SLEN, read with rebuild. -/
def Head.readChunk (h : Head) (r : Nat) : StoredRead :=
  let n := stored (rSlen r)
  let x := h.readStored 0 (rLoc r) n true
  { x with data := x.data.take (rSlen r) }

/-- What UNPACK makes of a payload (R155, R295): the logical bytes, none where it fails or gives another length. A stored payload is the
bytes themselves, with zeros up to 64. -/
def unpacked (calg llen : Nat) (payload : List Byte) : Option (List Byte) :=
  if calg = 0 then
    if payload.length = max llen 64 ∧ (payload.drop llen).all (· = 0) then some (payload.take llen) else none
  else (Config.unpack calg payload).filter (fun b => b.length = llen)

/-- What the read sequence makes of a stored chunk (ch. 07, "Downdraft"): the logical bytes under a media key, or DATA_CORRUPT, as which
a LEN_MISMATCH of UNPACK counts too (R190, R191). -/
def openChunk (key : List Byte) (id record : Nat) (data : List Byte) : Except Nat (List Byte) :=
  let d := chunkDesc data
  let cipher := data.drop 64
  let payload := padTo cipher.length ((Config.decrypt 1 key (toBytes 16 id) cipher).take cipher.length)
  match unpacked d.calg d.llen payload with
  | none => .error rsDataCorrupt
  | some b => if headerOk data id (rPdig record) (rCalg record) (rSlen record) then .ok b else .error rsDataCorrupt

end Sys2Proof.Machine
end

