-- ==== Sys2Proof/Machine/Sundog.lean ====
section
/-! DEFINITION. Sundog and CHRT: lane groups, the error state, delivery, retries, software connections, send queues, regions
and EVENT reception (spec/14_sundog_and_rdma.md, R362 to R364, R370 to R397). -/
namespace Sys2Proof.Machine
open Reg

/-! ### Lane groups (R362, R363) -/

/-- The mask of groups active at this head. -/
def Head.ownActive (h : Head) : List Nat := (List.range 6).filter (fun g => h.is (SD_G_STS_ACTIVE.nth g))

/-- SD_STS.ACTIVE follows the two heads' masks (R362). -/
def Head.syncActive (h : Head) : Head :=
  let twin := (h.sd.newest.map (fun b => b.active.toNat)).getD 0
  h.wr SD_STS_ACTIVE ((h.ownActive.filter (bitAt twin)).foldl setBitN 0)

/-- A group reaching ON becomes active if fewer than five are, else a spare (R362). -/
def Head.groupOn (h : Head) (g : Nat) : Head :=
  if h.ownActive.length < 5 then (h.wr (SD_G_STS_ACTIVE.nth g) 1).syncActive else h

/-- The lowest-numbered ON spare. -/
def Head.spareGroup (h : Head) : Option Nat :=
  (List.range 6).find? (fun g => h.rd (SD_G_STS_STATE.nth g) = uOn && ! h.is (SD_G_STS_ACTIVE.nth g))

/-- Every unacknowledged packet of a connection is sent again from the oldest (R379). -/
def Conn.rewind (x : Conn) : Conn :=
  { x with out := x.out.map (fun m => { m with sent := match m.body with | .read .. => 0 | _ => min m.sent m.got }) }

/-- The connections whose carrier was a group move and retransmit at once; that counts no retry (R363, R372). -/
def Head.moveConns (h : Head) (g : Nat) : Head :=
  h.sd.conns.foldl (fun h e =>
    if e.2.carrier = some g then (h.setConn e.1 { e.2.rewind with carrier := h.carrierFor e.1 }).pump e.1 else h) h

/-- A group leaves the active set; a spare takes its place, posted with the cause unless the group was stopped (R363).
GROUP_LOST counts the groups still active (assumption log 75, DESIGN CHOICE). -/
def Head.dropGroup (h : Head) (g : Nat) (cause : Option Nat) : Head :=
  let was := h.is (SD_G_STS_ACTIVE.nth g)
  let h := (h.wr (SD_G_STS_ACTIVE.nth g) 0).syncActive
  let h := match (if was then h.spareGroup else none), cause with
    | some s, some k =>
      (((h.wr (SD_G_STS_ACTIVE.nth s) 1).syncActive).sendEvent 0x0002 g g s 0 []).post 9 0x0901 1 g s k h.epoch
    | some s, none => (h.wr (SD_G_STS_ACTIVE.nth s) 1).syncActive
    | none, some k => h.post 9 0x0902 2 g h.ownActive.length k h.epoch
    | none, none => h
  h.moveConns g

/-- A group fails (R363): causes 0 signal, 1 heartbeats, 2 retries, 3 twin report, 4 training. -/
def Head.failGroup (h : Head) (g cause : Nat) : Head :=
  if h.is (SD_G_STS_FAILED.nth g) ∨ 6 ≤ g then h else
    let unit := UnitId.laneGroup (Fin.ofNat 6 g)
    let h := (h.unitFailed unit).1
    let h := ((h.wr (SD_G_STS_FAILED.nth g) 1).wr (SD_G_STS_CAUSE.nth g) cause).wr (SD_G_STS_TRAINED.nth g) 0
    let h := h.logRetired (.laneGroup g)
    let h := if cause = 3 then h else h.sendEvent 0x0001 g g cause 0 []
    h.dropGroup g (some cause)

/-! ### The error state (R394) -/

/-- The requests admitted at a region are one more, or one fewer (R393). -/
def Head.admitted (h : Head) (i : Nat) (delta : Int) : Head :=
  { h with sd := { h.sd with regions := Tbl.upd h.sd.regions i (fun r => { r with admitted := ((r.admitted : Int) + delta).toNat }) } }

/-- The message a connection was receiving is given up: a WRITE has finished placing (R393). -/
def Head.dropIncoming (h : Head) (c : Nat) : Head :=
  match (h.conn c).incoming with
  | none => h
  | some m => (if m.write then h.admitted m.region (-1) else h).setConn c { h.conn c with incoming := none }

/-- A completion in the completion ring of a software connection, and the completion count (R389). -/
def Head.complete (h : Head) (c count status bytes : Nat) : Head :=
  let a := h.rd SD_SWCQ_BASE * 2 ^ 20 + 1024 * c + (count - 1) % 64 * 16
  (h.put a (toBytes 16 (recOf [(0, 2, status), (4, 4, bytes), (8, 8, count)]))).queueDone (0x9000 + c)

/-- Every entry of a connection completes in order: the first with a status, the rest with CONN_ERROR; a status no entry has taken stays
for the next one posted (R394). -/
def Head.flushEntries (h : Head) (c status : Nat) : Head :=
  let h := h.dropIncoming c
  let x := h.conn c
  let begun := x.out.filterMap (·.entry)
  let waiting := (h.queue (0x9000 + c)).waiting.map (·.count)
  let h := h.setConn c { x with out := [], answers := [] }
  let h := if waiting = [] then h else h.setQueue (0x9000 + c) { h.queue (0x9000 + c) with waiting := [] }
  let (h, next) := (begun ++ waiting).foldl (fun (acc : Head × Nat) n => (acc.1.complete c n acc.2 0, 4)) (h, status)
  h.setConn c { h.conn c with cause := next }

/-- A connection enters the error state (R394): CONN_ERROR to the peer where the path still works, the record, and its
entries completed. -/
def Head.connError (h : Head) (c status psn rkey : Nat) : Head :=
  let x := h.conn c
  if x.state ≠ 1 then h else
    let h := if x.udp then h.udpEvent c 0x0003 c status psn rkey else h.sendTwin (.event 0x0003 h.headId c h.epoch status psn rkey)
    let h := h.setConn c { h.conn c with state := 2, cause := status }
    let h := if c < 16 then (h.dropIncoming c).setConn c { (h.dropIncoming c).conn c with out := [], answers := [] }
      else (h.flushEntries c status).store (h.rd SD_CNBASE_BASE * 65536 + 64 * c + 1) 1 2
    (h.wr SD_ERR_CONNERR 1).post 9 0x0904 1 c status psn rkey

/-- The link is failed (R364), as far as Sundog goes: every twin connection enters the error state with LINK_DOWN. -/
def Head.linkDown (h : Head) (cause conn : Nat) : Head :=
  let h := ((h.wr SD_STS_LINKFAIL 1).wr SD_STS_LINKUP 0).wr SD_ERR_LINKFAIL 1
  let h := { h with sd := { h.sd with linkFormed := false } }
  let h := (h.sd.conns.filter (fun e => ! e.2.udp && e.2.state = 1)).foldl (fun h e => h.connError e.1 6 0 0) h
  h.post 9 0x0903 2 cause conn h.epoch 0

/-! ### Acknowledgement and retries (R376, R379, R380) -/

/-- An ACK of everything placed (R376). -/
def Head.sendAck (h : Head) (c : Nat) : Head :=
  let x := h.conn c
  (h.setConn c { x with unacked := 0 }).emit (.chrt (.ack c ((x.expPsn + 2 ^ 32 - 1) % 2 ^ 32)))

/-- A NAK. -/
def Head.sendNak (h : Head) (c syn apsn : Nat) : Head := h.emit (.chrt (.nak c syn apsn))

/-- The messages wholly acknowledged by `apsn` leave the list; a READ leaves it when its bytes are placed. -/
def ackedBy (apsn : Nat) (m : ChrtMsg) : Bool :=
  match m.body with
  | .read _ _ n _ => n ≤ m.got
  | _ => serialLe ((m.psn + m.npsn + 2 ^ 32 - 1) % 2 ^ 32) apsn

/-- The packets of a message that an ACK of `apsn` covers count as acknowledged; a READ's are its READ_RESP packets (R376). -/
def ChrtMsg.ackTo (apsn : Nat) (m : ChrtMsg) : ChrtMsg :=
  match m.body with
  | .read .. => m
  | _ => if serialLe m.psn apsn then { m with got := max m.got (min m.npsn ((apsn + 1 + 2 ^ 32 - m.psn) % 2 ^ 32)) } else m

/-- What an acknowledged message leaves behind: a completed entry, or a mirrored placement, of a head that is not fenced (R389, R164). -/
def Head.messageDone (h : Head) (c : Nat) (m : ChrtMsg) : Head :=
  let h := match m.entry with
    | some n => h.complete c n 0 m.body.length
    | none => h
  match m.job with
  | some j => if h.is FE_STS_FENCED then h else { h with jobs := Tbl.upd h.jobs j (fun x => { x with mirrored := true }) }
  | none => h

/-- An ACK that advances (R379): messages complete in order, the retry count and the wait start afresh. -/
def Head.acked (h : Head) (c apsn : Nat) : Head :=
  let x := h.conn c
  if x.state ≠ 1 ∨ x.out = [] then h else
    let done := x.out.takeWhile (ackedBy apsn)
    let rest := x.out.dropWhile (ackedBy apsn)
    let moves := done ≠ [] ∨ rest.any (fun m => decide (m.got < (m.ackTo apsn).got))
    let x := if moves then { x with retries := 0, wait := h.rd SD_CTL_RTO0, moved := false } else x
    let h := h.setConn c { x with out := rest.map (ChrtMsg.ackTo apsn) }
    (done.foldl (fun h m => h.messageDone c m) h).pump c

/-- Messages are sent again from a PSN (R379). -/
def Conn.rewindTo (x : Conn) (psn : Nat) : Conn :=
  { x with out := x.out.map (fun m =>
      if serialLe psn m.psn then { m with sent := 0 }
      else { m with sent := min m.sent ((psn + 2 ^ 32 - m.psn) % 2 ^ 32) }) }

/-- Retry exhaustion (R380), short of failing the link; the result says whether the link must fail. -/
def Head.exhausted (h : Head) (c : Nat) : Bool × Head :=
  let x := h.conn c
  if x.udp then (false, h.connError c 3 ((x.out.head?.map (·.psn)).getD 0) 0)
  else if x.moved then (true, h)
  else
    let h := h.setConn c { x with retries := 0, moved := true }
    match x.carrier with
    | some g => (false, h.failGroup g 2)
    | none => (false, h)

/-- One retry is counted (R379), doubling the wait where a wait expired; the eighth exhausts the connection. -/
def Head.retry (h : Head) (c : Nat) (double : Bool) (from_ : Option Nat) : Bool × Head :=
  let x := h.conn c
  if x.state ≠ 1 ∨ x.out = [] then (false, h)
  else if 7 ≤ x.retries then h.exhausted c
  else
    let h := h.bump SD_CNT_RETRIES 1
    let wait := if double then min (h.rd SD_CTL_RTOMAX) (2 * max x.wait (h.rd SD_CTL_RTO0)) else x.wait
    let x := { (match from_ with | some p => x.rewindTo p | none => x.rewind) with retries := x.retries + 1, wait := wait }
    (false, (h.setConn c x).pump c)

/-- NAK RNR (R379): transmission waits for RTO0. -/
def Head.nakRnr (h : Head) (c apsn : Nat) : Head :=
  let x := h.conn c
  if x.state ≠ 1 then h else (h.bump SD_CNT_NAKS 1).setConn c { x.rewindTo apsn with rnr := true }

/-- The wait after a NAK RNR ends; no retry is counted. -/
def Head.rnrExpired (h : Head) (c : Nat) : Head :=
  let x := h.conn c
  if x.rnr then (h.setConn c { x with rnr := false }).pump c else h

/-! ### Reception (R370, R375 to R378) -/

/-- What AUTH_FAIL names as the group or sub-port of a connection: its carrier, or 4 × port + sub-port as R357 numbers sub-ports
(assumption log 35, DEDUCED). -/
def Conn.path (x : Conn) : Nat := if x.udp then x.sub else x.carrier.getD 0

/-- A tag failure (R370): AUTH_FAIL at most once per epoch. -/
def Head.authFail (h : Head) (c link : Nat) : Head :=
  let h := (h.wr SD_ERR_AUTH 1).bump SD_CNT_AUTHFAIL 1
  if h.sd.authEpoch = some h.epoch then h
  else ({ h with sd := { h.sd with authEpoch := some h.epoch } }).post 9 0x0905 2 c link (h.rd SD_CNT_AUTHFAIL) h.epoch

/-- A CNP for a packet marked ECN-CE on a UDP connection (R396, R335). -/
def Head.cnpFor (h : Head) (c : Nat) (ce : Bool) : Head :=
  let x := h.conn c
  if ce ∧ x.udp ∧ h.is FE_CC_ECNEN ∧ (x.lastCnp = 0 ∨ x.lastCnp + 25 * h.rd FE_CC_CNPINT ≤ h.mer.sinceReset) then
    ((h.setConn c { x with lastCnp := h.mer.sinceReset }).bump (FE_P_CNT_CNPTX.nth (x.sub / 4)) 1).emit (.chrt (.cnp c))
  else h

/-- What is done with a packet before its contents: the checks of R370 and the sequence of R375. -/
inductive Arrival
  | drop | duplicate | accept
  deriving DecidableEq, Repr

/-- A message is dropped with NAK LENGTH (R378): the expected PSN returns to its FIRST packet. -/
def Head.lengthFault (h : Head) (c first : Nat) : Head :=
  let h := h.dropIncoming c
  ((h.setConn c { h.conn c with expPsn := first }).wr SD_ERR_LENGTH 1).sendNak c 2 first

/-- The units of a discarded packet are freed as a delivered one's are (R370). A connection in RESET that its table entry makes a UDP one
has no credits of its own until it opens. -/
def Head.creditDrop (h : Head) (c u : Nat) : Head :=
  if (h.conn c).state = 0 ∧ 16 ≤ c ∧ h.load (h.rd SD_CNBASE_BASE * 65536 + 64 * c) 1 = 2 then h else h.creditReturn c u

/-- The arrival of a packet of the PSN sequence of a connection: its units, its PSN. A FIRST packet within a message leaves that one
short of its LAST (R378). -/
def Head.arrive (h : Head) (p : ChrtPkt) : Arrival × Head :=
  let c := p.conn.val
  let u := unitsOf p.payload.length
  let x := h.conn c
  if p.frameOk = false ∨ p.verOk = false then (.drop, h.creditDrop c u)
  else if p.tagOk = false then (.drop, (h.authFail c x.path).creditDrop c u)
  else if x.state ≠ 1 then (.drop, h.creditDrop c u)
  else
    let h := (h.cnpFor c p.ce).creditReturn c u
    let x := h.conn c
    if p.psn.toNat = x.expPsn then
      (match (if p.first then x.incoming else none) with
        | some m => (.drop, h.lengthFault c m.firstPsn)
        | none => (.accept, h))
    else if serialLe x.expPsn p.psn.toNat then
      if x.nacked then (.drop, h)
      else (.drop, (h.setConn c { x with nacked := true }).sendNak c 1 x.expPsn)
    else (.duplicate, (h.bump SD_CNT_DUPS 1).sendAck c)

/-- The expected PSN advances by `n`. -/
def Head.advancePsn (h : Head) (c n : Nat) : Head :=
  let x := h.conn c
  h.setConn c { x with expPsn := (x.expPsn + n) % 2 ^ 32, nacked := false, unacked := x.unacked + 1 }

/-- An ACK is due at once (R376): a LAST packet with ACKREQ, or sixteen packets. -/
def Head.ackIfDue (h : Head) (c : Nat) (last ackReq : Bool) : Head :=
  if (last ∧ ackReq) ∨ 16 ≤ (h.conn c).unacked then h.sendAck c else h

/-! ### Regions (R391 to R393) -/

/-- A registered region of the key-check stage, none where nothing is loaded. -/
def Head.region (h : Head) (i : Nat) : Option Region := Tbl.find h.sd.regions i

/-- The journal region (R63, R83): its base and size in bytes. -/
def Head.journal (h : Head) : Nat × Nat := (h.rd CMT_JBASE_BASE, h.rd CMT_JSIZE_GIB * 2 ^ 30)

/-- The data ring: the upper three quarters of the journal region hold chunk data (R63). -/
def Head.dataRing (h : Head) : Nat × Nat :=
  let (b, n) := h.journal
  (b + n / 4, n - n / 4)

/-- The key check of R392 for a request on a connection: the region's index where it passes. -/
def Head.keyOk (h : Head) (c key addr len : Nat) (write : Bool) : Option Nat :=
  let i := key % 2 ^ 24
  if i < 16 then
    let (b, n) := if i = 0 then h.dataRing else h.journal
    let ok := (i = 0 && write && decide (2 ≤ c) && decide (c ≤ 11)) || (i = 1 && ! write && c = 12)
    if ok ∧ b ≤ addr ∧ addr + len ≤ b + n then some i else none
  else
    match h.region i with
    | none => none
    | some r =>
      if 16 ≤ c ∧ r.valid ∧ r.key = key ∧ bitAt r.perm (if write then 0 else 1) ∧ (r.conn = 0xFFFF ∨ r.conn = c)
          ∧ r.base ≤ addr ∧ addr + len ≤ r.base + r.len then some i else none

/-- REMOTE_ACCESS (R392): the request is not placed or read, and the connection enters the error state. -/
def Head.remoteAccess (h : Head) (c psn key : Nat) : Head := (h.sendNak c 3 psn).connError c 2 psn key

/-- A chunk the twin mirrored stands whole in the data ring (R63, R164): its reference takes the chunk ID from the stored
header, and its epoch and location once the intent that names it is received (assumption log 14, DESIGN CHOICE). References it overwrites are
gone. -/
def Head.ringIn (h : Head) (a n : Nat) : Head :=
  let off := a - h.dataRing.1
  let r : RingRef := { chunk := bitsAt (h.load a 8) 27 37, origin := 1 - h.headId, offset := off, units := ceilDiv n 64,
                       epoch := none, loc := 0 }
  let rest := h.cmt.ring.filter (fun q => q.offset + 64 * q.units ≤ off || off + n ≤ q.offset)
  { h with cmt := { h.cmt with ring := rest ++ [r] } }

/-- A WRITE packet (R377, R378, R392). -/
def Head.chrtWrite (h : Head) (p : ChrtPkt) : Head :=
  let c := p.conn.val
  match h.arrive p with
  | (.accept, h) =>
    let x := h.conn c
    let psn := p.psn.toNat
    let mlen := p.mlen.toNat
    if p.plen.toNat ≠ p.payload.length ∨ x.payload < p.payload.length then
      h.lengthFault c ((x.incoming.map (·.firstPsn)).getD psn)
    else
      let start : Option Incoming := if p.first then
          (h.keyOk c p.rkey.toNat p.raddr.toNat mlen true).map (fun i =>
            { firstPsn := psn, mlen := mlen, got := 0, write := true, mtype := 0, raddr := p.raddr.toNat, region := i, data := [] })
        else x.incoming.filter (·.write)
      match start with
      | none => if p.first then h.remoteAccess c psn p.rkey.toNat else h.lengthFault c psn
      | some m =>
        let got := m.got + p.payload.length
        if m.mlen ≠ mlen ∨ 8388608 < mlen ∨ mlen < got ∨ (p.last ∧ got ≠ mlen) then h.lengthFault c m.firstPsn
        else
          let h := if p.first then h.admitted m.region 1 else h
          let h := (h.dmaWrite (m.raddr + m.got) 4 p.payload).2
          let h := h.advancePsn c 1
          let h := h.setConn c { h.conn c with incoming := if p.last then none else some { m with got := got } }
          let h := if p.last then h.admitted m.region (-1) else h
          let h := if p.last ∧ m.region = 0 then h.ringIn m.raddr m.mlen else h
          h.ackIfDue c p.last p.ackReq
  | (_, h) => h

/-- The READ_RESP packets of a read of [a, a+n) from PSN `psn` (R368), sent as credits allow (R373). -/
def Head.readResponses (h : Head) (c psn a n : Nat) : Head :=
  let p := (h.conn c).payload
  let (data, h) := h.dmaRead a n 4
  match data with
  | none => (h.sendNak c 5 psn).connError c 2 psn 0
  | some d =>
    let k := max 1 (ceilDiv n p)
    let parts := (List.range k).map (fun i =>
      ({ psn := (psn + i) % 2 ^ 32, mlen := n, first := i = 0, last := i + 1 = k, data := (d.drop (i * p)).take p } : ReadAnswer))
    (h.setConn c { h.conn c with answers := (h.conn c).answers ++ parts }).sendAnswers c

/-- A READ_REQ (R377, R391): key-checked and answered; a duplicate is answered by reading again (R375). -/
def Head.chrtReadReq (h : Head) (p : ChrtPkt) : Head :=
  let c := p.conn.val
  let n := p.mlen.toNat
  let serve (h : Head) (fresh : Bool) : Head :=
    if 8388608 < n then h.lengthFault c p.psn.toNat
    else match h.keyOk c p.rkey.toNat p.raddr.toNat n false with
      | none => h.remoteAccess c p.psn.toNat p.rkey.toNat
      | some _ =>
        let h := if fresh then h.advancePsn c (max 1 (ceilDiv n (h.conn c).payload)) else h
        h.readResponses c p.psn.toNat p.raddr.toNat n
  match h.arrive p with
  | (.accept, h) => serve h true
  | (.duplicate, h) => serve h false
  | (.drop, h) => h

/-- A READ_RESP packet (R368, R376, R378): its bytes are placed for the READ whose PSNs hold its own; the READ completes when
every byte is placed, and a sequence of the wrong total is dropped with NAK LENGTH. -/
def Head.chrtReadResp (h : Head) (p : ChrtPkt) : Head :=
  let c := p.conn.val
  let x := h.conn c
  let u := unitsOf p.payload.length
  if p.frameOk = false ∨ p.verOk = false then h.creditDrop c u
  else if p.tagOk = false then (h.authFail c x.path).creditDrop c u
  else if x.state ≠ 1 then h.creditDrop c u
  else
    let h := h.creditReturn c u
    let hit (m : ChrtMsg) : Bool := serialLe m.psn p.psn.toNat && ! serialLe ((m.psn + m.npsn) % 2 ^ 32) p.psn.toNat
    match x.out.find? hit with
    | none => h
    | some m =>
      match m.body with
      | .read _ _ n laddr =>
        let off := (p.psn.toNat + 2 ^ 32 - m.psn) % 2 ^ 32 * x.payload
        if p.plen.toNat ≠ p.payload.length ∨ n < off + p.payload.length ∨ (p.last ∧ off + p.payload.length ≠ n) then
          ((h.wr SD_ERR_LENGTH 1).sendNak c 2 m.psn)
        else if off ≠ m.got then h
        else
          let h := (h.dmaWrite (laddr + off) 4 p.payload).2
          let y := h.conn c
          let out := y.out.map (fun q => if q.psn = m.psn then { q with got := off + p.payload.length } else q)
          (h.setConn c { y with out := out, retries := 0, wait := h.rd SD_CTL_RTO0, moved := false }).acked c ((m.psn + 2 ^ 32 - 1) % 2 ^ 32)
      | _ => h

/-! ### Control messages received (R384) -/

/-- A control SEND of `n` bytes is delivered on connection 0 or 1: the PSN, the credits and the acknowledgement. It is
discarded where the connection is not READY. -/
def Head.controlIn (h : Head) (c n : Nat) (f : Head → Head) : Head :=
  if (h.conn c).state ≠ 1 then h
  else f (((h.creditReturn c (unitsOf n)).advancePsn c 1).ackIfDue c true true)

/-- An unknown or malformed control SEND (R384). -/
def Head.controlUnknown (h : Head) (c n : Nat) : Head := h.controlIn c n (fun h => h.wr SD_ERR_PROTO 1)

/-- A received EVENT goes to the event ring (R395); GROUP_DOWN fails the group. -/
def Head.eventIn (h : Head) (code side about epoch p0 p1 p2 : Nat) : Head :=
  let pi := h.rd SD_EVRING_PI
  let h := h.put (h.rd SD_EVRING_BASE * 2 ^ 14 + 64 * pi) (eventBytes code side about epoch p0 p1 p2)
  let h := (h.wr SD_EVRING_PI ((pi + 1) % 256)).raise (h.rd SD_CTL_EVCORE) 1
  let h := h.post 9 0x0906 1 code p0 p1 p2
  if code = 0x0001 then h.failGroup p0 3 else h

/-! ### Software connections (R385 to R390) -/

/-- The address of a connection's table entry. -/
def Head.cnEntry (h : Head) (c : Nat) : Nat := h.rd SD_CNBASE_BASE * 65536 + 64 * c

/-- The fields of a connection entry are in range (R385, R386); the key slot is one that level S may name (R157). -/
def Head.cnEntryOk (h : Head) (c : Nat) : Bool :=
  let e := h.cnEntry c
  let type := h.load e 1
  let rxn := h.load (e + 12) 4
  let rxbase := h.load (e + 16) 8
  let common := (type = 1 || type = 2) && h.load (e + 1) 1 = 0 && decide (h.load (e + 2) 2 < 1024)
    && decide (h.load (e + 7) 1 < 32) && decide (1 ≤ rxn) && decide (rxn ≤ 4096) && rxbase % 64 = 0
    && h.inMemory rxbase (4160 * rxn) && h.load (e + 48) 16 = 0
  let udp := decide (h.load (e + 4) 1 < 32) && decide (1 ≤ h.load (e + 5) 1) && decide (h.load (e + 5) 1 ≤ 3)
    && decide (h.load (e + 6) 1 < 2) && decide (256 ≤ h.load (e + 8) 2)
  common && (type = 1 || udp)

/-- SD_CNCTL ACTION 1 (R386): the entry is checked, both PSNs start at 0, STATE becomes READY. -/
def Head.openConn (h : Head) (c : Nat) : Head :=
  if c < 16 ∨ (h.conn c).state ≠ 0 ∨ h.cnEntryOk c = false then h.wr SD_ERR_CFGERR 1
  else
    let e := h.cnEntry c
    let udp := h.load e 1 = 2
    let port := h.load (e + 4) 1 % 8
    let x : Conn := { Conn.reset with state := 1, udp := udp, sub := 4 * port + h.load (e + 4) 1 / 8, rate := 1000 * h.subRate port,
                                      pmtu := [0, 1024, 2048, 4096].getD (h.load (e + 5) 1) 4096, peer := h.load (e + 2) 2,
                                      keySlot := h.load (e + 8) 2, wait := h.rd SD_CTL_RTO0,
                                      credGrant := 1024 }
    ((h.setConn c x).setQueue (0x9000 + c) Queue.fresh).store (e + 1) 1 1

/-- SD_CNCTL ACTION 2 (R386): the outstanding entries complete with CONN_ERROR; RXPI and RXCI are zeroed. -/
def Head.resetConn (h : Head) (c : Nat) : Head :=
  if c < 16 then h.wr SD_ERR_CFGERR 1
  else
    let h := if (h.conn c).state = 0 then h else h.flushEntries c 4
    let e := h.cnEntry c
    ((h.setConn c Conn.reset).store (e + 1) 1 0).store (e + 40) 8 0

/-- A SEND delivered on a software connection (R390). -/
def Head.softSend (h : Head) (p : ChrtPkt) : Head :=
  let c := p.conn.val
  let e := h.cnEntry c
  let pi := h.load (e + 40) 4
  let n := p.payload.length
  if (h.conn c).state = 1 ∧ p.frameOk ∧ p.verOk ∧ p.tagOk ∧ p.mtype ≠ 0x20 ∧ p.psn.toNat = (h.conn c).expPsn
      ∧ (pi + 2 ^ 32 - h.load (e + 44) 4) % 2 ^ 32 = h.load (e + 12) 4 then
    (h.creditReturn c (unitsOf n)).sendNak c 4 p.psn.toNat
  else
    match h.arrive p with
    | (.accept, h) =>
      if p.plen.toNat ≠ n ∨ p.mlen.toNat ≠ n ∨ 4096 < n ∨ p.first = false ∨ p.last = false then h.lengthFault c p.psn.toNat
      else
        let h := h.advancePsn c 1
        let h := if p.mtype = 0x20 then
            h.eventIn (leAt p.payload 0 2) (leAt p.payload 2 1) (leAt p.payload 4 4) (leAt p.payload 8 8)
              (leAt p.payload 16 8) (leAt p.payload 24 8) (leAt p.payload 32 8)
          else
            let slot := h.load (e + 16) 8 + 4160 * (pi % h.load (e + 12) 4)
            let h := h.put slot (toBytes 64 (recOf [(0, 4, n), (4, 4, p.psn.toNat), (8, 1, p.mtype.toNat)]) ++ p.payload)
            (h.store (e + 40) 4 ((pi + 1) % 2 ^ 32)).raise (h.load (e + 7) 1) 1
        h.ackIfDue c p.last p.ackReq
    | (_, h) => h

/-! ### Send queues (R387 to R389) -/

/-- The fields of a send-queue entry are in range (R387). -/
def sqEntryOk (r : Nat) : Bool :=
  let opc := recAt r 0 1
  let len := recAt r 4 4
  decide (recAt r 1 1 < 2) && recAt r 3 1 = 0 && recAt r 30 2 = 0 && recAt r 40 24 = 0 &&
    (match opc with
      | 0 => len = 0
      | 1 => decide (1 ≤ len) && decide (len ≤ 4096)
      | 2 | 3 => decide (1 ≤ len) && decide (len ≤ 8388608)
      | _ => false)

/-- The check of an entry at posting: the local range lies in memory and, at level S, in the poster's windows (R387). -/
def Head.sqPostOk (h : Head) (o : Origin) (l : Level) (r : Nat) : Bool :=
  let len := recAt r 4 4
  let a := recAt r 8 8
  let kind := if recAt r 0 1 = 3 then AccessKind.store else AccessKind.load
  sqEntryOk r && (recAt r 0 1 = 0 || (h.inMemory a len && (l = .v || h.granted o a len kind)))

/-- An entry is posted to the send queue of a connection; in the error state it completes at once (R394). -/
def Head.sqPost (h : Head) (o : Origin) (l : Level) (c : Nat) (body : Rec64) : Nat × Head :=
  let (n, h) := h.enqueue (0x9000 + c) (h.sqPostOk o l body.toNat) body
  (n, if (h.conn c).state = 2 then h.flushEntries c (h.conn c).cause else h)

/-- The entry at the front of a send queue completes without being sent. -/
def Head.sqFail (h : Head) (c : Nat) (e : QEntry) (status : Nat) : Head :=
  let q := 0x9000 + c
  let h := h.setQueue q { h.queue q with waiting := (h.queue q).waiting.drop 1 }
  h.complete c e.count status 0

/-- The entry at the front of a connection's send queue begins, where it is of opcode `opc` and its CHAIN condition holds
(R388). Entries complete in posting order, so one that completes without being sent waits for those sent before it. -/
def Head.sqBegin (h : Head) (c opc : Nat) : Head :=
  let q := 0x9000 + c
  match (h.queue q).waiting with
  | [] => h
  | e :: t =>
    let r := e.body.toNat
    let quiet := (h.conn c).out.all (fun m => m.entry.isNone)
    let chain := bitAt (recAt r 1 1) 0
    let wq := recAt r 28 2
    let wc := recAt r 32 8
    if recAt r 0 1 ≠ opc ∨ (h.conn c).state ≠ 1 then h
    else if e.ok = false then (if quiet then h.sqFail c e 1 else h)
    else if chain ∧ h.queueThere wq = false then (if quiet then h.sqFail c e 5 else h)
    else if chain ∧ wq = q ∧ e.count ≤ wc then (if quiet then h.sqFail c e 1 else h)
    else if chain ∧ (h.queue wq).done < wc then h
    else if opc = 0 then (if quiet then h.sqFail c e 0 else h)
    else
      let len := recAt r 4 4
      let a := recAt r 8 8
      let h := h.setQueue q { h.queue q with waiting := t }
      if opc = 3 then h.sendBody c (.read (recAt r 16 8) (recAt r 24 4) len a) (some e.count) none
      else
        let (d, h) := h.dmaRead a len 4
        match d with
        | none => h.complete c e.count 1 0
        | some d =>
          h.sendBody c (if opc = 1 then .send (recAt r 2 1) d else .write (recAt r 16 8) (recAt r 24 4) d) (some e.count) none

/-! ### Region registers (R391, R393) -/

/-- The address of a region table entry. -/
def Head.mrEntry (h : Head) (i : Nat) : Nat := h.rd SD_MRBASE_BASE * 4096 + 32 * i

/-- A write of SD_MRREG (R391, R393): the stage loads its copy of the entry; requests admitted before go on. -/
def Head.mrReg (h : Head) (i : Nat) : Head :=
  if i < 16 ∨ 2 ^ h.rd SD_MRBASE_LOG ≤ i ∨ h.is SD_MRREV_BUSY then h.wr SD_ERR_CFGERR 1
  else
    let e := h.mrEntry i
    let perm := h.load (e + 20) 1
    let r : Region := { base := h.load e 8, len := h.load (e + 8) 8, key := h.load (e + 16) 4, perm := perm,
                        conn := h.load (e + 22) 2, valid := bitAt perm 2 && h.load (e + 16) 4 % 2 ^ 24 = i,
                        admitted := ((h.region i).map (·.admitted)).getD 0 }
    { h with sd := { h.sd with regions := Tbl.put h.sd.regions i r } }

/-- A write of SD_MRREV (R393): the revocation instant. -/
def Head.mrRev (h : Head) (i : Nat) : Head :=
  if i < 16 ∨ 2 ^ h.rd SD_MRBASE_LOG ≤ i ∨ h.is SD_MRREV_BUSY then h.wr SD_ERR_CFGERR 1
  else
    let e := h.mrEntry i
    let h := { h with sd := { h.sd with regions := Tbl.upd h.sd.regions i (fun r => { r with valid := false }), revoking := some i } }
    (h.wr SD_MRREV_BUSY 1).store (e + 20) 1 (clrBitN (h.load (e + 20) 1) 2)

/-- BUSY clears when every request admitted before the revocation has finished (R393). -/
def Head.mrDrain (h : Head) : Head :=
  match h.sd.revoking with
  | none => h
  | some i =>
    let left := ((h.region i).map (·.admitted)).getD 0
    if left = 0 then { (h.wr SD_MRREV_BUSY 0) with sd := { h.sd with revoking := none } } else h

/-! ### Received on UDP (R396) -/

/-- The send rate of a UDP connection in Mb/s: what it was at the last CNP, raised for each RECOVER microseconds since (R335). -/
def Head.connRate (h : Head) (x : Conn) : Nat :=
  min (1000 * h.subRate (x.sub / 4)) (x.rate + (h.mer.sinceReset - x.cnpIn) / (25 * h.rd FE_CC_RECOVER) * h.rd FE_CC_RAI)

/-- A CNP cuts a UDP connection's rate (R335, R396), at most once in CNPINT microseconds. -/
def Head.connCnp (h : Head) (c : Nat) : Head :=
  let x := h.conn c
  if x.udp = false ∨ x.state ≠ 1 then h
  else
    let now := h.mer.sinceReset
    let due : Bool := match x.lastCut with
      | some t => decide (t + 25 * h.rd FE_CC_CNPINT ≤ now)
      | none => true
    let y : Conn := if h.is FE_CC_ECNEN = false then x
      else if due then { x with rate := max (h.connRate x / 2) (100 * h.rd FE_CC_MINRATE), cnpIn := now, lastCut := some now }
      else { x with rate := h.connRate x, cnpIn := now }
    (h.setConn c y).bump (FE_P_CNT_CNPRX.nth (x.sub / 4)) 1

/-- A CREDIT (R373, R374): the newest grants, compared modulo 2^32. -/
def Head.creditIn (h : Head) (conn : Option Nat) (grants : List Nat) : Head :=
  match conn with
  | some c =>
    let x := h.conn c
    let g := grants.getD 0 0
    if x.udp ∧ x.state = 1 ∧ serialLe x.credGrant g then (h.setConn c { x with credGrant := g }).pump c else h
  | none =>
    let h := (List.range 4).foldl (fun h v =>
      let g := grants.getD v 0
      if serialLe (vcGet h.sd.grants v) g then { h with sd := { h.sd with grants := vcSet h.sd.grants v g } } else h) h
    (h.showCredits).pumpAll

end Sys2Proof.Machine
end

