-- ==== Sys2Proof/Machine/Placing.lean ====
section
/-! DEFINITION. Placing stored chunks: open bands and stripes, the data rings, closing, programming and durability
(spec/09_fogbank_flash.md, R220 to R223, R231; spec/10_redundancy.md, R260, R263; spec/06_terdan_stream_instructions.md, R164). -/
namespace Sys2Proof.Machine
open Reg

/-! ### Background jobs (R167) -/

/-- An entry of background queue 0xFF00 + `cls` becomes a job: row 0, CSET 2, OPC `cls`. -/
def Head.postBackground (h : Head) (cls : Nat) (body : Rec64) : Nat × Head :=
  let q := 0xFF00 + cls
  let x := h.queue q
  let n := x.posted + 1
  let w : Work :=
    { from_ := .background cls n, capsule := body, nsid := 0, ctrl := 0, row := 0, group := 0, cset := 2, opc := cls, len := 0,
      lba := 0, keyBytes := [], reads := false, writes := false, stamp := noEpoch, cseq := 0, readEpoch := none, cap := none,
      data := [], segs := [], hostData := [], keys := [], inval := false, credit := false, bound := none, left := none, repair := false,
      rstatus := 0, dw0 := 0, discard := false, since := 0, abort := none, starved := none, state := .ready }
  (n, (h.setQueue q { x with posted := n }).addWork w |>.2)

/-- Fogbank posts a job for a stripe (R233): KIND 0 collection, 1 fold, 2 re-place. -/
def Head.postStripeJob (h : Head) (cls s kind : Nat) : Head :=
  (h.postBackground cls (BitVec.ofNat 512 (recOf [(0, 8, s), (8, 1, kind)]))).2

/-! ### Opening a band (R220, R231, R276) -/

/-- The key of a class's open band: kind 0 one-bit host, 1 full-density host, 2 collection. -/
def openKey (cls kind : Nat) : Nat := cls * 4 + kind

/-- Bands in one-bit mode that are OPEN, CLOSED or VICTIM. -/
def Head.oneBitBands (h : Head) : Nat :=
  (h.bands.filter (fun b => (h.band b).oneBit && decide (1 ≤ (h.band b).state ∧ (h.band b).state ≤ 3))).length

/-- FB_BUF.CUR follows. -/
def Head.showBuf (h : Head) : Head :=
  if h.bandCount = 0 then h else h.wr FB_BUF_CUR (h.oneBitBands * 10000 / h.bandCount)

/-- The bands that may be opened (R276): FREE bands this head owns outside the range a reshape clears, those below the boundary
first. -/
def Head.openable (h : Head) : List Nat :=
  let free := h.bands.filter (fun b => (h.band b).state = bFree && (h.band b).owner = h.headId || (h.band b).state = bFree && h.pair.twinFailed)
  if h.is PAR_STS_RESHAPING then
    let bound := h.rd PAR_BOUND_BAND
    free.filter (· < bound) ++ free.filter (fun b => bound + 128 ≤ b)
  else free

/-- FB_STS.BUFDIRECT follows (R231): a BUF class writes a host band of full density. -/
def Head.showDirect (h : Head) : Head :=
  h.wr FB_STS_BUFDIRECT (h.fb.opens.any (fun e => e.1 % 4 = 1 && h.is (FB_PCL_BUF.nth (e.1 / 4)))).toNat

/-- A band is opened for a class and kind, the lowest-numbered that may be (assumption log 15, DESIGN CHOICE); `host` keeps off the reserve. -/
def Head.openBand (h : Head) (cls kind : Nat) (host : Bool) : Option (Nat × Head) :=
  let l := h.openable
  if host ∧ l.length ≤ 16 then none
  else
    match l.head? with
    | none => none
    | some b =>
      let h := h.setBand b { h.band b with state := bOpen, oneBit := kind = 0, cls := cls, wptr := 0, refresh := false }
      some (b, ({ h with fb := { h.fb with opens := Tbl.put h.fb.opens (openKey cls kind) b } }).showBuf.showDirect)

/-- The kind of band a host chunk of a class goes to (R220, R231): an open host band, else the mode R231 chooses. -/
def Head.hostKind (h : Head) (cls : Nat) : Nat :=
  if h.is (FB_PCL_BUF.nth cls) = false then 1
  else if (Tbl.find h.fb.opens (openKey cls 0)).isSome then 0
  else if (Tbl.find h.fb.opens (openKey cls 1)).isSome then 1
  else if h.oneBitBands < h.rd FB_BUF_TARGET * h.bandCount / 10000 then 0 else 1

/-! ### Stripes -/

/-- A stripe of this head. -/
def Head.stripe (h : Head) (s : Nat) : Option StripeSt := Tbl.find h.fb.stripes s

/-- Replace it. -/
def Head.setStripe (h : Head) (s : Nat) (x : StripeSt) : Head :=
  { h with fb := { h.fb with stripes := Tbl.put h.fb.stripes s x } }

/-- A band receives no further stripe. -/
def Head.unopen (h : Head) (b : Nat) : Head :=
  ({ h with fb := { h.fb with opens := h.fb.opens.filter (·.2 ≠ b) } }).showDirect

/-- A band is closed. -/
def Head.closeBand (h : Head) (b : Nat) : Head :=
  let x := h.band b
  let h := h.unopen b
  if x.state = bOpen then h.setBand b { x with state := bClosed } else h

/-- A stripe is closed (R221): its band's WPTR passes it, and the band is closed with its last stripe. -/
def Head.closeStripe (h : Head) (s : Nat) : Head :=
  match h.stripe s with
  | none => h
  | some st =>
    if st.phase ≠ .open_ then h
    else
      let b := stripeBand s
      let x := h.band b
      let h := h.setStripe s { st with phase := .closed }
      let w := stripeIndex s + 1
      let h := h.setBand b { x with wptr := w }
      (if h.stripesOf x.oneBit ≤ w then h.closeBand b else h).showFree

/-- A stripe in which not even the smallest stored chunk fits any more, two units with its header (R295), is full and closed (R221). -/
def Head.closeFull (h : Head) (s : Nat) (st : StripeSt) : Head :=
  if fits (h.geomOf (stripeBand s)).1 st.dataEnd (st.dir.length + st.segments.length) 2 then h else h.closeStripe s

/-- Room in an open stripe for one more piece of `u` units, opening bands and stripes as needed; `fuel` bounds the stripes
closed. The result is the stripe and its state; a stripe begun is charged to `charge`. -/
def Head.roomFor (h : Head) (cls kind u : Nat) (host : Bool) (charge : Option Nat) : Nat → Option (Nat × StripeSt × Head)
  | 0 => none
  | fuel + 1 =>
    let found : Option (Nat × Head) := match Tbl.find h.fb.opens (openKey cls kind) with
      | some b => some (b, h)
      | none => h.openBand cls kind host
    match found with
    | none => none
    | some (b, h) =>
      let s := b * 128 + (h.band b).wptr
      let fresh : StripeSt :=
        { cls := cls, oneBit := kind = 0, opened := h.epoch, dataEnd := 2, dir := [], segments := [], first := noEpoch, last := 0,
          phase := .open_, todo := [], skip := [], charge := charge }
      let st := (h.stripe s).getD fresh
      if fits (h.geomOf b).1 st.dataEnd (st.dir.length + st.segments.length) u then some (s, st, h)
      else ((h.setStripe s st).closeStripe s).roomFor cls kind u host charge fuel

/-! ### The data ring (R63, R164) -/

/-- A range of the data ring is free. -/
def Head.ringFree (h : Head) (off n : Nat) : Bool :=
  h.cmt.ring.all (fun r => decide (r.offset + 64 * r.units ≤ off) || decide (off + n ≤ r.offset))

/-- Where this head places `u` units in its half of the data ring (assumption log 14, DESIGN CHOICE): the lowest place that is free. -/
def Head.ringAlloc (h : Head) (u : Nat) : Option Nat :=
  let half := h.dataRingSize / 128 * 64
  let base := h.headId * half
  let ends := (h.cmt.ring.map (fun r => r.offset + 64 * r.units)).filter (base ≤ ·)
  let fitsAt (o : Nat) : Bool := decide (o + 64 * u ≤ base + half) && h.ringFree o (64 * u)
  (base :: ends).foldl (fun (b : Option Nat) o =>
    if fitsAt o then (match b with
      | some x => some (min x o)
      | none => some o) else b) none

/-! ### MPROG (R164, R220, R246, R255, R297) -/

/-- A job ends. -/
def Head.endJob (h : Head) (n st res : Nat) : Head :=
  { h with jobs := Tbl.upd h.jobs n (fun j => { j with ended := some (st, res) }) }

/-- What an MPROG is for: a command, whether R246 limits it, its epoch, and the budget class of a background job. -/
structure PlaceWhy where
  host : Bool
  limited : Bool
  epoch : Nat
  cls : Option Nat
  deriving DecidableEq, Repr

/-- Who posted a job: a command, a background job, or a core. -/
def Head.placeWhy (h : Head) (j : Job) : PlaceWhy :=
  match (if isStream j.owner then (h.ctx j.owner).work.bind h.work else none) with
  | some x => if x.qp.isSome then { host := true, limited := true, epoch := x.stamp, cls := none }
      else { host := false, limited := x.opc = 7 && recAt x.capsule.toNat 8 1 = 1, epoch := j.posted, cls := some x.opc }
  | none => { host := false, limited := false, epoch := j.posted, cls := none }

/-- The status with which an MPROG ends without placing anything, none where it may be placed. `bad`: its input cannot be read
(R439). -/
def Head.placeRefused (h : Head) (j : Job) (why : PlaceWhy) (data : List Byte) (bad : Bool) : Option Nat :=
  let c := j.blk.arg0 % 65536
  let short := h.rd FB_CAPF_MIB * 2 ^ 20 < h.rd FB_CAPH_MIB * 2 ^ 20 + stored data.length
    || h.rd CX_FREE_COUNT < h.rd CX_IDLOW_IDLOW
  if h.is FE_STS_FENCED then some rsFenced
  else if 15 ≤ c ∨ h.is (FB_PCL_VALID.nth c) = false then some rsBadParam
  else if bad then some rsDataCorrupt
  else if chunkCrcOk data = false ∨ slenOk (chunkDesc data) data.length = false then some rsBadParam
  else if h.rd PAR_GEOM_CURK = 0 ∨ (why.limited ∧ short) then some rsCapacity
  else none

/-- A placed chunk is mirrored into the twin's data ring, for an MPROG (R164). -/
def Head.mirror (h : Head) (n loc : Nat) : Head :=
  match h.cmt.ring.find? (fun r => r.loc = loc && r.loc ≠ 0) with
  | some r =>
    if h.is SD_STS_LINKUP then
      h.sendBody (2 + locStripe loc % 10) (.write (h.ringAddr r.offset) 0 (h.bytes (h.ringAddr r.offset) (64 * r.units))) none (some n)
    else h
  | none => h

/-- The placements that no twin has mirrored yet are mirrored once the link has come up (R164). -/
def Head.mirrorAll (h : Head) : Head :=
  h.jobs.foldl (fun (h : Head) e =>
    match e.2.place with
    | some loc => if e.2.mirrored ∨ e.2.ended.isSome then h else h.mirror e.1 loc
    | none => h) h

/-- The bytes are copied to this head's data ring and mirrored into the twin's; the directory, the stripe's and the band's
epochs follow. None where no band, stripe or ring space is left: a background job then waits. -/
def Head.placeBytes (h : Head) (n : Nat) (j : Job) (why : PlaceWhy) (data : List Byte) : Option Head :=
  let c := j.blk.arg0 % 65536
  let u := ceilDiv data.length 64
  let kind := if why.host then h.hostKind c else 2
  match h.ringAlloc u with
  | none => none
  | some off =>
    match h.roomFor c kind u why.host why.cls 130 with
    | none => none
    | some (s, st, h) =>
      let id := (chunkDesc data).id
      let loc := mkLoc s st.dataEnd
      let st' := { st with dataEnd := st.dataEnd + u, dir := st.dir ++ [(id, st.dataEnd, data.length)],
                           first := min st.first why.epoch, last := max st.last why.epoch }
      let h := h.setStripe s st'
      let b := stripeBand s
      let x := h.band b
      let h := if x.last < why.epoch then h.putBand b { x with last := why.epoch } else h
      let bytes := padTo (64 * u) data
      let h := h.put (h.ringAddr off) bytes
      let r : RingRef := { chunk := id, origin := h.headId, offset := off, units := u, epoch := some why.epoch, loc := loc }
      let h := { h with cmt := { h.cmt with ring := h.cmt.ring ++ [r] },
                        jobs := Tbl.upd h.jobs n (fun j => { j with place := some loc }),
                        fb := { h.fb with placedBg := h.fb.placedBg + (if why.host then 0 else 64 * u) } }
      let h := h.mirror n loc
      some (((h.closeFull s st').showFree).fgEnter).backPressure

/-- MPROG's placement: at posting, and again while a background job waits for space. A command's job that finds none ends with
CAPACITY. -/
def Head.placeJobData (h : Head) (n : Nat) : Head :=
  match Tbl.find h.jobs n with
  | none => h
  | some j =>
    if j.kind ≠ .mprog ∨ j.ended.isSome ∨ j.place.isSome then h
    else
      let data := h.handleBytes j.inp j.blk.ioff j.blk.ilen
      let why := h.placeWhy j
      let bad := h.badHandle j.inp j.blk.ioff j.blk.ilen
      match h.placeRefused j why data (decide (bad ≠ [])) with
      | some st =>
        if st = rsCapacity then h.capacityLow.endJob n st 0
        else (if st = rsDataCorrupt then h.meetBad 1 bad else h).endJob n st 0
      | none =>
        match h.placeBytes n j why data with
        | some h => h
        | none => if why.limited ∧ (h.ringAlloc (ceilDiv data.length 64)).isSome then h.capacityLow.endJob n rsCapacity 0 else h

/-- A placed MPROG may end (R164): both copies are durable, or the twin has been declared failed. -/
def Head.placedOk (h : Head) (j : Job) : Bool := j.place.isSome && (j.mirrored || h.pair.twinFailed)

/-! ### Programming a stripe (R221, R256 to R260, R289, R291) -/

/-- The lines of the data ring under a stripe's chunks from which no data can be read; they are programmed as zeros (R439). -/
def Head.badOfStripe (h : Head) (s : Nat) (st : StripeSt) : List Nat :=
  st.dir.flatMap (fun d =>
    match h.ringAt (mkLoc s d.2.1) d.2.2 with
    | some r => h.badLines (h.ringAddr r.offset) d.2.2
    | none => [])

/-- The pieces of a stripe's image in rising order: (byte offset, bytes). -/
def Head.imagePieces (h : Head) (s : Nat) (st : StripeSt) : List (Nat × List Byte) :=
  let (k, m) := h.geomOf (stripeBand s)
  let n := st.dir.length + st.segments.length
  let head := headBlock st.oneBit h.headId st.cls k m s h.pair.pool.toNat st.first st.last n st.dataEnd
  let chunks := st.dir.map (fun d =>
    (64 * d.2.1, match h.ringAt (mkLoc s d.2.1) d.2.2 with
      | some r => h.bytesOrZero (h.ringAddr r.offset) d.2.2
      | none => []))
  let segs := st.segments.map (fun g => (64 * g.1, g.2))
  let dirs := st.dir.flatMap (fun d => dirEntry d.1 d.2.1 d.2.2) ++ st.segments.flatMap (fun g => dirEntry 0 g.1 g.2.length)
  (0, head) :: chunks ++ segs ++ [(64 * (k * 4096 - dirUnits n), dirs)]

/-- The bytes of data strip `p` of an image. -/
def stripOf (pieces : List (Nat × List Byte)) (p : Nat) : List Byte :=
  let lo := p * stripBytes
  padTo stripBytes (pieces.foldl (fun acc q =>
    let b := q.2.drop (lo - q.1)
    let start := max q.1 lo
    let b := b.take (lo + stripBytes - start)
    if start < lo + stripBytes ∧ b ≠ [] then padTo (start - lo) acc ++ b else acc) [])

/-- A program of a strip with its seal is issued: the entry, and the bytes the module will fetch. -/
def Head.program (h : Head) (j pblk slot : Nat) (oneBit : Bool) (data : List Byte) (sealRec : Rec64) (why : Purpose) : Head :=
  let cid := (h.port j).nextCid
  let h' := h.issue j 1 (programOp pblk slot oneBit) why
  if (h'.port j).nextCid = cid then h' else h'.emit (.strip j cid (trimZeros data) sealRec)

/-- The positions of a stripe that are missing (R260). -/
def Head.missing (h : Head) (s : Nat) : List Nat := (List.range h.width).filter (fun p => ! h.writable s p)

/-- A missing position without an entry receives one (R260, R264, R266). -/
def Head.markMissing (h : Head) (s : Nat) (ps : List Nat) : Head :=
  let b := stripeBand s
  let new := (ps.filter (fun p => (h.holeAt b p).isNone)).map (fun p =>
    ({ pos := p, tgt := h.homePos b p, lo := stripeIndex s, eowed := false } : Hole))
  h.addHoles b new

/-- PAR_STS.HELD follows. -/
def Head.showHeld (h : Head) : Head := h.wr PAR_STS_HELD (h.fb.stripes.any (fun e => e.2.phase = .held)).toNat

/-- The pool position that takes strip position `p` of a stripe written now. -/
def Head.writePos (h : Head) (b p : Nat) : Nat :=
  match h.holeAt b p with
  | some e => e.tgt
  | none => h.homePos b p

/-- The strips of a stripe are programmed, but for those missing (R221, R260). -/
def Head.programStrips (h : Head) (s : Nat) (st : StripeSt) (skip : List Nat) : Head :=
  let b := stripeBand s
  let (k, m) := h.geomOf b
  let pieces := h.imagePieces s st
  let data := (List.range k).map (stripOf pieces)
  let strips := data ++ (List.range m).map (fun i => parityStrip stripBytes i data)
  let todo := (List.range (k + m)).filter (fun p => ! skip.contains p)
  let h := h.meetBad 1 (h.badOfStripe s st)
  let h := h.setStripe s { st with phase := .programming, todo := todo, skip := skip }
  let row := h.rowOf b
  todo.foldl (fun h p =>
    let j := h.writePos b p
    let d := strips.getD p []
    let seal_ := mkSeal 1 p st.oneBit.toNat h.pair.pool.toNat s row 0 k m [] st.last d
    h.program j (h.physical j row) (stripeIndex s) st.oneBit d seal_ (.strip s p)) h

/-- The programs of a stripe that background work filled take the budget of its class on the ports they use (R47, R252): whether they
may, for now. -/
def Head.mayProgram (h : Head) (s : Nat) (st : StripeSt) (skip : List Nat) : Bool :=
  match st.charge with
  | none => true
  | some c => ((List.range h.width).filter (fun p => ! skip.contains p)).all (fun p => h.mayUsePort c (h.writePos (stripeBand s) p))

/-- They are charged. -/
def Head.chargeProgram (h : Head) (s : Nat) (st : StripeSt) (skip : List Nat) : Head :=
  match st.charge with
  | none => h
  | some c =>
    h.chargePorts c (((List.range h.width).filter (fun p => ! skip.contains p)).map (fun p => (h.writePos (stripeBand s) p, stripBytes)))

/-- STRIPE_PROGRAM (R221, R260): a closed stripe, or a held one with fewer than m positions missing, is programmed; one with m or
more missing is held, and its band takes no further stripe. STRIPE_HELD counts the positions missing (assumption log 75, DESIGN CHOICE). -/
def Head.programStripe (h : Head) (s : Nat) : Head :=
  match h.stripe s with
  | none => h
  | some st =>
    if st.phase ≠ .closed ∧ st.phase ≠ .held then h
    else
      let miss := h.missing s
      let m := (h.geomOf (stripeBand s)).2
      if m ≤ miss.length then
        if st.phase = .held then h
        else
          let h := (h.setStripe s { st with phase := .held }).closeBand (stripeBand s)
          h.showHeld.post 7 0x0708 2 s miss.length h.epoch 0
      else if h.mayProgram s st miss = false then h
      else (((h.chargeProgram s st miss).markMissing s miss).programStrips s st miss).showHeld

/-! ### Durability (R221 to R223) -/

/-- The data-ring space of a stripe's chunks is freed (R222). -/
def Head.freeRing (h : Head) (s : Nat) : Head :=
  ({ h with cmt := { h.cmt with ring := h.cmt.ring.filter (fun r => r.loc = 0 || locStripe r.loc ≠ s) } }).backPressure

/-- A background job is under way: a copy that it has placed may not be named by its move yet. -/
def Head.moving (h : Head) : Bool := h.works.any (fun e => e.2.qp.isNone && (match e.2.state with
  | .running _ => true
  | _ => false))

/-- A half of an epoch not committed places a chunk at a location. -/
def Head.placing (h : Head) (loc : Nat) : Bool :=
  let names (r : Rec64) : Bool := (iType r = 3 && rLoc (recAt r.toNat 32 16) = loc) || (iType r = 6 && recAt r.toNat 40 6 = loc)
  h.cmt.epochs.any (fun e => e.2.own.any names || e.2.twin.any names)

/-- The ring copies of a stripe under re-placement whose chunk has moved away, or is freed, are released once the new copy needs
the ring no longer, and no intent can still name the old one: its epoch is applied, and no move to it is under way (R223). -/
def Head.freeReplaced (h : Head) : Head :=
  if h.fb.replaced = [] then h else
    let gone (r : RingRef) : Bool := h.fb.replaced.contains (locStripe r.loc) && r.loc ≠ 0
      && r.epoch.any (fun e => h.applied ≠ noEpoch && decide (e ≤ h.applied)) && ! h.moving && ! h.placing r.loc
      && rLoc (h.chunkRec r.chunk) ≠ r.loc
      && ! h.cmt.ring.any (fun q => q.loc = rLoc (h.chunkRec r.chunk) && q.chunk = r.chunk)
    let ring := h.cmt.ring.filter (fun r => ! gone r)
    ({ h with cmt := { h.cmt with ring := ring },
              fb := { h.fb with replaced := h.fb.replaced.filter (fun s => ring.any (fun r => locStripe r.loc = s)) } }).backPressure

/-- Every strip of a stripe was programmed: LO of the entries it was programmed through rises, STRIPE_DONE goes to the twin, and
the ring space is freed (R221, R263). -/
def Head.stripeDurable (h : Head) (s : Nat) (st : StripeSt) : Head :=
  let b := stripeBand s
  let h := { h with fb := { h.fb with stripes := Tbl.del h.fb.stripes s } }
  let h := h.setHoles b ((h.holes b).map (fun e =>
    if e.lo = stripeIndex s ∧ ¬ st.skip.contains e.pos then { e with lo := e.lo + 1 } else e))
  (((h.freeRing s).freeReplaced).sendTwin (.stripeDone s st.last)).showHeld

/-- STRIPE_REPLACED (R223): a stripe that cannot become durable is re-placed: its band is closed and a job posted. Causes: 0
program, 1 restore, 2 takeover. -/
def Head.replaceStripe (h : Head) (s p cause : Nat) : Head :=
  let b := stripeBand s
  let h := { h with fb := { h.fb with stripes := Tbl.del h.fb.stripes s, replaced := s :: h.fb.replaced.filter (· ≠ s) } }
  let h := (h.closeBand b).post 6 0x060B 1 s p cause 0
  (h.postStripeJob 0 s 2).showHeld

/-- A segment is placed in an open class-15 stripe of this head (R248, R291): its location, none where no band is left. -/
def Head.placeSegment (h : Head) (cut : Nat) (bytes : List Byte) : Option (Nat × Head) :=
  let u := ceilDiv bytes.length 64
  match h.roomFor 15 1 u false (some bCkpt) 130 with
  | none => none
  | some (s, st, h) =>
    let h := h.setStripe s { st with dataEnd := st.dataEnd + u, segments := st.segments ++ [(st.dataEnd, bytes)],
                                     first := min st.first cut, last := max st.last cut }
    let b := stripeBand s
    let x := h.band b
    let h := if x.last < cut then h.putBand b { x with last := cut } else h
    some (mkLoc s st.dataEnd, (h.showFree).fgEnter)

/-- The segments of a stripe that failed to program are placed anew, and the checkpoint being written takes their new locations
(R223). -/
def Head.replaceSegments (h : Head) (s : Nat) (st : StripeSt) : Head :=
  st.segments.foldl (fun (h : Head) g =>
    match h.placeSegment st.last g.2 with
    | none => h
    | some (loc, h) =>
      let old := mkLoc s g.1
      let fix (c : CkptSt) : CkptSt :=
        { c with segs := c.segs.map (fun l => if l = old then loc else l),
                 stripes := locStripe loc :: c.stripes.filter (fun x => x ≠ s && x ≠ locStripe loc),
                 root := c.root.map (fun r => if r = old then loc else r) }
      ({ h with fb := { h.fb with ckpt := h.fb.ckpt.map fix } }).closeStripe (locStripe loc)) h

/-- A slot whose program failed is named, to be retired at the band's next erase (R223). -/
def Head.nameBad (h : Head) (b p : Nat) : Head :=
  if h.fb.badSlots.contains (b, p) then h else { h with fb := { h.fb with badSlots := h.fb.badSlots ++ [(b, p)] } }

/-- A strip's program has completed (R221, R223). -/
def Head.stripDone (h : Head) (s p : Nat) (ok : Bool) : Head :=
  match h.stripe s with
  | none => if ok then h else h.nameBad (stripeBand s) p
  | some st =>
    if ok then
      let st := { st with todo := st.todo.filter (· ≠ p) }
      if st.todo = [] then h.stripeDurable s st else h.setStripe s st
    else
      let h := h.nameBad (stripeBand s) p
      if st.cls = 15 then
        let h := { h with fb := { h.fb with stripes := Tbl.del h.fb.stripes s } }
        ((h.closeBand (stripeBand s)).post 6 0x060B 1 s p 0 0).replaceSegments s st
      else h.replaceStripe s p 0

/-- STRIPE_CLOSE_TIMEOUT (R221). -/
def Head.closeTimeout (h : Head) (s : Nat) : Head :=
  match h.stripe s with
  | some st => if st.phase = .open_ ∧ st.opened + h.rd FB_CTL_CLOSEMAX ≤ h.epoch then h.closeStripe s else h
  | none => h

/-- STRIPE_DONE from the owner (R222): the ring space is freed, and reads go to flash. -/
def Head.stripeDoneIn (h : Head) (s last : Nat) : Head :=
  let b := stripeBand s
  let x := h.band b
  let h := if x.last < last then h.putBand b { x with last := last } else h
  (h.freeRing s).freeReplaced

end Sys2Proof.Machine
end

