-- ==== Sys2Proof/Machine/Pages.lean ====
section
/-! DEFINITION. Namespaces, metadata pages and their versions, reference counts and the freeing of chunks
(spec/09_fogbank_flash.md, R224 to R228; spec/08_coalesce_index.md, R209, R210; spec/07_data_path.md, R180). -/
namespace Sys2Proof.Machine
open Reg

/-! ### Namespaces -/

/-- A namespace as the metadata knows it. -/
def Head.ns (h : Head) (n : Nat) : Option Ns := Tbl.find h.nss n

/-- A namespace that exists now. -/
def Head.liveNs (h : Head) (n : Nat) : Option Ns := (h.ns n).filter (fun x => x.deleted.isNone)

/-- The NSID of a namespace's key. A deleted namespace that something still holds makes room for a new one of its NSID by moving to
a key above 2^32, which no NSID reaches (assumption log 42, DEDUCED). -/
def keyNsid (key : Nat) : Nat := key % 2 ^ 32

/-- The key of the namespace that an NSID names in the view of an epoch, none for the current state (R160). -/
def Head.viewKey (h : Head) (view : Option Nat) (n : Nat) : Nat :=
  match view with
  | none => n
  | some s =>
    ((h.nss.find? (fun x => keyNsid x.1 = n && decide (x.2.created ≤ s) && x.2.deleted.all (fun d => decide (s < d)))).map (·.1)).getD n

/-- A namespace in the view of an epoch, none for the current state (R160). -/
def Head.nsView (h : Head) (view : Option Nat) (n : Nat) : Option Ns :=
  match view with
  | none => h.liveNs n
  | some s =>
    (h.ns (h.viewKey view n)).filter (fun x => decide (x.created ≤ s) && x.deleted.all (fun d => decide (s < d)))

/-- The key of the namespace of an NSID whose page has a version of an epoch: the one there now where it existed by then, else the
latest before it. -/
def Head.incKey (h : Head) (n epoch : Nat) : Nat :=
  if (h.ns n).any (fun x => decide (x.created ≤ epoch)) then n
  else
    ((h.nss.filter (fun x => keyNsid x.1 = n && decide (x.2.created ≤ epoch))).foldl (fun (b : Option (Nat × Nat)) x =>
      match b with
      | none => some (x.1, x.2.created)
      | some y => if y.2 < x.2.created then some (x.1, x.2.created) else b) none |>.map (·.1)).getD n

/-- Change a namespace; the next checkpoint's delta holds it. -/
def Head.setNs (h : Head) (n : Nat) (x : Ns) : Head := (({ h with nss := Tbl.put h.nss n x }).touch 10 0 n 0).touch 10 0 (n + 2 ^ 63) 0

/-- FSIZE, PDIG, FDIG, CALG, CLEVEL, VERIFY and the slot and class of an attribute word (the table of ch. 07). -/
structure Attr where
  object : Bool
  fsize : Nat
  pdig : Nat
  fdig : Nat
  calg : Nat
  clevel : Nat
  verify : Nat
  keyslot : Nat
  pclass : Nat
  deriving DecidableEq, Repr

/-- An attribute word's fields. -/
def attrOf (v : Nat) : Attr :=
  { object := bitAt v 0, fsize := bitsAt v 1 2, pdig := bitsAt v 3 2, fdig := bitsAt v 5 2, calg := bitsAt v 7 2,
    clevel := bitsAt v 9 3, verify := bitsAt v 12 2, keyslot := bitsAt v 16 16, pclass := bitsAt v 32 16 }

/-- Every field of an attribute word is in range and its reserved bits are zero (R180, R181). -/
def attrOk (v : Nat) : Bool :=
  let a := attrOf v
  bitsAt v 14 2 = 0 && bitsAt v 48 16 = 0 && (if a.object then a.fsize = 0 else decide (a.fsize ≤ 2)) && a.pdig ≠ 0
    && (a.fdig = 0 || a.fdig ≠ a.pdig) && decide (a.calg ≤ 2)
    && (if a.calg = 0 then a.clevel = 0 else decide (1 ≤ a.clevel ∧ a.clevel ≤ 6)) && decide (a.verify ≤ 2)
    && decide (256 ≤ a.keyslot) && decide (a.pclass < 15)

/-! ### Page versions (R224 to R226) -/

/-- The key of a metadata page. -/
def pageKey (nsid page : Nat) : Nat := nsid * 2 ^ 80 + page

/-- The versions of a page, newest first. -/
def Head.versions (h : Head) (nsid page : Nat) : List PageVer := (Tbl.find h.pages (pageKey nsid page)).getD []

/-- The version of a page that a view sees: the newest, or the one with the highest version epoch not above the epoch. -/
def Head.pageView (h : Head) (view : Option Nat) (nsid page : Nat) : Option PageVer :=
  match view with
  | none => (h.versions nsid page).head?
  | some s => (h.versions (h.viewKey view nsid) page).find? (fun v => decide (v.epoch ≤ s))

/-- An entry of a map page in a view, 0 where it was never set or has been trimmed. -/
def Head.mapEntry (h : Head) (view : Option Nat) (nsid index : Nat) : Nat :=
  (((h.pageView view nsid (index / 512)).bind (fun v => Tbl.find v.entries (index % 512))).map (·.chunk)).getD 0

/-- The directory page of a key (R225). -/
def keyBucket (nsid : Nat) (key : List Byte) : Nat := (crc32c (toBytes 4 nsid ++ key)).toNat % 2 ^ 25

/-- The key of an entry as a number, zero-padded. -/
def keyNat (key : List Byte) : Nat := ofBytes (key.take 16)

/-- Where a key stands in a view: page and slot. Overflow page `j` of a bucket is page bucket + j × 2^25; `fuel` bounds them. -/
def Head.findKey (h : Head) (view : Option Nat) (nsid : Nat) (key : List Byte) : Nat → Nat → Option (Nat × Nat × PageSlot)
  | 0, _ => none
  | fuel + 1, page =>
    match h.pageView view nsid page with
    | none => none
    | some v =>
      match v.entries.find? (fun e => e.2.len = key.length && e.2.key = keyNat key) with
      | some e => some (page, e.1, e.2)
      | none => h.findKey view nsid key fuel (page + 2 ^ 25)

/-- The manifest a key names in a view. -/
def Head.keyChunk (h : Head) (view : Option Nat) (nsid : Nat) (key : List Byte) : Option Nat :=
  (h.findKey view nsid key (h.pages.length + 1) (keyBucket nsid key)).map (·.2.2.chunk)

/-- The first empty slot of a key's bucket, in its overflow pages in turn. -/
def Head.emptyKeySlot (h : Head) (nsid : Nat) : Nat → Nat → Nat × Nat
  | 0, page => (page, 0)
  | fuel + 1, page =>
    match h.pageView none nsid page with
    | none => (page, 0)
    | some v =>
      match (List.range 128).find? (fun i => (Tbl.find v.entries i).isNone) with
      | some i => (page, i)
      | none => h.emptyKeySlot nsid fuel (page + 2 ^ 25)

/-! ### Reference changes (R209, R210) -/

/-- Apply meets DRAM that it cannot read: it stops, and the head yields as under R84 (R439). -/
def Head.applyUncorr (h : Head) (lines : List Nat) : Head :=
  let h := h.meetBad 2 lines
  { h with cmt := { h.cmt with applyStopped := true } }

/-- The live bytes of the band of a location change (R218). -/
def Head.addLive (h : Head) (loc : Nat) (n : Nat) (up : Bool) : Head :=
  let b := stripeBand (locStripe loc)
  if h.bandCount ≤ b then h
  else if h.badLines (h.bandAddr b) 32 ≠ [] then h.applyUncorr (h.badLines (h.bandAddr b) 32)
  else
    let x := h.band b
    h.putBand b { x with live := if up then x.live + n else x.live - n }

/-- An outcome (R71): codes 0 APPLIED, 1 NOOP, 2 PINNED, 3 REFUSED. -/
def oApplied : Nat := 0
def oNoop : Nat := 1
def oPinned : Nat := 2
def oRefused : Nat := 3

/-- A record apply reads has a right CRC, or is all zero (R201). -/
def recReadable (r : Nat) : Bool := r = 0 || recCrcOk r

/-- The record of a chunk cannot be used: it fails its CRC, or DRAM cannot be read there (R201, R439). -/
def Head.recFails (h : Head) (id : Nat) : Bool := ! recReadable (h.chunkRec id) || h.badRec id ≠ []

/-- Such a record stops the apply (R201, R439); the head yields under R84. -/
def Head.recordBad (h : Head) (e pos id : Nat) : Head :=
  if h.badRec id ≠ [] then h.applyUncorr (h.badRec id) else
  let h := (h.wr CX_ERR_RECCRC 1).post 5 0x0503 2 id e pos 0
  { h with cmt := { h.cmt with applyStopped := true } }

/-- Increment a chunk's count (R209). -/
def Head.incRef (h : Head) (e pos id i : Nat) : Nat × Head :=
  let r := h.chunkRec id
  let c := rCount r
  if isPattern id then (oNoop, h)
  else if h.recFails id then (oNoop, h.recordBad e pos id)
  else if rAlloc r = false then (oNoop, h)
  else if c = pinned then (oPinned, h.bump CX_PINNED_COUNT 1)
  else if pinned ≤ c + i then (oApplied, (h.setRec e id (recWithCount r pinned)).post 5 0x0501 1 id e pos 0)
  else (oApplied, h.setRec e id (recWithCount r (c + i)))

/-- The entries of a manifest chunk read from its stored copy (R210): the entries, or the cause of failure. -/
def Head.readManifest (h : Head) (id : Nat) : Except Nat (List (Nat × Nat)) :=
  let r := h.chunkRec id
  let x := h.readChunk r
  if x.status ≠ rsOk then .error 0
  else
    match h.slotKey (h.load (h.ownAddr id) 4 % 65536) with
    | none => .error 0
    | some k =>
      match openChunk k.key id r x.data with
      | .error _ => .error 1
      | .ok b =>
        match parseManifest b with
        | some m => .ok m.2
        | none => .error 1

/-- A chunk is freed (R210): its record is cleared, its live bytes leave its band, and its ID waits for the reads of R198. -/
def Head.clearChunk (h : Head) (e id : Nat) : Head :=
  let r := h.chunkRec id
  let h := (h.setRec e id 0).addLive (rLoc r) (stored (rSlen r)) false
  { h with freedIds := h.freedIds ++ [(id, e)], fb := { h.fb with manifests := h.fb.manifests.filter (· ≠ id) } }

/-- A chunk is freed with what a manifest holds (R210): `drop` releases a reference. -/
def Head.freeChunk (h : Head) (drop : Head → Nat → Head) (e pos id : Nat) : Head :=
  if h.fb.manifests.contains id then
    match h.readManifest id with
    | .ok es => es.foldl (fun h m => drop h m.1) (h.clearChunk e id)
    | .error cause => (h.clearChunk e id).post 5 0x0506 2 id e pos cause
  else h.clearChunk e id

/-- Decrement a chunk's count (R209); a chunk that reaches 0 is freed with what a manifest holds. `fuel` bounds manifests
within manifests. -/
def Head.decRef (h : Head) (e pos id d : Nat) : Nat → Nat × Head
  | 0 => (oNoop, h)
  | fuel + 1 =>
    let r := h.chunkRec id
    let c := rCount r
    if isPattern id then (oNoop, h)
    else if h.recFails id then (oNoop, h.recordBad e pos id)
    else if rAlloc r = false then (oNoop, h)
    else if c = pinned then (oPinned, h.bump CX_PINNED_COUNT 1)
    else if c < d then (oRefused, (h.wr CX_ERR_UNDERFLOW 1).post 5 0x0502 2 id c d e)
    else if d < c then (oApplied, h.setRec e id (recWithCount r (c - d)))
    else (oApplied, h.freeChunk (fun h m => (h.decRef e pos m 1 fuel).2) e pos id)

/-- A derived decrement by one. -/
def Head.unref (h : Head) (e pos id : Nat) : Head := (h.decRef e pos id 1 (h.fb.manifests.length + 2)).2

/-- A derived increment by one. -/
def Head.ref_ (h : Head) (e pos id : Nat) : Head := (h.incRef e pos id 1).2

/-- A chunk's count, 0 for a pattern or free chunk. -/
def Head.countOf (h : Head) (id : Nat) : Nat := if isPattern id ∨ id = 0 then 0 else rCount (h.chunkRec id)

/-! ### Copying a page (R226, R227) -/

/-- Some epoch holds a version of epoch `v` whose successor has epoch `w`. -/
def holdsVer (ss : List Nat) (v w : Nat) : Bool := ss.any (fun s => decide (v ≤ s) && decide (s < w))

/-- The epochs of the live snapshots. -/
def Head.snapEpochs (h : Head) : List Nat := h.cmt.snapshots.map (·.2)

/-- Replace the versions of a page; a page without versions is no longer kept. -/
def Head.setVersions (h : Head) (nsid page : Nat) (vs : List PageVer) : Head :=
  { h with pages := if vs = [] then Tbl.del h.pages (pageKey nsid page) else Tbl.put h.pages (pageKey nsid page) vs }

/-- Before its first change in epoch `e` a page is copied where its current version is held; a copy that a live snapshot's hold
makes takes new references, entry by entry (R226, R227). -/
def Head.openPage (h : Head) (e pos nsid page : Nat) : Head :=
  match h.versions nsid page with
  | [] => h.setVersions nsid page [{ epoch := e, refs := true, entries := [] }]
  | v :: t =>
    if e ≤ v.epoch then h
    else
      let bySnap := holdsVer h.snapEpochs v.epoch e
      let byRead := holdsVer h.readEpochs v.epoch e
      let new : PageVer := { v with epoch := e }
      if bySnap then
        v.entries.foldl (fun h p => h.ref_ e pos p.2.chunk) (h.setVersions nsid page (new :: v :: t))
      else if byRead then h.setVersions nsid page (new :: { v with refs := false } :: t)
      else h.setVersions nsid page (new :: t)

/-- Change one entry of a page's current version, already opened for the epoch. -/
def Head.setSlot (h : Head) (e nsid page i table : Nat) (x : Option PageSlot) : Head :=
  let entries := match x with
    | some x => fun (l : Tbl PageSlot) => Tbl.put l i x
    | none => fun l => Tbl.del l i
  let vs := match h.versions nsid page with
    | [] => []
    | v :: t => { v with entries := entries v.entries } :: t
  let key := if table = 4 then page * 512 + i else page * 128 + i
  (h.setVersions nsid page vs).touch table nsid key e

/-! ### Retained versions (R226, R228) -/

/-- The versions of a page with, for each, the epoch that follows it: the next version's, or the deletion of its namespace. -/
def withNext (top : Option Nat) : List PageVer → List (PageVer × Option Nat)
  | [] => []
  | v :: t => (v, top) :: withNext (some v.epoch) t

/-- The namespace's end of a page. -/
def Head.pageEnd (h : Head) (key : Nat) : Option Nat := (h.ns (key / 2 ^ 80)).bind (·.deleted)

/-- The order of the release list: NSID, page number and version epoch (R228). -/
def insertVersion (x : Nat × Nat) : List (Nat × Nat) → List (Nat × Nat)
  | [] => [x]
  | y :: t =>
    if x.1 % 2 ^ 112 < y.1 % 2 ^ 112 ∨ (x.1 % 2 ^ 112 = y.1 % 2 ^ 112 ∧ x.2 < y.2) then x :: y :: t else y :: insertVersion x t

/-- Versions that hold references and that no live snapshot holds join the release list, in order of NSID, page and version
epoch (R228). -/
def Head.joinRelease (h : Head) : Head :=
  let new := h.pages.flatMap (fun p =>
    ((withNext (h.pageEnd p.1) p.2).filter (fun x => x.1.refs && (match x.2 with
      | some w => ! holdsVer h.snapEpochs x.1.epoch w
      | none => false) && ! h.fb.release.contains (p.1, x.1.epoch))).reverse.map (fun x => (p.1, x.1.epoch)))
  let new := new.foldl (fun acc x => insertVersion x acc) []
  (new.zipIdx).foldl (fun h x => h.touch 9 0 (h.fb.release.length + x.2) 0)
    { h with fb := { h.fb with release := h.fb.release ++ new } }

/-- A version that has no successor is current; another is kept while something holds it or it holds references. -/
def Head.pruneVersions (h : Head) : Head :=
  let keep (key : Nat) (x : PageVer × Option Nat) : Bool := match x.2 with
    | none => true
    | some w => x.1.refs || holdsVer h.snapEpochs x.1.epoch w || holdsVer h.readEpochs x.1.epoch w
        || h.fb.release.contains (key, x.1.epoch)
  let pages := h.pages.filterMap (fun p =>
    let vs := ((withNext (h.pageEnd p.1) p.2).filter (keep p.1)).map (·.1)
    if vs = [] then none else some (p.1, vs))
  let h := { h with pages := pages }
  { h with nss := h.nss.filter (fun n => n.2.deleted.all (fun d =>
      h.snapEpochs.any (fun s => decide (n.2.created ≤ s) && decide (s < d))
        || h.readEpochs.any (fun s => decide (n.2.created ≤ s) && decide (s < d))
        || pages.any (fun p => p.1 / 2 ^ 80 = n.1))) }

/-- A namespace with versions on the release list is being reclaimed (R228). -/
def Head.reclaiming (h : Head) (n : Nat) : Bool := h.fb.release.any (fun r => r.1 % 2 ^ 112 / 2 ^ 80 = n)

/-- A deleted namespace and its pages move to a key of their own, so that their NSID is free. -/
def Head.setAside (h : Head) (n : Nat) : Head :=
  match h.ns n with
  | none => h
  | some x =>
    let k := (((List.range (h.nss.length + 1)).map (fun i => n + 2 ^ 32 * (i + 1))).find? (fun k => (h.ns k).isNone)).getD n
    let pages := h.pages.foldl (fun (t : Tbl (List PageVer)) p =>
      if p.1 / 2 ^ 80 = n then Tbl.put (Tbl.del t p.1) (pageKey k (p.1 % 2 ^ 80)) p.2 else t) h.pages
    ({ h with pages := pages, nss := Tbl.del h.nss n }).setNs k x

/-- The first versions on the release list lose their references, entry by entry (R228). -/
def Head.releaseVersions (h : Head) (e pos : Nat) : Head :=
  let now := h.fb.release.take 4096
  let h := now.foldl (fun h r =>
    let es := ((((Tbl.find h.pages r.1).getD []).find? (·.epoch = r.2)).map (·.entries)).getD []
    let h := es.foldl (fun h p => h.unref e pos p.2.chunk) h
    { h with pages := Tbl.upd h.pages r.1 (fun vs => vs.map (fun v => if v.epoch = r.2 then { v with refs := false } else v)) }) h
  if now = [] then h
  else ((List.range h.fb.release.length).foldl (fun h i => h.touch 9 0 i 0)
    { h with fb := { h.fb with release := h.fb.release.drop 4096 } })

end Sys2Proof.Machine
end

