-- ==== Sys2Proof/Machine/Paging.lean ====
section
/-! DEFINITION. The page pool: which versions of metadata pages are resident, and the loading, cleaning and eviction of them
(spec/09_fogbank_flash.md, R229). A version is named by its page key and version epoch. Its contents stand in `pages` wherever it
is, since paging changes only time; a version that is not resident is clean. -/
namespace Sys2Proof.Machine
open Reg

/-- The 4 KiB pages that the pool holds. While FB_MPSIZE is 0, before it is written, nothing bounds them (assumption log 71,
DESIGN CHOICE). -/
def Head.poolPages (h : Head) : Nat := h.rd FB_MPSIZE_GIB * 2 ^ 18

/-- No frame of the pool is free. -/
def Head.poolFull (h : Head) : Bool := h.poolPages ≠ 0 && decide (h.poolPages ≤ h.fb.resident.length)

/-- The resident versions. -/
def Head.setResident (h : Head) (l : List (Nat × Nat)) : Head := { h with fb := { h.fb with resident := l } }

/-- The least recently used clean version leaves the pool; none where no resident version is clean. -/
def Head.evict (h : Head) : Option Head :=
  (h.fb.resident.reverse.find? (fun v => h.fb.clean.contains v)).map (fun v => (h.setResident (h.fb.resident.filter (· ≠ v))).veilForget v)

/-- A version is used: it becomes the last used, and one that is not resident is loaded, where a full pool first evicts. None where it
must wait for a clean page. -/
def Head.usePage (h : Head) (v : Nat × Nat) : Option Head :=
  if h.fb.resident.contains v then some (h.setResident (v :: h.fb.resident.filter (· ≠ v)))
  else if h.poolFull then h.evict.map (fun h => h.setResident (v :: h.fb.resident))
  else some (h.setResident (v :: h.fb.resident))

/-- Versions are used in turn. -/
def Head.usePages (h : Head) : List (Nat × Nat) → Option Head
  | [] => some h
  | v :: t => (h.usePage v).bind (fun h => h.usePages t)

/-- What follows once versions are in the pool; the head waits, as it is, while one cannot be loaded. -/
def Head.withPages (h : Head) (vs : List (Nat × Nat)) (f : Head → Head) : Head :=
  match h.usePages vs with
  | none => h
  | some h => f h

/-! ### What lookups use -/

/-- The version of a page in a view, none where it has none. -/
def Head.viewUse (h : Head) (view : Option Nat) (nsid page : Nat) : List (Nat × Nat) :=
  match h.pageView view nsid page with
  | none => []
  | some v => [(pageKey (h.viewKey view nsid) page, v.epoch)]

/-- What a lookup of map entries of a range uses. -/
def Head.mapUses (h : Head) (view : Option Nat) (nsid first n : Nat) : List (Nat × Nat) :=
  if n = 0 then []
  else ((List.range ((first + n - 1) / 512 + 1 - first / 512)).map (· + first / 512)).flatMap (h.viewUse view nsid)

/-- What a lookup of a key uses: the pages of its bucket up to the one that holds it; `fuel` bounds them. -/
def Head.chainUses (h : Head) (view : Option Nat) (nsid : Nat) (key : List Byte) : Nat → Nat → List (Nat × Nat)
  | 0, _ => []
  | fuel + 1, page =>
    match h.pageView view nsid page with
    | none => []
    | some v =>
      (pageKey (h.viewKey view nsid) page, v.epoch)
        :: (if v.entries.any (fun e => e.2.len = key.length && e.2.key = keyNat key) then []
            else h.chainUses view nsid key fuel (page + 2 ^ 25))

/-- The same from the key's bucket on. -/
def Head.keyUses (h : Head) (view : Option Nat) (nsid : Nat) (key : List Byte) : List (Nat × Nat) :=
  h.chainUses view nsid key (h.pages.length + 1) (keyBucket nsid key)

/-- What a listing of a namespace uses: each of its pages. -/
def Head.nsUses (h : Head) (view : Option Nat) (nsid : Nat) : List (Nat × Nat) :=
  (h.pages.filter (fun p => p.1 / 2 ^ 80 = h.viewKey view nsid)).flatMap (fun p => h.viewUse view nsid (p.1 % 2 ^ 80))

/-- The cache and the class that serve the lookups of a context for its unit of work (R448). -/
def lookupCache (k : Nat) (work : Option Work) : Nat × Nat :=
  if isStream k then (ctxCluster k, match work.bind Work.budget with
    | none => 0
    | some c => if c = 7 then 3 else 2)
  else (24 + k / 8, 2)

/-- What follows once versions are in the pool, a context's lookup having used them through its cache. -/
def Head.withCached (h : Head) (k : Nat) (work : Option Work) (vs : List (Nat × Nat)) (f : Head → Head) : Head :=
  h.withPages vs (fun h => f (h.veilPages (lookupCache k work).1 (lookupCache k work).2 false vs))

/-! ### What an apply uses -/

/-- The cache of the apply lane of a map page or key: lane bits [3:0] of CRC-32C over the lane key (R69, R448). -/
def applyCache (nsid : Nat) (key : List Byte) : Nat := 24 + (crc32c (toBytes 4 nsid ++ key)).toNat % 16 / 4

/-- A page that an apply of epoch `e` changes, through cache `n`: its current version, and a frame for the copy where that is held (R226);
a version changed in place takes the epoch and is clean no more. -/
def Head.changePage (h : Head) (n e nsid page : Nat) : Option Head :=
  let key := pageKey nsid page
  let done (v : Nat × Nat) (h : Head) : Head := h.veilPages n 1 true [v]
  if h.fb.resident.contains (key, e) then (h.usePage (key, e)).map (done (key, e))
  else
    match h.versions nsid page with
    | [] => (h.usePage (key, e)).map (done (key, e))
    | v :: _ =>
      (h.usePage (key, v.epoch)).bind (fun h =>
        if holdsVer h.snapEpochs v.epoch e ∨ holdsVer h.readEpochs v.epoch e then
          (h.usePage (key, e)).map (fun h => done (key, e) (h.veilPages n 1 false [(key, v.epoch)]))
        else
          let now : Nat × Nat := (key, max e v.epoch)
          let h := { h with fb := { h.fb with resident := h.fb.resident.map (fun r => if r = (key, v.epoch) then now else r),
                                              clean := h.fb.clean.filter (fun r => r ≠ (key, v.epoch)) } }
          some (done now (h.veilRename (key, v.epoch) now)))

/-- The key that a key intent names, as R52 places it. -/
def intentKey (v : Nat) : List Byte := toBytes (recAt v 40 1) (recAt v 24 16)

/-- The pages that the apply of a key intent reads, through the cache of its lane. -/
def Head.keysRead (h : Head) (nsid : Nat) (key : List Byte) : Option Head :=
  (h.usePages (h.keyUses none nsid key)).map (fun g => g.veilPages (applyCache nsid key) 1 false (h.keyUses none nsid key))

/-- What the apply of one record uses. -/
def Head.applyUse (h : Head) (e : Nat) (r : Rec64) : Option Head :=
  let v := r.toNat
  let nsid := iNsid r
  let key := intentKey v
  let fuel := h.pages.length + 1
  match iType r with
  | 1 | 2 => h.changePage (applyCache nsid (toBytes 8 (recAt v 24 8 / 512))) e nsid (recAt v 24 8 / 512)
  | 7 =>
    let page := ((h.findKey none nsid key fuel (keyBucket nsid key)).map (·.1)).getD (h.emptyKeySlot nsid fuel (keyBucket nsid key)).1
    (h.keysRead nsid key).bind (fun h => h.changePage (applyCache nsid key) e nsid page)
  | 8 =>
    (h.keysRead nsid key).bind (fun g =>
      match h.findKey none nsid key fuel (keyBucket nsid key) with
      | none => some g
      | some x => g.changePage (applyCache nsid key) e nsid x.1)
  | _ => some h

/-- What the apply of an epoch uses: the pages of its records in order, then the versions it releases (R228). None where it waits for
the checkpoint class to clean a page. -/
def Head.applyUses (h : Head) (e : Nat) : List Rec64 → Option Head
  | [] => h.usePages (h.fb.release.take 4096)
  | r :: t => (h.applyUse e r).bind (fun h => h.applyUses e t)

/-- The versions that exist. -/
def Head.allVersions (h : Head) : List (Nat × Nat) := h.pages.flatMap (fun p => p.2.map (fun v => (p.1, v.epoch)))

/-- The pool after its pages changed: a version that no longer exists leaves it, and one that no flash copy holds is resident. -/
def Head.settlePool (h : Head) : Head :=
  let all := h.allVersions
  let clean := h.fb.clean.filter all.contains
  let resident := h.fb.resident.filter all.contains
  let more := all.filter (fun v => ! clean.contains v && ! resident.contains v)
  let gone := h.fb.resident.filter (fun v => ! all.contains v)
  let h := gone.foldl Head.veilForget h
  { h with fb := { h.fb with resident := more ++ resident, clean := clean } }

/-! ### What the checkpoint class cleans -/

/-- The resident versions that are not clean. -/
def Head.dirtyPages (h : Head) : List (Nat × Nat) := h.fb.resident.filter (fun v => ! h.fb.clean.contains v)

/-- The versions that a checkpoint cleans (R248): once they fill half of the pool, all that are not clean, so that apply does not
come to wait between two cuts (assumption log 71, DESIGN CHOICE). -/
def Head.toClean (h : Head) : List (Nat × Nat) :=
  if h.poolPages = 0 ∨ 2 * h.dirtyPages.length < h.poolPages then [] else h.dirtyPages

/-- Versions written as base pages, and not changed since, are clean. -/
def Head.cleaned (h : Head) (vs : List (Nat × Nat)) : Head :=
  ({ h with fb := { h.fb with clean := (vs.filter (fun v => ! h.fb.clean.contains v)).eraseDups ++ h.fb.clean } }).settlePool

end Sys2Proof.Machine
end

