-- ==== Sys2Proof/Machine/Jobs.lean ====
section
/-! DEFINITION. What posted jobs compute: chunking, digests, compression, ciphers, parity, lookups and media, the end of a job, its
pre-emption and the failure of an accelerator (spec/06_terdan_stream_instructions.md, R137 to R164; spec/07_data_path.md, R182). -/
namespace Sys2Proof.Machine
open Reg

/-! ### Chunking (R150, R182) -/

/-- The rolling-hash table. -/
def rollT (b : Byte) : Nat := leAt (sha256 [0x47, b]) 0 8

/-- The lengths of the chunks of content-defined chunking: hash and length so far. -/
def contentCuts (hash len : Nat) : List Byte → List Nat
  | [] => if len = 0 then [] else [len]
  | b :: t =>
    let hash := (2 * hash + rollT b) % 2 ^ 64
    let len := len + 1
    let cut : Bool := len = 262144 || (decide (16384 ≤ len ∧ len ≤ 65536) && bitsAt hash 48 16 = 0)
      || (decide (65536 < len) && bitsAt hash 49 15 = 0)
    if cut then len :: contentCuts 0 0 t else contentCuts hash len t

/-- The lengths of fixed chunks of a size; `fuel` bounds their number. -/
def fixedCuts (size : Nat) : Nat → Nat → List Nat
  | 0, _ => []
  | fuel + 1, n => if n = 0 then [] else if n ≤ size then [n] else size :: fixedCuts size fuel (n - size)

/-- The chunks of an input as (offset, length). -/
def chunksWith (at_ : Nat) : List Nat → List (Nat × Nat)
  | [] => []
  | n :: t => (at_, n) :: chunksWith (at_ + n) t

/-- The repeated word of a chunk, where it is a pattern (R150). -/
def patternOf (b : List Byte) : Option Nat :=
  let w := leAt b 0 8
  if b.length % 8 = 0 ∧ b ≠ [] ∧ b = (List.replicate (b.length / 8) (toBytes 8 w)).flatten then some w else none

/-- The chunks of an input under a CHUNK's ARG0, each with its repeated word where PAT asks for it. -/
def chunkList (arg0 : Nat) (b : List Byte) : List (Nat × Nat × Option Nat) :=
  let lens := if bitAt arg0 0 then fixedCuts (4096 * 2 ^ bitsAt arg0 1 2) (b.length + 1) b.length else contentCuts 0 0 b
  (chunksWith 0 lens).map (fun c =>
    (c.1, c.2, if bitAt arg0 3 then patternOf ((b.drop c.1).take c.2) else none))

/-- A chunk entry. -/
def chunkEntry (c : Nat × Nat × Option Nat) : List Byte :=
  toBytes 16 (recOf [(0, 4, c.1), (4, 3, c.2.1), (7, 1, c.2.2.isSome.toNat), (8, 8, c.2.2.getD 0)])

/-! ### Slots (R151 to R153, R156, R158) -/

/-- The digest record of a state. -/
def digestRecord (s : DigestSt) : List Byte :=
  let b := padTo 376 (toBytes 8 (s.alg + 256 * s.pend.length) ++ toBytes 8 s.total ++ padTo 200 s.chain ++ padTo 136 s.pend)
  b ++ toBytes 8 (crc64 b).toNat

/-- The bytes of a chaining state. -/
def chainLen (alg : Nat) : Nat := [0, 32, 64, 200].getD alg 0

/-- The digest state of a record, none where it fails its checks. -/
def digestOfRecord (b : List Byte) : Option DigestSt :=
  let alg := leAt b 0 1
  let pend := leAt b 1 1
  if (crc64 (b.take 376)).toNat ≠ leAt b 376 8 ∨ alg = 0 ∨ 3 < alg ∨ hashBlock alg ≤ pend ∨ leAt b 2 6 ≠ 0
      ∨ leAt b 352 24 ≠ 0 then none
  else some { alg := alg, total := leAt b 8 8, chain := (b.drop 16).take (chainLen alg), pend := (b.drop 216).take pend }

/-- Change the context that owns a job. -/
def Head.updOwner (h : Head) (j : Job) (f : Context → Context) : Head := h.setCtx j.owner (f (h.ctx j.owner))

/-! ### Writing the output (R143) -/

/-- What a job's computation answers: its status, result and, where it ends well, its output bytes; `keep` has a failed job write
its bytes all the same (R150, R156). -/
structure JobEnd where
  status : Nat
  result : Nat
  out : List Byte
  keep : Bool
  deriving DecidableEq, Repr

/-- An end without output bytes. -/
def JobEnd.fail (status : Nat) : JobEnd := { status, result := 0, out := [], keep := false }

/-- An end with output. -/
def JobEnd.ok (result : Nat) (out : List Byte) : JobEnd := { status := rsOk, result, out, keep := true }

/-- The parts of ranges that bytes [off, off+n) counted through them take. -/
def segsIn (off n : Nat) : List Seg → List Seg
  | [] => []
  | s :: t =>
    if s.len ≤ off then segsIn (off - s.len) n t
    else if n = 0 then []
    else
      let k := min n (s.len - off)
      { s with off := s.off + off, len := k } :: segsIn 0 (n - k) t

/-- Input and output ranges in one buffer that overlap without being identical give an unpredictable output. -/
def Head.overlaps (h : Head) (j : Job) (n : Nat) : Bool :=
  match j.inp, j.outp with
  | .buffer a, .buffer b =>
    a = b && decide (j.blk.ioff < j.blk.ooff + n ∧ j.blk.ooff < j.blk.ioff + j.blk.ilen)
      && ! (j.blk.ioff = j.blk.ooff && j.blk.ilen = n)
  | .desc _, .buffer b =>
    (segsIn j.blk.ioff j.blk.ilen ((h.segsOfHandle j.inp).getD [])).any (fun s =>
      s.buf = b && decide (s.off < j.blk.ooff + n ∧ j.blk.ooff < s.off + s.len) && ! (s.off = j.blk.ooff && s.len = n))
  | _, _ => false

/-- A job writes its output range; what stood there is kept until its ticket is waited for (R127). -/
def Head.jobWrites (h : Head) (n : Nat) (j : Job) (b : Nat) (bytes : List Byte) : Head :=
  let a := h.bufAddr b + j.blk.ooff
  let h := { h with jobs := Tbl.upd h.jobs n (fun x => { x with before := some (a, h.bytes a bytes.length) }) }
  h.put a bytes

/-- A job ends: its output is written and LENGTH raised; a failed one leaves its output range unpredictable, which free values
fill. -/
def Head.finishJob (h : Head) (n : Nat) (j : Job) (e : JobEnd) : Head :=
  let h := h.endJob n e.status e.result
  match j.outp with
  | .buffer b =>
    if e.keep then
      let (bytes, h) := if h.overlaps j e.out.length then h.drawBytes e.out.length else (e.out, h)
      let h := h.jobWrites n j b bytes
      if e.status = rsOk ∨ j.kind = .chunk then h.setLen b (max (h.lenOf b) (j.blk.ooff + e.out.length)) else h
    else
      let (bytes, h) := h.drawBytes (j.blk.cap j.outp)
      h.jobWrites n j b bytes
  | _ => h

/-! ### The computations -/

/-- CHUNK (R150). -/
def chunkJob (b : JobBlock) (cap : Nat) (data : List Byte) : JobEnd :=
  let es := (chunkList b.arg0 data).map chunkEntry
  let fit := es.take (cap / 16)
  if fit.length = es.length then .ok es.length fit.flatten
  else { status := rsOverflow, result := fit.length, out := fit.flatten, keep := true }

/-- DIGEST (R151): the end, and what the slot holds afterwards, none where it is not touched. -/
def digestJob (a : Nat) (slot : Option DigestSt) (data : List Byte) : JobEnd × Option (Option DigestSt) :=
  let alg := bitsAt a 0 2
  let start := bitAt a 2
  let final := bitAt a 3
  if start ∧ final then (.ok 32 ((hash alg data).take 32), none)
  else
    let from_ : Option DigestSt := if start then some { alg := alg, total := 0, chain := hashInit alg, pend := [] }
      else slot.filter (fun s => s.alg = alg)
    match from_ with
    | none => (.fail rsBadParam, none)
    | some s =>
      let (chain, pend) := hashMore alg s.chain s.pend data
      let s : DigestSt := { alg := alg, total := s.total + data.length, chain := chain, pend := pend }
      if final then (.ok 32 ((hashEnd alg s.total s.chain s.pend).take 32), some none) else (.ok 0 [], some (some s))

/-- PACK (R154). -/
def packJob (a cap : Nat) (data : List Byte) : JobEnd :=
  let out := Config.pack (bitsAt a 0 2) (bitsAt a 4 3) (bitsAt a 8 5) data
  let limit := 15 * data.length / 16
  if limit < out.length ∧ limit ≤ cap then .fail rsNoGain
  else if cap < out.length then .fail rsOverflow
  else if limit < out.length then .fail rsNoGain
  else .ok out.length out

/-- UNPACK (R155). -/
def unpackJob (alg want cap : Nat) (data : List Byte) : JobEnd :=
  if alg = 0 then
    let n := if want < 64 then 64 else want
    if data.length ≠ n ∨ (data.drop want).any (· ≠ 0) then .fail rsLenMismatch
    else if cap < want then .fail rsOverflow
    else .ok want (data.take want)
  else
    match Config.unpack alg data with
    | none => .fail rsDataCorrupt
    | some b => if b.length ≠ want then .fail rsLenMismatch else if cap < want then .fail rsOverflow else .ok want b

/-- Who issues a job, for the key checks (R467). -/
def Head.keyIssuer (h : Head) (j : Job) : KeyIssuer :=
  if isStream j.owner = false then .core
  else match (h.ctx j.owner).work.bind h.work with
    | some x => if x.qp.isSome then .command j.bind else .background
    | none => .background

/-- ENCX and DECX (R156) under a key: the end, and what the cipher slot holds afterwards, none where it is not touched. The output fits:
posting has checked that. -/
def cipherJob (dec : Bool) (a arg1 cap : Nat) (k : KeyRec) (slot : Option CipherSt) (data : List Byte) :
    JobEnd × Option (Option CipherSt) :=
  let give (out : List Byte) (s : Option (Option CipherSt)) : JobEnd × Option (Option CipherSt) := (.ok out.length out, s)
  if bitsAt a 0 2 = 1 then
    let f := if dec then Config.decrypt else Config.encrypt
    give (padTo data.length ((f 1 k.key (toBytes 16 arg1) data).take data.length)) none
  else
    let start := bitAt a 2
    let final := bitAt a 3
    let key := bitsAt a 16 16
    let aadLen := bitsAt a 32 16
    let from_ : Option CipherSt :=
      if start then some { decrypt := dec, slot := key, key := k.key, nonce := k.salt ++ toBytes 8 arg1,
                           aad := data.take aadLen, cipher := [] }
      else slot.filter (fun s => s.decrypt = dec && s.slot = key)
    match from_ with
    | none => (.fail rsBadParam, none)
    | some s =>
      let body := data.drop aadLen
      let cut := if dec ∧ final then body.length - 16 else body.length
      let all := s.cipher ++ body.take cut
      let f := if dec then Config.decrypt else Config.encrypt
      let image := padTo all.length ((f 2 s.key s.nonce all).take all.length)
      let part := image.drop s.cipher.length
      let s' := { s with cipher := all }
      if final = false then
        if dec ∧ body.length < cut then (.fail rsBadParam, none) else give part (some (some s'))
      else
        let tag := padTo 16 ((Config.tag s.key s.nonce s.aad (if dec then all else image)).take 16)
        if dec then
          if body.length < 16 then (.fail rsBadParam, none)
          else if body.drop cut = tag then give part (some none)
          else ({ status := rsAuthFail, result := 0, out := List.replicate cap 0, keep := true }, some none)
        else give (part ++ tag) (some none)

/-- PARGEN (R159). -/
def pargenJob (a n : Nat) (data : List Byte) : JobEnd :=
  let k := bitsAt a 0 5
  let m := bitsAt a 8 2
  let strips := (List.range k).map (fun j => (data.drop (j * n)).take n)
  .ok 0 ((List.range m).flatMap (fun i => parityStrip n i strips))

/-- PARFIX (R159). -/
def parfixJob (a n : Nat) (data : List Byte) : JobEnd :=
  let k := bitsAt a 0 5
  let m := bitsAt a 8 2
  let erased := bitsSet 32 (bitsAt a 32 32)
  if m < erased.length ∨ erased.any (fun p => decide (k + m ≤ p)) then .fail rsUnrecovered
  else
    let strips := (List.range (k + m)).map (fun p => if erased.contains p then none else some ((data.drop (p * n)).take n))
    match rebuildStrips k m n strips with
    | none => .fail rsUnrecovered
    | some all => .ok 0 (erased.flatMap (fun p => all.getD p []))

/-! ### Lookups (R160 to R162) -/

/-- The unit of work behind a job. -/
def Head.jobWork (h : Head) (j : Job) : Option Work :=
  if isStream j.owner then (h.ctx j.owner).work.bind h.work else none

/-- The view of a job's lookup: the read epoch of a read-class command, else the state as applied (R160). -/
def Head.jobView (h : Head) (j : Job) : Option Nat := (h.jobWork j).bind (fun x => if x.reads then x.readEpoch else none)

/-- The view is applied, so that the lookup may be performed (R75). -/
def Head.viewReady (h : Head) (j : Job) : Bool :=
  match h.jobView j with
  | none => true
  | some s => h.applied ≠ noEpoch && decide (s ≤ h.applied)

/-- The view's epoch is still held (R162): no lower than what the pair's reads keep (R76). -/
def Head.viewHeld (h : Head) (j : Job) : Bool :=
  match h.jobView j with
  | none => true
  | some s => decide (h.pairFloor ≤ s)

/-- A lookup in a job's view ends (R160, R162): it waits until the view is applied and the metadata pages it uses are in the pool (R229),
and ends with STALE where the view is no longer held. -/
def Head.viewJob (h : Head) (n : Nat) (j : Job) (uses : List (Nat × Nat)) (e : JobEnd) : Head :=
  if h.viewReady j = false then h
  else h.withCached j.owner (h.jobWork j) uses (fun h => h.finishJob n j (if h.viewHeld j then e else .fail rsStale))

/-- A job may name an NSID, and the namespace exists in the view (R162). -/
def Head.nsidOk (h : Head) (j : Job) (nsid : Nat) : Bool :=
  let own := match h.jobWork j with
    | some x => x.qp.isNone || x.nsid = nsid || j.level ≠ .c
    | none => true
  own && (h.nsView (h.jobView j) nsid).isSome

/-- LOOKUP.MAP. -/
def Head.mapJob (h : Head) (j : Job) : JobEnd :=
  let nsid := j.blk.arg0
  if h.nsidOk j nsid = false then .fail rsBadParam
  else
    let size := ((h.nsView (h.jobView j) nsid).bind (·.size)).getD 0
    if size ≤ j.blk.arg1 then .fail rsNotFound
    else
      let id := h.mapEntry (h.jobView j) nsid j.blk.arg1
      .ok 0 (toBytes 8 (if id = 0 then zeroChunk else id))

/-- LOOKUP.KEY. -/
def Head.keyJob (h : Head) (j : Job) (key : List Byte) : JobEnd :=
  if h.nsidOk j j.blk.arg0 = false then .fail rsBadParam
  else match h.keyChunk (h.jobView j) j.blk.arg0 key with
    | none => .fail rsNotFound
    | some id => .ok 0 (toBytes 8 id)

/-- LOOKUP.REC. -/
def Head.recJob (h : Head) (j : Job) : JobEnd :=
  let id := j.blk.arg1
  if isPattern id ∨ h.cxLog = 0 then .fail rsBadParam
  else
    let r := h.recView (h.jobView j) id
    if rAlloc r then .ok 0 (toBytes 16 r) else .fail rsNotFound

/-! ### The end of a job -/

/-- MREAD (R163). -/
def Head.mreadJob (h : Head) (j : Job) (bad : Nat) : JobEnd :=
  let x := h.readStored bad j.blk.arg1 j.blk.ilen (bitAt j.blk.arg0 0)
  if x.status = rsOk then .ok x.degraded.toNat x.data else .fail x.status

/-- A digest or cipher slot takes its new contents. -/
def Head.setDigest (h : Head) (j : Job) (s : Option (Option DigestSt)) : Head :=
  let i := bitsAt j.blk.arg0 4 2
  match s with
  | none => h
  | some none => h.updOwner j (fun c => { c with digests := Tbl.del c.digests i })
  | some (some d) => h.updOwner j (fun c => { c with digests := Tbl.put c.digests i d })

/-- The same for a cipher slot. -/
def Head.setCipher (h : Head) (j : Job) (s : Option (Option CipherSt)) : Head :=
  let i := bitsAt j.blk.arg0 4 1
  match s with
  | none => h
  | some none => h.updOwner j (fun c => { c with ciphers := Tbl.del c.ciphers i })
  | some (some d) => h.updOwner j (fun c => { c with ciphers := Tbl.put c.ciphers i d })

/-- The lines that a job meets and from which no data can be read (R439): of its input, of the tables a lookup walks, or of the data
ring an MREAD reads. MPROG meets those of its input as it places it. -/
def Head.badOfJob (h : Head) (j : Job) : List Nat :=
  let inp := h.badHandle j.inp j.blk.ioff j.blk.ilen
  match j.kind with
  | .lookupFp => if inp = [] then h.badFp (h.handleBytes j.inp j.blk.ioff j.blk.ilen) j.blk.arg0 else inp
  | .lookupRec => if isPattern j.blk.arg1 then [] else h.badRec j.blk.arg1
  | .mread => if h.locOk j.blk.arg1 then h.badStored j.blk.arg1 j.blk.ilen else []
  | .mprog => []
  | _ => inp

/-- A job runs to its end (R143, R144). `bad`: the strip positions whose inner code fails in its read. Of an MPROG only the
placement is checked here; it ends once both copies are durable, or with FENCED where FE_STS.FENCED became 1 before (R164). The MREAD of a
background job waits for the budget of its class on the ports it reads (R47, R252). -/
def Head.runJob (h : Head) (n : Nat) (j : Job) (bad : Nat) : Head :=
  let c := h.ctx j.owner
  let b := j.blk
  let data := h.handleBytes j.inp b.ioff b.ilen
  let cap := b.cap j.outp
  match j.kind with
  | .chunk => h.finishJob n j (chunkJob b cap data)
  | .digest =>
    let (e, s) := digestJob b.arg0 (Tbl.find c.digests (bitsAt b.arg0 4 2)) data
    (h.setDigest j s).finishJob n j e
  | .dgsave =>
    h.finishJob n j (match Tbl.find c.digests (b.arg0 % 4) with
      | some s => .ok 0 (digestRecord s)
      | none => .fail rsBadParam)
  | .dgload =>
    match digestOfRecord data with
    | some s => (h.updOwner j (fun c => { c with digests := Tbl.put c.digests (b.arg0 % 4) s })).finishJob n j (.ok 0 [])
    | none => h.finishJob n j (.fail rsCtxBad)
  | .pack => h.finishJob n j (packJob b.arg0 cap data)
  | .unpack => h.finishJob n j (unpackJob b.arg0 b.arg1 cap data)
  | .encx | .decx =>
    match h.keyCheck (h.keyIssuer j) (bitsAt b.arg0 16 16) (bitsAt b.arg0 0 2 = 1) rsKeyLost rsKeyDenied with
    | .error st => h.finishJob n j (.fail st)
    | .ok k =>
      let (e, s) := cipherJob (j.kind = .decx) b.arg0 b.arg1 cap k (Tbl.find c.ciphers (bitsAt b.arg0 4 1)) data
      (h.setCipher j s).finishJob n j e
  | .ctxsv =>
    match Tbl.find c.ciphers (bitsAt b.arg0 4 1), h.roleKey 2 with
    | some s, some _ =>
      let (r, h) := h.drawBytes 192
      ({ h with umb := { h.umb with saves := (r, s) :: h.umb.saves } }).finishJob n j (.ok 0 r)
    | _, _ => h.finishJob n j (.fail rsBadParam)
  | .ctxld =>
    match (h.umb.saves.find? (fun x => x.1 = data)), h.roleKey 2 with
    | some x, some _ => (h.setCipher j (some (some x.2))).finishJob n j (.ok 0 [])
    | _, _ => h.finishJob n j (.fail rsCtxBad)
  | .pargen => h.finishJob n j (pargenJob b.arg0 b.arg1 data)
  | .parfix => h.finishJob n j (parfixJob b.arg0 b.arg1 data)
  | .lookupFp =>
    if h.viewReady j = false then h
    else if h.viewHeld j = false then h.finishJob n j (.fail rsStale)
    else
      let (a, h) := h.lookupFp (h.jobView j) (((h.ctx j.owner).work).getD 0) data b.arg0 b.arg1
      h.finishJob n j (if a.status = rsOk then .ok a.result a.bytes else .fail a.status)
  | .lookupMap => h.viewJob n j (h.mapUses (h.jobView j) b.arg0 b.arg1 1) (h.mapJob j)
  | .lookupKey => h.viewJob n j (h.keyUses (h.jobView j) b.arg0 data) (h.keyJob j data)
  | .lookupRec => h.viewJob n j [] (h.recJob j)
  | .mread =>
    let ports := if (h.jobClass j).isNone then [] else h.readPorts bad j.blk.arg1 j.blk.ilen (bitAt j.blk.arg0 0)
    let cls := (h.jobClass j).getD 0
    if h.viewReady j = false ∨ ports.any (fun q => ! h.mayUsePort cls q.1) then h
    else
      let r := h.mreadJob j bad
      ((h.countRead bad j.blk.arg1 j.blk.ilen (bitAt j.blk.arg0 0)).chargePorts cls ports).finishJob n j r
  | .mprog =>
    let h := if j.place.isSome then h else h.placeJobData n
    match Tbl.find h.jobs n with
    | none => h
    | some j =>
      if j.ended.isSome then h
      else if h.placedOk j then h.endJob n rsOk (j.place.getD 0)
      else if h.is FE_STS_FENCED then h.endJob n rsFenced 0
      else h

/-! ### Pre-emption (R146) -/

/-- The record of a pre-empted job's state in its save area. -/
def saveSize : Nat := 384

/-- Where the state of a pre-empted job may be saved (R146): the save area of the posting engine (R92), or the space of the posting
control core in the reserved Billow area (R446), in records of one size (assumption log 68, DESIGN CHOICE). -/
def saveSlots (owner : Nat) : List Nat :=
  if isStream owner then (List.range 42).map (fun i => localKey (ctxUnit owner) (0x3C000 + saveSize * i))
  else (List.range 64).map (fun i => billowBase + billowSize - 2 ^ 21 + saveSize * (64 * owner + i))

/-- The first record of the save area that no pre-empted job holds. -/
def Head.saveSlot (h : Head) (owner : Nat) : Option Nat :=
  (saveSlots owner).find? (fun a => ! h.jobs.any (fun e => e.2.save.any (fun s => s.1 = a)))

/-- What is saved of a job at an input offset (R146): a digest in the clear; a cipher's state wrapped under a key that no program can
read, so free bytes; of the other kinds the spec gives no form, and the bytes are free too. -/
def Head.saveBytes (h : Head) (j : Job) (at_ : Nat) : List Byte × Head :=
  match j.kind with
  | .digest =>
    let data := (h.handleBytes j.inp j.blk.ioff j.blk.ilen).take at_
    match (digestJob (j.blk.arg0 &&& 0x37) (Tbl.find (h.ctx j.owner).digests (bitsAt j.blk.arg0 4 2)) data).2 with
    | some (some s) => (digestRecord s, h)
    | _ => h.drawBytes saveSize
  | _ => h.drawBytes saveSize

/-- JOB_PREEMPT (R146): a long job yields its unit at the next boundary, when another job waits for a unit of its kind or the unit is
STOPPING, and its state goes to the save area; its result is that of an uninterrupted run (R144). -/
def Head.preempt (h : Head) (n : Nat) : Head :=
  match Tbl.find h.jobs n with
  | none => h
  | some j =>
    match j.accel with
    | none => h
    | some (c, a) =>
      let waits := h.jobs.any (fun e => e.1 ≠ n && e.2.ended.isNone && e.2.accel.isNone && accelServes a e.2.kind)
      let at_ := j.resume + 16384
      let slot := match j.save with
        | some s => some s.1
        | none => h.saveSlot j.owner
      if j.ended.isSome ∨ j.blk.ilen ≤ 65536 ∨ j.blk.ilen ≤ at_ ∨ (waits = false ∧ h.accelState c a ≠ uStopping) then h
      else
        match slot with
        | none => h
        | some p =>
          let (bytes, h) := h.saveBytes j at_
          let h := h.put p bytes
          let h := { h with jobs := Tbl.put h.jobs n { j with accel := none, resume := at_, save := some (p, bytes) } }
          let h := (h.jobs.filter (fun e => e.1 ≠ n)).foldl (fun (h : Head) e => h.placeJob e.1) h
          h.placeJob n

/-- The saved state of a pre-empted cipher job does not unwrap (R146): the save area no longer holds what was saved. -/
def Head.saveBroken (h : Head) (j : Job) : Bool :=
  match j.save with
  | some (a, b) => (j.kind = .encx || j.kind = .decx) && decide (h.bytes a b.length ≠ b)
  | none => false

/-! ### JOB_END -/

/-- JOB_END (R143): a job that holds a unit, or needs none, ends; waiting jobs take the unit. What HSTx has stored to its buffers
meanwhile is unpredictable, in what the job reads and in what they hold afterwards (R127). One that meets DRAM it cannot read ends
with DATA_CORRUPT (R439); a resumed cipher job whose saved state does not unwrap with CTX_BAD (R146). -/
def Head.jobEnd (h : Head) (n bad : Nat) : Head :=
  match Tbl.find h.jobs n with
  | none => h
  | some j =>
    if j.ended.isSome ∨ (j.kind.onAccel ∧ j.accel.isNone) then h
    else
      let h := h.freshen j.touched
      if h.saveBroken j then (h.finishJob n j (.fail rsCtxBad)).placeJobs
      else match h.badOfJob j with
      | [] => ((h.runJob n j bad).freshen j.touched).placeJobs
      | lines => (((h.meetBad 1 lines).finishJob n j (.fail rsDataCorrupt)).freshen j.touched).placeJobs

/-- What a kind does at its posting beside the ticket (R163, R164): the FENCED check of MREAD, MPROG's placement; a job that needs
an accelerator is placed. -/
def postHook (kind : JobKind) : PostHook := fun h n =>
  match kind with
  | .mread =>
    if h.is FE_STS_FENCED then
      match Tbl.find h.jobs n with
      | some j => h.finishJob n j (.fail rsFenced)
      | none => h
    else h
  | .mprog => h.placeJobData n
  | _ => h.placeJob n

/-! ### Failure of a unit (R147) -/

/-- The units of an accelerator's kind still ON in its cluster. -/
def Head.unitsLeft (h : Head) (c a : Nat) : Nat :=
  let kind (x : Nat) : Nat := if x < 4 then 0 else if x = 4 then 1 else if x < 7 then 2 else if x < 9 then 3 else if x < 11 then 4 else 5
  ((List.range 12).filter (fun x => kind x = kind a && h.accelState c x = uOn)).length

/-- ACC_FAILED (R147, R489): the unit is marked, stopped and retired, and its job runs again from its start on another. -/
def Head.accFailed (h : Head) (c : Fin 24) (a : Fin 12) : Head :=
  let h := h.wrBit (ACC_CL_STS_FAILED.nth c.val) a.val true
  let h := (h.unitFailed (.accelerator c a)).1
  let free (x : Job) : Job :=
    if x.accel = some (c.val, a.val) ∧ x.ended.isNone then { x with accel := none, resume := 0, save := none, rerun := some (c.val, a.val) } else x
  let h := { h with jobs := h.jobs.map (fun (e : Nat × Job) => (e.1, free e.2)) }
  let h := h.logRetired (.accelerator c.val a.val)
  (h.post 4 0x0401 2 c.val a.val (h.unitsLeft c.val a.val) 0).placeJobs

end Sys2Proof.Machine
end

