-- ==== Sys2Proof/Machine/DataPath.lean ====
section
/-! DEFINITION. The base library: what its entry does with each host command (spec/07_data_path.md). An entry runs on the
context a command was dispatched to. A Write and a KV Store are reduced chunk by chunk, one chunk a step, since each waits for
its MPROG; every other entry runs in one step. A step that waits for EP + 1 (R185) stands in EWAIT, and is taken again. -/
namespace Sys2Proof.Machine
open Reg

/-! ### Statuses of the library (R189) -/

/-- LBA_RANGE. -/
def lsLbaRange : Nat := 0x8001
/-- KEY_ABSENT. -/
def lsKeyAbsent : Nat := 0x8002
/-- COMPARE_MISS. -/
def lsCompareMiss : Nat := 0x8003
/-- BAD_OPTION. -/
def lsBadOption : Nat := 0x8004

/-- The statuses on which a recipe waits for the next epoch and retries (R185). -/
def libWaits (st : Nat) : Bool := st = rsPoolEmpty || st = rsPoolReserved || st = rsTicketsFull || st = rsInflightFull

/-! ### An entry of the library -/

/-- The base library's LIBID. -/
def libBase : Nat := 0x100

/-- A context stands at an entry of the base library. -/
def Head.atEntry (h : Head) (k : Nat) (c : Context) (entry : Nat) : Bool :=
  (Tbl.find h.libs (ctxCluster k)).any (·.libid = libBase)
    && (h.libEntry (ctxCluster k) entry).any (fun o => c.pc = BitVec.ofNat 64 (localBase + o))

/-- The attribute word passes the checks of R181 for a command set. -/
def attrFits (v : Word) (kv : Bool) : Bool := attrOk v.toNat && (attrOf v.toNat).object = kv

/-- CPLT with a status and no data. -/
def Head.libEnd (h : Head) (k st : Nat) : Head :=
  let c := h.ctx k
  h.setCtx k { c with run := .ending st .empty 0, intents := if st = rsOk then c.intents else [] }

/-- A step that receives POOL_EMPTY, POOL_RESERVED, TICKETS_FULL or INFLIGHT_FULL waits with EWAIT for EP + 1, and is taken again
(R185). -/
def Head.libWait (h : Head) (k : Nat) : Head :=
  let c := h.ctx k
  h.setCtx k { c with run := .epoch (h.epoch + 1) 0, lib := { c.lib with wait := true } }

/-- The library posts a job of its own on a context, with a live ticket. -/
def Head.libJob (h : Head) (k : Nat) (kind : JobKind) (blk : JobBlock) (inp outp : Handle) : Nat × Head :=
  let c := h.ctx k
  let (f, h) := h.draw
  let n := h.nextJob
  let t := liveTicket n f
  let bind := ((c.work.bind h.work).map (fun x => h.rowBinding x.row)).getD 0
  let j := Job.new k t kind blk inp outp c.level h.epoch bind
  let h := h.setCtx k { c with tk := t }
  (n, postHook kind { h with jobs := Tbl.put h.jobs n j, nextJob := n + 1 } n)

/-- The library takes a buffer of `n` bytes and may post one more job: the buffer, none where the step waits or fails with a status. -/
def Head.libBuffer (h : Head) (k n : Nat) : Except Nat (Nat × Head) :=
  if jobLimit k ≤ h.outstanding k then .error rsTicketsFull
  else
    match h.bget k (h.ctx k) n with
    | (_, some b, h) => .ok (b, h.setCtx k { h.ctx k with bufs := b :: (h.ctx k).bufs })
    | (st, none, _) => .error st

/-- An entry of the base library for a command: it runs on the context the command was dispatched to, and ends at once with
BAD_PARAM where the attribute word is not in order (R181). -/
def Head.library (h : Head) (k : Nat) (kv : Bool) (opc entry : Nat) (body : Head → Context → Work → Attr → Head) : Head :=
  let c := h.ctx k
  match c.work.bind h.work with
  | none => h
  | some x =>
    if c.run ≠ .running ∨ (x.cset = 1) ≠ kv ∨ x.opc ≠ opc ∨ x.qp.isNone ∨ h.atEntry k c entry = false ∨ h.plt.stopped then h
    else if attrFits (c.gr 6) kv = false then h.libEnd k rsBadParam
    else body h c x (attrOf (c.gr 6).toNat)

/-- The media key of a command's namespace, under the checks of R467; a status is met only by a step that is a cipher job. -/
def Head.mediaKey (h : Head) (x : Work) (a : Attr) : Except Nat (List Byte) :=
  match h.keyCheck (.command (h.rowBinding x.row)) a.keyslot true rsKeyLost rsKeyDenied with
  | .error st => .error st
  | .ok k => .ok k.key

/-- A command's data. -/
def Head.dataOf (h : Head) (x : Work) : List Byte := h.getSegs 0 x.len x.segs

/-! ### Intents of the library (R52) -/

/-- A record as a recipe hands it to INTENT. -/
def libIntent (type nsid : Nat) (payload : List (Nat × Nat × Nat)) : Rec64 :=
  BitVec.ofNat 512 (recOf ((0, 1, type) :: (4, 4, nsid) :: payload))

/-- MAP_SET. -/
def mapSetIntent (nsid index chunk : Nat) : Rec64 := libIntent 1 nsid [(24, 8, index), (32, 8, chunk)]

/-- MAP_TRIM. -/
def mapTrimIntent (nsid index n : Nat) : Rec64 := libIntent 2 nsid [(24, 8, index), (32, 2, n)]

/-- CHUNK_NEW with a record of count 0 (R200). -/
def chunkNewIntent (nsid loc : Nat) (p : LibChunk) : Rec64 :=
  let r := recSeal (loc + p.slen * 2 ^ 48 + p.pdig * 2 ^ 100 + p.fdig * 2 ^ 102 + p.calg * 2 ^ 104 + 2 ^ 106)
  libIntent 3 nsid [(24, 8, p.chunk), (32, 16, r), (48, 8, p.pos)]

/-- CHUNK_REF. -/
def chunkRefIntent (nsid chunk n : Nat) : Rec64 := libIntent 4 nsid [(24, 8, chunk), (32, 2, n)]

/-- KEY_PUT and KEY_DEL: KEY_DEL names no manifest. -/
def keyIntent (type nsid : Nat) (key : List Byte) (manifest : Nat) : Rec64 :=
  libIntent type nsid [(24, 16, keyNat key), (40, 1, key.length), (48, 8, manifest)]

/-- The runs of a range of map entries that lie within one map page each; `fuel` bounds their number. -/
def trimRuns : Nat → Nat → Nat → List (Nat × Nat)
  | 0, _, _ => []
  | fuel + 1, first, n =>
    if n = 0 then [] else
      let m := min n (512 - first % 512)
      (first, m) :: trimRuns fuel (first + m) (n - m)

/-- MAP_TRIM intents of a range, split at map-page boundaries. -/
def trimIntents (nsid first n : Nat) : List Rec64 := (trimRuns (n / 512 + 2) first n).map (fun r => mapTrimIntent nsid r.1 r.2)

/-- Map entries of a namespace as a write-class command sees it. -/
def Head.mapSize (h : Head) (view : Option Nat) (nsid : Nat) : Nat := ((h.nsView view nsid).bind (·.size)).getD 0

/-! ### Reading chunks (ch. 07, "Downdraft") -/

/-- The lines that the read sequence for a chunk meets and from which no data can be read: of its record, or of the data ring (R439). -/
def Head.badChunk (h : Head) (view : Option Nat) (id : Nat) : List Nat :=
  if isPattern id then []
  else
    match h.badRec id with
    | [] =>
      let r := h.recView view id
      if rAlloc r ∧ h.locOk (rLoc r) then h.badStored (rLoc r) (stored (rSlen r)) else []
    | bad => bad

/-- The read sequence for one chunk of `n` bytes in a view: a pattern chunk fills the range and reaches no module (R183). A chunk
of another length is an integrity failure (R191). `bad` names the strip positions whose reads fail, by their inner code or by a completion
of the wrong length (R190). -/
def Head.libChunk (h : Head) (bad : Nat) (view : Option Nat) (key : Except Nat (List Byte)) (id n : Nat) : Except Nat (List Byte) :=
  if isPattern id then .ok (List.replicate n (BitVec.ofNat 8 (id % 256)))
  else if h.badRec id ≠ [] then .error rsDataCorrupt
  else
    let r := h.recView view id
    if rAlloc r = false then .error rsNotFound
    else if h.is FE_STS_FENCED then .error rsFenced
    else
      let x := h.readStored bad (rLoc r) (stored (rSlen r)) true
      if x.status ≠ rsOk then .error x.status
      else
        match key with
        | .error st => .error st
        | .ok key =>
          match openChunk key id r (x.data.take (rSlen r)) with
          | .error st => .error st
          | .ok b => if b.length = n then .ok b else .error rsDataCorrupt

/-- Chunks in order, one after another. -/
def Head.libChunks (h : Head) (bad : Nat) (view : Option Nat) (key : Except Nat (List Byte)) : List (Nat × Nat) → Except Nat (List Byte)
  | [] => .ok []
  | (id, n) :: t =>
    match h.libChunk bad view key id n with
    | .error st => .error st
    | .ok b =>
      match h.libChunks bad view key t with
      | .error st => .error st
      | .ok c => .ok (b ++ c)

/-- The view of a read-class command is applied, so that its lookups may be performed (R75). -/
def Head.libReady (h : Head) (x : Work) : Bool :=
  match x.readEpoch with
  | none => true
  | some s => h.applied ≠ noEpoch && decide (s ≤ h.applied)

/-- The chunks of a block command's range at its read epoch (R162): a trimmed entry is the all-zero pattern chunk. -/
def Head.rangeChunks (h : Head) (x : Work) (a : Attr) : Except Nat (List (Nat × Nat)) :=
  let bs := 4096 * 2 ^ a.fsize
  let n := x.len / bs
  if (h.nsView x.readEpoch x.nsid).isNone then .error rsBadParam
  else if h.mapSize x.readEpoch x.nsid < x.lba + n then .error lsLbaRange
  else .ok ((List.range n).map (fun i =>
    let id := h.mapEntry x.readEpoch x.nsid (x.lba + i)
    (if id = 0 then zeroChunk else id, bs)))

/-- The lines that a block command's range meets and from which no data can be read (R439). -/
def Head.badRange (h : Head) (x : Work) (a : Attr) : List Nat :=
  match h.rangeChunks x a with
  | .error _ => []
  | .ok l => (l.flatMap (fun e => h.badChunk x.readEpoch e.1)).eraseDups

/-- The data of a block command's range (R186). -/
def Head.rangeData (h : Head) (bad : Nat) (x : Work) (a : Attr) : Except Nat (List Byte) :=
  match h.rangeChunks x a with
  | .error st => .error st
  | .ok l => h.libChunks bad x.readEpoch (h.mediaKey x a) l

/-- Data for the host goes into buffers of the context, and CPLT names them; without free buffers the entry waits (R185). -/
def Head.libAnswer (h : Head) (k : Nat) (c : Context) (data : List Byte) : Head :=
  if data = [] then h.libEnd k rsOk
  else
    match dataPools h data.length with
    | none => h.libWait k
    | some ps =>
      match h.allocAll (h.classOf k c) ps with
      | (none, _) => h.libWait k
      | (some bs, h') =>
        let ss := segsOf data.length bs
        let h' := ss.foldl (fun h s => h.setLen s.buf s.len) h'
        let h' := h'.putSegs 0 data ss
        let d := h'.nextDesc
        let h' := { h' with descTbl := Tbl.put h'.descTbl d ss, nextDesc := d + 1 }
        h'.setCtx k { c with bufs := bs ++ c.bufs, descs := d :: c.descs, run := .ending rsOk (.desc d) 0 }

/-- A read-class entry goes on once its view is applied and the metadata pages it uses are in the pool (R75, R229). -/
def Head.libView (h : Head) (k : Nat) (x : Work) (uses : List (Nat × Nat)) (f : Head → Head) : Head :=
  if h.libReady x = false then h else h.withCached k (some x) uses f

/-- The metadata pages that a block command's range uses. -/
def Head.rangeUses (h : Head) (x : Work) (a : Attr) : List (Nat × Nat) :=
  h.mapUses x.readEpoch x.nsid x.lba (x.len / (4096 * 2 ^ a.fsize))

/-- A block command that reads its range: what is made of the data, or the end with a status. -/
def Head.libRange (h : Head) (bad : Nat) (k : Nat) (x : Work) (a : Attr) (f : Head → List Byte → Head) : Head :=
  h.libView k x (h.rangeUses x a) (fun h =>
    match h.rangeData bad x a with
    | .error st => (h.meetBad 1 (h.badRange x a)).libEnd k st
    | .ok b => f h b)

/-- Read. -/
def Head.libRead (h : Head) (bad : Nat) (k : Nat) (c : Context) (x : Work) (a : Attr) : Head :=
  h.libRange bad k x a (fun h b => h.libAnswer k c b)

/-- Compare. -/
def Head.libCompare (h : Head) (bad : Nat) (k : Nat) (x : Work) (a : Attr) : Head :=
  h.libRange bad k x a (fun h b => h.libEnd k (if b = h.dataOf x then rsOk else lsCompareMiss))

/-- Verify: the read sequence without transfer. -/
def Head.libVerify (h : Head) (bad : Nat) (k : Nat) (x : Work) (a : Attr) : Head :=
  h.libRange bad k x a (fun h _ => h.libEnd k rsOk)

/-! ### Trims (R186, R187) -/

/-- The entry ends with intents recorded at CPLT. -/
def Head.libIntents (h : Head) (k : Nat) (rs : List Rec64) : Head :=
  let c := h.ctx k
  if 65536 < c.intents.length + rs.length then h.libEnd k rsIntentFull
  else h.setCtx k { c with intents := c.intents ++ rs, run := .ending rsOk .empty 0 }

/-- Write Zeroes: its range is trimmed. NLB is 0-based in Dword 12 (assumption log 11, PRESUMED). -/
def Head.libZeroes (h : Head) (k : Nat) (x : Work) : Head :=
  let n := recAt x.capsule.toNat 48 2 + 1
  if (h.liveNs x.nsid).isNone then h.libEnd k rsBadParam
  else if h.mapSize none x.nsid < x.lba + n then h.libEnd k lsLbaRange
  else h.libIntents k (trimIntents x.nsid x.lba n)

/-- Dataset Management: with the Deallocate attribute its ranges are trimmed in order, up to 65,536 intents (R187). A range is 16
bytes: its length at byte 4 and its first block at byte 8; the attribute is bit 2 of Dword 11 (assumption log 11, PRESUMED). -/
def Head.libDataset (h : Head) (k : Nat) (x : Work) : Head :=
  let b := h.dataOf x
  let rs := (List.range (b.length / 16)).map (fun i => (leAt b (16 * i + 8) 8, leAt b (16 * i + 4) 4))
  if bitAt (recAt x.capsule.toNat 44 4) 2 = false then h.libEnd k rsOk
  else if (h.liveNs x.nsid).isNone then h.libEnd k rsBadParam
  else if rs.any (fun r => decide (h.mapSize none x.nsid < r.1 + r.2)) then h.libEnd k lsLbaRange
  else h.libIntents k ((rs.flatMap (fun r => trimIntents x.nsid r.1 r.2)).take 65536)

/-! ### Reducing a chunk (ch. 07, "Reducing one chunk") -/

/-- A committed candidate is confirmed or rejected under VERIFY (R184). -/
def Head.confirm (h : Head) (bad : Nat) (a : Attr) (key : Except Nat (List Byte)) (d b : List Byte) (id record : Nat) : Except Nat Bool :=
  if a.verify = 0 then .ok true
  else if h.is FE_STS_FENCED then .error rsFenced
  else
    let x := h.readStored bad (rLoc record) (if a.verify = 1 then 64 else stored (rSlen record)) true
    if x.status = rsUnrecovered then .ok false
    else if x.status ≠ rsOk then .error x.status
    else if a.verify = 1 then .ok ((x.data.drop 8).take 32 = d.take 32)
    else
      match key with
      | .error st => .error st
      | .ok key =>
        let c := chunkDesc x.data
        let payload := ((x.data.take (rSlen record)).drop 64)
        let plain := padTo payload.length ((Config.decrypt 1 key (toBytes 16 id) payload).take payload.length)
        let e := unpackJob c.calg c.llen c.llen plain
        if e.status ≠ rsOk then .error e.status else .ok (e.out = b)

/-- LOOKUP.FP with SKIP raised by one for every rejected candidate: the answer, and whether it is a confirmed duplicate. `fuel`
bounds the candidates, of which a bucket pair has fewer. -/
def Head.findDup (h : Head) (bad w : Nat) (a : Attr) (key : Except Nat (List Byte)) (d b : List Byte) : Nat → Nat → Except Nat (FpAnswer × Bool) × Head
  | 0, _ => (.error rsNotFound, h)
  | fuel + 1, skip =>
    let (ans, h') := h.lookupFp none w d a.keyslot skip
    let lines := h.badFp d a.keyslot
    if lines ≠ [] then (.error rsDataCorrupt, h.meetBad 1 lines)
    else if ans.status ≠ rsOk then (.error ans.status, h)
    else if ans.outcome ≠ 1 then (.ok (ans, false), h')
    else
      match h.confirm bad a key d b ans.chunk ans.record with
      | .error st => (.error st, h.meetBad 1 (h.badStored (rLoc ans.record) (stored (rSlen ans.record))))
      | .ok true => (.ok (ans, true), h')
      | .ok false => h.findDup bad w a key d b fuel (skip + 1)

/-- WLOG of a namespace's chunks. -/
def Attr.wlog (a : Attr) : Nat := if a.object then 18 else 12 + a.fsize

/-- The stored form of a new chunk (R294, R295): its CALG, and header and payload. On NO_GAIN, with CALG 0, and where the frame would
be shorter than 64 bytes, the chunk is stored uncompressed. -/
def storedForm (a : Attr) (key d f b : List Byte) (id : Nat) : Nat × List Byte :=
  let e := packJob (a.calg + 16 * a.clevel + 256 * a.wlog) b.length b
  let packed : Bool := a.calg ≠ 0 && e.status = rsOk && decide (64 ≤ e.out.length)
  let calg := if packed then a.calg else 0
  let plain := if packed then e.out else b ++ List.replicate (64 - b.length) 0
  let payload := padTo plain.length ((Config.encrypt 1 key (toBytes 16 id) plain).take plain.length)
  (calg, chunkHeader a.pdig a.fdig calg b.length id d f ++ payload)

/-- What reducing a chunk came to: a chunk ID already known, a placement posted, a wait, or a failed step. -/
inductive Reduced
  | known (id : Nat)
  | posted (p : LibChunk)
  | wait
  | fail (status : Nat)
  deriving DecidableEq, Repr

/-- MPROG of a stored chunk by the library: a buffer, and the job. -/
def Head.libProgram (h : Head) (k : Nat) (a : Attr) (ans : FpAnswer) (form : Nat × List Byte) : Reduced × Head :=
  match h.libBuffer k form.2.length with
  | .ok (b, h) =>
    let blk : JobBlock := { ioff := 0, ilen := form.2.length, ooff := 0, ocap := 0, arg0 := a.pclass, arg1 := 0 }
    let (n, h) := (h.put (h.bufAddr b) form.2).libJob k .mprog blk (.buffer b) .empty
    (.posted { job := n, buf := b, chunk := ans.chunk, pos := ans.pos, pdig := a.pdig, fdig := a.fdig, calg := form.1,
               slen := form.2.length, len := 0, old := 0 }, h)
  | .error st => (if libWaits st then .wait else .fail st, h)

/-- A chunk of a write-class command is reduced. `manifest`: a manifest is no pattern. -/
def Head.reduce (h : Head) (bad k w : Nat) (x : Work) (a : Attr) (b : List Byte) (manifest : Bool) : Reduced × Head :=
  match (if manifest then none else (patternOf b).filter (fun v => toBytes 8 v = List.replicate 8 (BitVec.ofNat 8 v))) with
  | some v => (.known (0x1FFFFFFF00 + v % 256), h)
  | none =>
    let key := h.mediaKey x a
    let d := (hash a.pdig b).take 32
    let f := if a.fdig = 0 then [] else hash a.fdig b
    match h.findDup bad w a key d b 64 0, key with
    | (.error st, h'), _ => if libWaits st then (.wait, h) else (.fail st, h')
    | (.ok (ans, true), h), _ => (.known ans.chunk, h)
    | (.ok (_, false), _), .error st => (.fail st, h)
    | (.ok (ans, false), h'), .ok key =>
      match h'.libProgram k a ans (storedForm a key d f b ans.chunk) with
      | (.posted p, h') => (.posted p, h')
      | (r, _) => (r, h)

/-! ### Write and KV Store -/

/-- The placement a context waits for has ended well: its buffer returns, and CHUNK_NEW joins the list. The error OK stands for one
not ended yet, any other status for the failure of the step. -/
def Head.libPlaced (h : Head) (k : Nat) (c : Context) (x : Work) (p : LibChunk) : Except Nat (Head × Context) :=
  match (Tbl.find h.jobs p.job).bind (·.ended) with
  | none => .error rsOk
  | some (st, loc) =>
    if st ≠ rsOk then .error st
    else
      let h := ({ h with jobs := Tbl.del h.jobs p.job }).dropBufs [p.buf]
      .ok (h.setCtx k c, { c with bufs := c.bufs.erase p.buf, intents := c.intents ++ [chunkNewIntent x.nsid loc p],
                                  lib := { c.lib with placing := none } })

/-- A chunk of a command is found or placed: a Write maps its entry. -/
def libFound (x : Work) (kv : Bool) (c : Context) (id n : Nat) : Context :=
  let i := x.lba + c.lib.found.length
  let c := { c with lib := { c.lib with done := c.lib.done + n, found := c.lib.found ++ [(id, n)] } }
  if kv then c else { c with intents := c.intents ++ [mapSetIntent x.nsid i id] }

/-- The distinct chunks of a manifest that are no patterns, with the number of occurrences (R188). -/
def refCounts (l : List (Nat × Nat)) : List (Nat × Nat) :=
  l.foldl (fun acc e =>
    if isPattern e.1 then acc
    else if acc.any (·.1 = e.1) then acc.map (fun (a : Nat × Nat) => if a.1 = e.1 then (a.1, a.2 + 1) else a)
    else acc ++ [(e.1, 1)]) []

/-- The chunk that a command reduces next: the length of the first one of what is left (R179, R182), none once all is done. -/
def nextLen (a : Attr) (rest : List Byte) : Option Nat :=
  if rest = [] then none else if a.object then (contentCuts 0 0 rest).head? else some (min (4096 * 2 ^ a.fsize) rest.length)

/-- A command's entry takes its intents to CPLT (R166). -/
def Head.libDone (h : Head) (k : Nat) (c : Context) (rs : List Rec64) : Head :=
  if 65536 < c.intents.length + rs.length then h.libEnd k rsIntentFull
  else h.setCtx k { c with intents := c.intents ++ rs, run := .ending rsOk .empty 0 }

/-- The intents that end a KV Store: the manifest's references and KEY_PUT (R188). -/
def storeEnd (x : Work) (l : List (Nat × Nat)) (manifest : Nat) : List Rec64 :=
  (refCounts l).map (fun e => chunkRefIntent x.nsid e.1 e.2) ++ [keyIntent 7 x.nsid x.keyBytes manifest]

/-- The next part of a Write or a KV Store is reduced: a chunk of its data, and at the end the manifest of a KV Store. -/
def Head.libNext (h : Head) (bad : Nat) (k : Nat) (c : Context) (x : Work) (a : Attr) (kv : Bool) : Head :=
  let w := c.work.getD 0
  let rest := (h.dataOf x).drop c.lib.done
  let h := h.setCtx k c
  let placed (h : Head) (p : LibChunk) (n : Nat) (manifest : Bool) : Head :=
    let c := h.ctx k
    h.setCtx k { c with lib := { c.lib with placing := some { p with len := n }, manifest := manifest } }
  match nextLen a rest with
  | some n =>
    match h.reduce bad k w x a (rest.take n) false with
    | (.known id, h) => h.setCtx k (libFound x kv (h.ctx k) id n)
    | (.posted p, h) => placed h p n false
    | (.wait, h) => h.libWait k
    | (.fail st, h) => h.libEnd k st
  | none =>
    if kv = false then h.libDone k c []
    else
      let m := manifestBytes x.keyBytes h.headId x.nsid x.cseq x.stamp x.len c.lib.found
      match h.reduce bad k w x a m true with
      | (.known id, h) => h.libDone k (h.ctx k) (storeEnd x c.lib.found id)
      | (.posted p, h) => placed h p m.length true
      | (.wait, h) => h.libWait k
      | (.fail st, h) => h.libEnd k st

/-- One step of a Write or a KV Store: the chunk under placement is waited for, then the next part is reduced; CPLT follows the last
one (R186, R188). -/
def Head.libStore (h : Head) (bad : Nat) (k : Nat) (c : Context) (x : Work) (a : Attr) (kv : Bool) : Head :=
  match c.lib.placing with
  | none => h.libNext bad k c x a kv
  | some p =>
    match h.libPlaced k c x p with
    | .error st => if st = rsOk then h else h.libEnd k st
    | .ok (h, c) =>
      if c.lib.manifest then h.libDone k c (storeEnd x c.lib.found p.chunk)
      else h.libNext bad k (libFound x kv c p.chunk p.len) x a kv

/-- Write (R186): its range lies within the namespace. -/
def Head.libWrite (h : Head) (bad : Nat) (k : Nat) (c : Context) (x : Work) (a : Attr) : Head :=
  if (h.liveNs x.nsid).isNone then h.libEnd k rsBadParam
  else if h.mapSize none x.nsid < x.lba + x.len / (4096 * 2 ^ a.fsize) then h.libEnd k lsLbaRange
  else h.libStore bad k c x a false

/-- The options of a KV Store that make it depend on whether the key exists: bits 8 and 9 of Dword 11 (assumption log 11, PRESUMED). -/
def kvOptions (x : Work) : Bool := recAt x.capsule.toNat 45 1 % 4 ≠ 0

/-- KV Store (R188). -/
def Head.libKvStore (h : Head) (bad : Nat) (k : Nat) (c : Context) (x : Work) (a : Attr) : Head :=
  if kvOptions x then h.libEnd k lsBadOption
  else if (h.liveNs x.nsid).isNone then h.libEnd k rsBadParam
  else h.libStore bad k c x a true

/-! ### The other Key Value commands (R186, R190) -/

/-- KV Retrieve: the manifest, then the value chunks in its order; the value size goes to Dword 0 of the completion. -/
def Head.libRetrieve (h : Head) (bad : Nat) (k : Nat) (c : Context) (x : Work) (a : Attr) : Head :=
  h.libView k x (h.keyUses x.readEpoch x.nsid x.keyBytes) (fun h =>
    if (h.nsView x.readEpoch x.nsid).isNone then h.libEnd k rsBadParam
    else
      let key := h.mediaKey x a
      match h.keyChunk x.readEpoch x.nsid x.keyBytes with
      | none => h.libEnd k lsKeyAbsent
      | some id =>
        let n := (chunkDesc (h.readStored bad (rLoc (h.recView x.readEpoch id)) 64 true).data).llen
        match h.libChunk bad x.readEpoch key id n with
        | .error st => (h.meetBad 1 (h.badChunk x.readEpoch id)).libEnd k st
        | .ok m =>
          match parseManifest m with
          | none => h.libEnd k rsDataCorrupt
          | some (size, es) =>
            match h.libChunks bad x.readEpoch key es with
            | .error st => (h.meetBad 1 (es.flatMap (fun e => h.badChunk x.readEpoch e.1)).eraseDups).libEnd k st
            | .ok b => (h.updWork (c.work.getD 0) (fun y => { y with dw0 := size })).libAnswer k c b)

/-- Ascending byte order, the shorter key first on a common prefix. -/
def keyLe : List Byte → List Byte → Bool
  | [], _ => true
  | _ :: _, [] => false
  | a :: s, b :: t => if a = b then keyLe s t else decide (a.toNat < b.toNat)

/-- Insert a key in that order. -/
def insertKey (x : List Byte) : List (List Byte) → List (List Byte)
  | [] => [x]
  | y :: t => if keyLe x y then x :: y :: t else y :: insertKey x t

/-- The keys of a namespace in a view, in order. -/
def Head.keysOf (h : Head) (view : Option Nat) (nsid : Nat) : List (List Byte) :=
  let pages := (h.pages.map (fun (p : Nat × List PageVer) => p.1)).filter (fun p => p / 2 ^ 80 = h.viewKey view nsid)
  let slots := pages.flatMap (fun p => ((h.pageView view nsid (p % 2 ^ 80)).map (fun v => v.entries.map (fun (e : Nat × PageSlot) => e.2))).getD [])
  slots.foldl (fun acc s => insertKey (toBytes s.len s.key) acc) []

/-- As much of a KV List answer as fits: each key with its length in two bytes, padded to four (assumption log 11, PRESUMED). -/
def listKeys : Nat → List (List Byte) → Nat × List Byte
  | _, [] => (0, [])
  | room, key :: t =>
    let e := padTo (roundUp (2 + key.length) 4) (toBytes 2 key.length ++ key)
    if room < e.length then (0, [])
    else
      let (n, b) := listKeys (room - e.length) t
      (n + 1, e ++ b)

/-- KV List: keys of the read epoch from the given key on. -/
def Head.libList (h : Head) (k : Nat) (c : Context) (x : Work) : Head :=
  h.libView k x (h.nsUses x.readEpoch x.nsid) (fun h =>
    if (h.nsView x.readEpoch x.nsid).isNone then h.libEnd k rsBadParam
    else
      let keys := (h.keysOf x.readEpoch x.nsid).filter (fun y => keyLe x.keyBytes y)
      let (n, b) := listKeys (x.len - 4) keys
      h.libAnswer k c ((toBytes 4 n ++ b).take x.len))

/-- KV Delete: KEY_DEL whatever the key's state. -/
def Head.libDelete (h : Head) (k : Nat) (x : Work) : Head := h.libIntents k [keyIntent 8 x.nsid x.keyBytes 0]

/-- KV Exist. -/
def Head.libExist (h : Head) (k : Nat) (x : Work) : Head :=
  h.libView k x (h.keyUses x.readEpoch x.nsid x.keyBytes) (fun h =>
    if (h.nsView x.readEpoch x.nsid).isNone then h.libEnd k rsBadParam
    else h.libEnd k (if (h.keyChunk x.readEpoch x.nsid x.keyBytes).isSome then rsOk else lsKeyAbsent))

/-! ### The commands -/

/-- A host command at its two instants: its capsule arrives, or its entry runs, where `bad` names the strip positions whose reads fail
(R340, R186, R190); one whose fetched data cannot be read
ends with DATA_CORRUPT (R439). -/
def State.hostCmd (s : State) (kv : Bool) (opc entry : Nat) (c : HostCmd)
    (body : Head → Nat → Nat → Context → Work → Attr → Head) : Host.Outcome State Fault Refusal :=
  s.apply (fun h =>
    match c with
    | .arrive p => h.capsuleIn kv (fun o => o = opc) p
    | .handle cl e n bad =>
      let k := ctxKey (.stream cl e n)
      h.library k kv opc entry (fun h c x a =>
        match h.badSegs 0 x.len x.segs with
        | [] => body h bad.toNat k c x a
        | lines => (h.meetBad 1 lines).libEnd k rsDataCorrupt))

/-- Flush (R186): completes OK at once. -/
def execNvmeFlush (cmd : HostCmd) (s : State) : Host.Outcome State Fault Refusal :=
  s.hostCmd false 0 5 cmd (fun h _ k _ _ _ => h.libEnd k rsOk)

/-- Write (R186). -/
def execNvmeWrite (cmd : HostCmd) (s : State) : Host.Outcome State Fault Refusal :=
  s.hostCmd false 1 1 cmd (fun h bad k c x a => h.libWrite bad k c x a)

/-- Read (R186). -/
def execNvmeRead (cmd : HostCmd) (s : State) : Host.Outcome State Fault Refusal :=
  s.hostCmd false 2 2 cmd (fun h bad k c x a => h.libRead bad k c x a)

/-- Compare (R186). -/
def execNvmeCompare (cmd : HostCmd) (s : State) : Host.Outcome State Fault Refusal :=
  s.hostCmd false 5 6 cmd (fun h bad k _ x a => h.libCompare bad k x a)

/-- Write Zeroes (R186). -/
def execNvmeWriteZeroes (cmd : HostCmd) (s : State) : Host.Outcome State Fault Refusal :=
  s.hostCmd false 8 3 cmd (fun h _ k _ x _ => h.libZeroes k x)

/-- Dataset Management (R187). -/
def execNvmeDatasetManagement (cmd : HostCmd) (s : State) : Host.Outcome State Fault Refusal :=
  s.hostCmd false 9 4 cmd (fun h _ k _ x _ => h.libDataset k x)

/-- Verify (R186). -/
def execNvmeVerify (cmd : HostCmd) (s : State) : Host.Outcome State Fault Refusal :=
  s.hostCmd false 0x0C 7 cmd (fun h bad k _ x a => h.libVerify bad k x a)

/-- The opcodes that are I/O commands of a command set or reservation commands. -/
def definedOpc (kv : Bool) (o : Nat) : Bool :=
  cmdKind kv o ≠ .other

/-- An undefined I/O opcode (R104, R340): its capsule passes the checks; dispatch completes it. -/
def execNvmeUndefinedOpcode (kv : Bool) (c : Capsule) (s : State) : Host.Outcome State Fault Refusal :=
  s.apply (fun h => h.capsuleIn kv (fun o => ! definedOpc kv o) c)

/-- KV Store (R188). -/
def execKvStore (cmd : HostCmd) (s : State) : Host.Outcome State Fault Refusal :=
  s.hostCmd true 1 16 cmd (fun h bad k c x a => h.libKvStore bad k c x a)

/-- KV Retrieve (R186, R190). -/
def execKvRetrieve (cmd : HostCmd) (s : State) : Host.Outcome State Fault Refusal :=
  s.hostCmd true 2 17 cmd (fun h bad k c x a => h.libRetrieve bad k c x a)

/-- KV List (R186). -/
def execKvList (cmd : HostCmd) (s : State) : Host.Outcome State Fault Refusal :=
  s.hostCmd true 6 20 cmd (fun h _ k c x _ => h.libList k c x)

/-- KV Delete (R186). -/
def execKvDelete (cmd : HostCmd) (s : State) : Host.Outcome State Fault Refusal :=
  s.hostCmd true 0x10 18 cmd (fun h _ k _ x _ => h.libDelete k x)

/-- KV Exist (R186). -/
def execKvExist (cmd : HostCmd) (s : State) : Host.Outcome State Fault Refusal :=
  s.hostCmd true 0x14 19 cmd (fun h _ k _ x _ => h.libExist k x)

end Sys2Proof.Machine
end

