-- ==== Sys2Proof/Machine/Background.lean ====
section
/-! DEFINITION. The base library's background jobs: collection, fold, re-placement and reshape of a stripe (spec/09_fogbank_flash.md,
R223, R232, R233; spec/10_redundancy.md, R273, R276), the rewrite of a repaired chunk (spec/07_data_path.md, R192), and fixity audit and
re-digest (R193). A job runs on the context it was dispatched to, which stands at the entry it is bound to, and takes its next step in
a tick: it posts one MREAD or MPROG at a time, and goes on once that has ended (assumption log 69, DESIGN CHOICE). -/
namespace Sys2Proof.Machine
open Reg

/-! ### The chunks of a stripe -/

/-- The chunk list of a stripe, as (chunk, location) (R233, R293): its directory, or of a stripe under re-placement the data references
that it has in the ring (R223); or the status of the read. -/
def Head.stripeChunks (h : Head) (s kind : Nat) : Except Nat (List (Nat × Nat)) :=
  if kind = 2 then .ok ((h.cmt.ring.filter (fun r => r.loc ≠ 0 && locStripe r.loc = s)).map (fun r => (r.chunk, r.loc)))
  else
    let x := h.readStored 0 (mkLoc s 0) 128 true
    if x.status ≠ rsOk then .error x.status
    else if headBlockOk x.data = false then .error rsDataCorrupt
    else
      let n := leAt x.data 40 4
      let d := h.readStored 0 (mkLoc s ((h.geomOf (stripeBand s)).1 * 4096 - dirUnits n)) (64 * dirUnits n) true
      if d.status ≠ rsOk then .error d.status
      else
        .ok (((List.range n).map (fun i => (leAt d.data (16 * i) 8, mkLoc s (leAt d.data (16 * i + 8) 4)))).filter (fun e => e.1 ≠ 0))

/-- The CHUNK_NEW of a chunk of a stripe under re-placement may still be applied: its epoch is not (R223). -/
def Head.chunkPending (h : Head) (id loc : Nat) : Bool :=
  h.cmt.ring.any (fun r => r.chunk = id && r.loc = loc && r.epoch.any (fun e => h.applied = noEpoch || decide (h.applied < e)))

/-! ### Steps that every job takes -/

/-- The progress of a context's library job. -/
def Head.setLib (h : Head) (k : Nat) (l : LibSt) : Head := h.setCtx k { h.ctx k with lib := l }

/-- A step that fails: the job waits, or ends through CPLT with the status (R185). -/
def Head.libFail (h : Head) (k st : Nat) : Head := if libWaits st then h.libWait k else h.libEnd k st

/-- MREAD with REBUILD of a chunk's stored bytes into a buffer (R193, R233). -/
def Head.bgRead (h : Head) (k id : Nat) : Head :=
  let r := h.chunkRec id
  let n := stored (rSlen r)
  match h.libBuffer k n with
  | .error st => h.libFail k st
  | .ok (b, h) =>
    let blk : JobBlock := { ioff := 0, ilen := n, ooff := 0, ocap := 0, arg0 := 1, arg1 := rLoc r }
    let (j, h) := h.libJob k .mread blk .empty (.buffer b)
    let l := (h.ctx k).lib
    h.setLib k { l with placing := some { job := j, buf := b, chunk := id, pos := 0, pdig := rPdig r, fdig := 0, calg := rCalg r,
                                          slen := rSlen r, len := 0, old := rLoc r } }

/-- MPROG of a chunk's stored bytes, which stand in the buffer (R192, R193, R233). -/
def Head.bgProgram (h : Head) (k : Nat) (p : LibChunk) (cls : Nat) : Head :=
  let blk : JobBlock := { ioff := 0, ilen := p.slen, ooff := 0, ocap := 0, arg0 := cls, arg1 := 0 }
  let (j, h) := (h.setLen p.buf p.slen).libJob k .mprog blk (.buffer p.buf) .empty
  let l := (h.ctx k).lib
  h.setLib k { l with placing := some { p with job := j } }

/-- The job that the context waited for has ended, and its chunk is done with: the buffer returns. -/
def Head.bgDrop (h : Head) (k : Nat) (p : LibChunk) : Head :=
  let h := ({ h with jobs := Tbl.del h.jobs p.job }).dropBufs [p.buf]
  let c := h.ctx k
  h.setCtx k { c with bufs := c.bufs.erase p.buf, lib := { c.lib with placing := none } }

/-- CHUNK_MOVE from the old location to the new one (R52). -/
def moveIntent (id old new : Nat) : Rec64 := libIntent 6 0 [(24, 8, id), (32, 6, old), (40, 6, new)]

/-- The move of a chunk that has been placed is recorded: the status. -/
def Head.bgMove (h : Head) (k : Nat) (x : Work) (p : LibChunk) (new : Nat) : Nat × Head :=
  let h := h.bgDrop k p
  let (st, c, h) := h.intentC (h.ctx k) x (moveIntent p.chunk p.old new)
  (st, h.setCtx k c)

/-! ### Collection, fold, re-placement and reshape (R223, R233, R273) -/

/-- The next chunk of the list that is to be moved is read: one whose record has ALLOC 1 and the listed location. A chunk of a stripe
under re-placement whose CHUNK_NEW is not applied yet is waited for (assumption log 69, DESIGN CHOICE). The job ends with the list. -/
def Head.stripeNext (h : Head) (k : Nat) : List (Nat × Nat × Nat) → Head
  | [] => h.libEnd k rsOk
  | (id, loc, n) :: t =>
    let here := h.setLib k { (h.ctx k).lib with listed := true, todo := (id, loc, n) :: t }
    if h.badRec id ≠ [] then (here.meetBad 1 (h.badRec id)).libEnd k rsDataCorrupt
    else
      let r := h.chunkRec id
      if rAlloc r ∧ rLoc r = loc then (h.setLib k { (h.ctx k).lib with listed := true, todo := t }).bgRead k id
      else if h.chunkPending id loc then here.libWait k
      else h.stripeNext k t

/-- A stripe's job takes its first step: the chunk list. -/
def Head.stripeBegin (h : Head) (k : Nat) (x : Work) : Head :=
  match h.stripeChunks (recAt x.capsule.toNat 0 8) (recAt x.capsule.toNat 8 1) with
  | .error st => h.libFail k st
  | .ok l => h.stripeNext k (l.map (fun e => (e.1, e.2, 0)))

/-- A stripe's job goes on after an MREAD or an MPROG: what was read is placed in a collection band of the same class, what was placed
is moved; a chunk that cannot be recovered is left in place (R273). -/
def Head.stripeGo (h : Head) (k : Nat) (x : Work) (p : LibChunk) (kind : JobKind) (st res : Nat) : Head :=
  let s := recAt x.capsule.toNat 0 8
  if kind = .mread then
    if st = rsOk then ({ h with jobs := Tbl.del h.jobs p.job }).bgProgram k p (h.band (stripeBand s)).cls
    else if st = rsUnrecovered then (h.bgDrop k p).stripeNext k (h.ctx k).lib.todo
    else h.libFail k st
  else if st ≠ rsOk then h.libFail k st
  else
    let (st, h) := h.bgMove k x p res
    if st ≠ rsOk then h.libFail k st else h.stripeNext k (h.ctx k).lib.todo

/-! ### Fixity audit and re-digest (R193) -/

/-- An audit job's descriptor. -/
structure AuditJob where
  chunk : Nat
  redigest : Bool
  nfdig : Nat
  slot : Nat
  deriving DecidableEq, Repr

/-- The descriptor from its 64 bytes; none where a reserved field is not zero, MODE is neither 0 nor 1, or NFDIG of an audit is not zero
(assumption log 73, DEDUCED). -/
def auditOf (v : Nat) : Option AuditJob :=
  let mode := recAt v 8 1
  if 2 ^ 37 ≤ recAt v 0 8 ∨ 1 < mode ∨ 3 < recAt v 9 1 ∨ (mode = 0 ∧ recAt v 9 1 ≠ 0) ∨ recAt v 12 52 ≠ 0 then none
  else some { chunk := recAt v 0 8, redigest := mode = 1, nfdig := recAt v 9 1, slot := recAt v 10 2 }

/-- An audit job takes its first step: the descriptor, LOOKUP.REC, and the read. -/
def Head.auditBegin (h : Head) (k : Nat) (x : Work) : Head :=
  match auditOf x.capsule.toNat with
  | none => h.libEnd k rsBadParam
  | some a =>
    let r := h.chunkRec a.chunk
    if isPattern a.chunk ∨ h.cxLog = 0 then h.libEnd k rsBadParam
    else if h.badRec a.chunk ≠ [] then (h.meetBad 1 (h.badRec a.chunk)).libEnd k rsDataCorrupt
    else if rAlloc r = false then h.libEnd k rsNotFound
    else if a.redigest ∧ a.nfdig = rPdig r then h.libEnd k rsBadParam
    else h.bgRead k a.chunk

/-- Every digest of a chunk's header is that of its logical bytes. -/
def digestsMatch (data plain : List Byte) : Bool :=
  let d := chunkDesc data
  (data.drop 8).take 32 = padTo 32 ((hash d.pdig plain).take 32)
    && (data.drop 40).take 16 = (if d.fdig = 0 then List.replicate 16 0 else padTo 16 ((hash d.fdig plain).take 16))

/-- What an audit finds in the bytes it read: the logical bytes, or the status. -/
def Head.auditFinds (h : Head) (a : AuditJob) (r : Nat) (data : List Byte) : Except Nat (List Byte) :=
  match h.keyCheck .background a.slot true rsKeyLost rsKeyDenied with
  | .error st => .error st
  | .ok key =>
    match openChunk key.key a.chunk r data with
    | .error st => .error st
    | .ok b => if digestsMatch data b then .ok b else .error rsVerifyFail

/-- The stored bytes under a new header with another fixity digest: the primary digest and the payload stay. -/
def redigested (data plain : List Byte) (nfdig : Nat) : List Byte :=
  let d := chunkDesc data
  chunkHeader d.pdig nfdig d.calg d.llen d.id ((data.drop 8).take 32) (if nfdig = 0 then [] else hash nfdig plain) ++ data.drop 64

/-- An audit job goes on: after the read it ends with its finding, or places the chunk under its new header; after that the move is
recorded. A mismatch rewrites nothing. The class of the placement is that of the band where the chunk lies (assumption log 69, DESIGN
CHOICE). -/
def Head.auditGo (h : Head) (k : Nat) (x : Work) (p : LibChunk) (kind : JobKind) (st res : Nat) : Head :=
  match auditOf x.capsule.toNat with
  | none => h.libEnd k rsBadParam
  | some a =>
    if st ≠ rsOk then h.libFail k st
    else if kind = .mread then
      let r := h.chunkRec p.chunk
      let data := (h.handleBytes (.buffer p.buf) 0 p.slen)
      match h.auditFinds a r data with
      | .error st => (h.bgDrop k p).libFail k st
      | .ok b =>
        if a.redigest = false then (h.bgDrop k p).libEnd k rsOk
        else
          let h := { h with jobs := Tbl.del h.jobs p.job }
          (h.put (h.bufAddr p.buf) (redigested data b a.nfdig)).bgProgram k p (h.band (stripeBand (locStripe p.old))).cls
    else
      let (st, h) := h.bgMove k x p res
      if st = rsOk then h.libEnd k rsOk else h.libFail k st

/-! ### The rewrite of a repaired chunk (R192) -/

/-- A rewrite job's descriptor, which the spec leaves to software: the chunk in bytes 0 to 7, the address of its logical bytes in 8 to
15, their length in 16 to 19, and the attribute word of its namespace in 24 to 31 (assumption log 69, DESIGN CHOICE). -/
structure RewriteJob where
  chunk : Nat
  addr : Nat
  len : Nat
  attr : Nat
  deriving DecidableEq, Repr

/-- The descriptor from its 64 bytes. -/
def rewriteOf (v : Nat) : RewriteJob := { chunk := recAt v 0 8, addr := recAt v 8 8, len := recAt v 16 4, attr := recAt v 24 8 }

/-- The stored form of the repaired bytes under the same chunk ID, where it has the record's length and compression, which a move
keeps. -/
def rewriteForm (w : RewriteJob) (key : List Byte) (r : Nat) (b : List Byte) : Option (List Byte) :=
  let a := attrOf w.attr
  let f := storedForm a key ((hash a.pdig b).take 32) (if a.fdig = 0 then [] else hash a.fdig b) b w.chunk
  if f.2.length = rSlen r ∧ f.1 = rCalg r ∧ a.pdig = rPdig r then some f.2 else none

/-- A rewrite job takes its first step: the chunk is encrypted again under the same ID, and placed. -/
def Head.rewriteBegin (h : Head) (k : Nat) (x : Work) : Head :=
  let w := rewriteOf x.capsule.toNat
  let a := attrOf w.attr
  let r := h.chunkRec w.chunk
  if isPattern w.chunk ∨ h.cxLog = 0 ∨ attrOk w.attr = false ∨ w.len = 0 ∨ 262144 < w.len ∨ h.inMemory w.addr w.len = false then
    h.libEnd k rsBadParam
  else if h.badRec w.chunk ≠ [] then (h.meetBad 1 (h.badRec w.chunk)).libEnd k rsDataCorrupt
  else if h.badLines w.addr w.len ≠ [] then (h.meetBad 1 (h.badLines w.addr w.len)).libEnd k rsDataCorrupt
  else if rAlloc r = false then h.libEnd k rsNotFound
  else
    match h.keyCheck .background a.keyslot true rsKeyLost rsKeyDenied with
    | .error st => h.libEnd k st
    | .ok key =>
      match rewriteForm w key.key r (h.bytes w.addr w.len) with
      | none => h.libEnd k rsBadParam
      | some form =>
        match h.libBuffer k form.length with
        | .error st => h.libFail k st
        | .ok (b, h) =>
          let p : LibChunk := { job := 0, buf := b, chunk := w.chunk, pos := 0, pdig := rPdig r, fdig := a.fdig, calg := rCalg r,
                                slen := form.length, len := 0, old := rLoc r }
          (h.put (h.bufAddr b) form).bgProgram k p a.pclass

/-- A rewrite job goes on after its MPROG: the move is recorded. -/
def Head.rewriteGo (h : Head) (k : Nat) (x : Work) (p : LibChunk) (st res : Nat) : Head :=
  if st ≠ rsOk then h.libFail k st
  else
    let (st, h) := h.bgMove k x p res
    if st = rsOk then h.libEnd k rsOk else h.libFail k st

/-! ### A job's step -/

/-- A context stands at the entry of the base library that a background job is bound to. -/
def Head.atJob (h : Head) (k : Nat) (c : Context) (x : Work) : Bool :=
  decide (c.run = .running) && ! h.plt.stopped && x.bound.any (fun b =>
    b.lib = libBase && (h.libEntry (ctxCluster k) b.index).any (fun o => c.pc = BitVec.ofNat 64 (localBase + o)))

/-- The first step of a job of a budget class; the base library has no job of the other classes. -/
def Head.bgBegin (h : Head) (k : Nat) (x : Work) (cls : Nat) : Head :=
  if cls = bGc ∨ cls = bFold ∨ cls = bReshape then
    if (h.ctx k).lib.listed then h.stripeNext k (h.ctx k).lib.todo else h.stripeBegin k x
  else if cls = bAudit then h.auditBegin k x
  else if cls = bRebuild then h.rewriteBegin k x
  else h

/-- The step after a job that has ended. -/
def Head.bgGo (h : Head) (k : Nat) (x : Work) (cls : Nat) (p : LibChunk) (kind : JobKind) (st res : Nat) : Head :=
  if cls = bGc ∨ cls = bFold ∨ cls = bReshape then h.stripeGo k x p kind st res
  else if cls = bAudit then h.auditGo k x p kind st res
  else h.rewriteGo k x p st res

/-- A background job of the base library takes its next step, unless it waits for a job of its own. -/
def Head.bgStep (h : Head) (k : Nat) : Head :=
  let c := h.ctx k
  match c.work.bind h.work with
  | none => h
  | some x =>
    match x.budget with
    | none => h
    | some cls =>
      if h.atJob k c x = false then h
      else
        match c.lib.placing with
        | none => h.bgBegin k x cls
        | some p =>
          match Tbl.find h.jobs p.job with
          | none => h
          | some j =>
            match j.ended with
            | none => h
            | some (st, res) => h.bgGo k x cls p j.kind st res

/-- The background jobs of the base library go on. -/
def Head.bgSteps (h : Head) : Head := (h.ctxs.filter (fun e => isStream e.1)).foldl (fun (h : Head) e => h.bgStep e.1) h

end Sys2Proof.Machine
end

