-- ==== Sys2Proof/Machine/Clocks.lean ====
section
/-! DEFINITION. The events at Meridian's reference inputs (spec/02_meridian_epochs.md, R24 to R43). -/
namespace Sys2Proof.Machine
open Reg

/-- TOD_MESSAGE (R24, R25). -/
def execTodMessage (bytes : List Byte) (afterPulse : Bool) (s : State) : Host.Outcome State Fault Refusal :=
  s.apply (fun h => h.todMessage bytes afterPulse)

/-- FRAME_PULSE (R35, R36, R40, R43). -/
def execFramePulse (pair : ClockPair) (s : State) : Host.Outcome State Fault Refusal := s.apply (fun h => h.framePulse pair)

/-- REF_CLOCK_LOSS (R36). -/
def execRefClockLoss (pair : ClockPair) (s : State) : Host.Outcome State Fault Refusal := s.apply (fun h => h.refClockLoss pair)

/-- FREQUENCY_WINDOW_END (R35, R36). -/
def execFrequencyWindowEnd (source : Fin 3) (inRange : Bool) (s : State) : Host.Outcome State Fault Refusal :=
  s.apply (fun h => h.frequencyWindow source.val inRange)

/-- PTP_MESSAGE (R26). -/
def execPtpMessage (m : PtpMsg) (s : State) : Host.Outcome State Fault Refusal := s.apply (fun h => h.ptpMessage m)

/-- PTP_MASTER_LOSS (R36). -/
def execPtpMasterLoss (s : State) : Host.Outcome State Fault Refusal := s.apply Head.ptpMasterLoss

/-- REF_SELECT (R37). -/
def execRefSelect (s : State) : Host.Outcome State Fault Refusal := s.apply Head.refSelect

/-- HOLDOVER_LIMIT (R39). -/
def execHoldoverLimit (s : State) : Host.Outcome State Fault Refusal := s.apply Head.holdoverLimit

end Sys2Proof.Machine
end

