-- ==== Sys2Proof/Machine/MemEvents.lean ====
section
/-! DEFINITION. The events of the memory controller and of the Veil caches (spec/16_memory.md, R430 to R453). -/
namespace Sys2Proof.Machine
open Reg

/-- FILL_DONE (R430). -/
def execFillDone (s : State) : Host.Outcome State Fault Refusal := s.apply Head.fillDone

/-- REFRESH_SLOT (R431). -/
def execRefreshSlot (channel : Fin 12) (s : State) : Host.Outcome State Fault Refusal := s.apply (fun h => h.refreshSlot channel.val)

/-- FREQ_CHANGE_WINDOW (R433): `repair` 0 to 2 is what the devices answer to a repair: done, no spare row, failed; `ns` how long it took. -/
def execFreqChangeWindow (repair : Fin 3) (ns : BitVec 32) (s : State) : Host.Outcome State Fault Refusal :=
  s.apply (fun h => h.freqWindow (repair.val + 1) ns.toNat)

/-- SCRUB_STEP (R441). -/
def execScrubStep (ticks : BitVec 16) (found : List (Nat × Soft)) (s : State) : Host.Outcome State Fault Refusal :=
  s.apply (fun h => h.scrubStep ticks.toNat found)

/-- MERGE_ENTRY_TIMEOUT (R436). -/
def execMergeEntryTimeout (line : BitVec 48) (s : State) : Host.Outcome State Fault Refusal :=
  s.apply (fun h => h.mergeTimeout line.toNat)

/-- VEIL_FILL_COMPLETE (R450). -/
def execVeilFillComplete (cache : Fin 28) (entry : Fin 48) (s : State) : Host.Outcome State Fault Refusal :=
  s.apply (fun h => h.veilFillComplete cache.val entry.val)

/-- VEIL_OP_DONE (R453). -/
def execVeilOpDone (s : State) : Host.Outcome State Fault Refusal := s.apply Head.veilOpDone

end Sys2Proof.Machine
end

