-- ==== Sys2Proof/Machine/Apply.lean ====
section
/-! DEFINITION. Apply: the effect of each intent at its merge position, the end of an epoch's apply, outcomes and the state
digest (spec/03_commit_and_determinism.md, R52, R69 to R72, R77 to R80; spec/08_coalesce_index.md, R206 to R211;
spec/07_data_path.md, R180; spec/09_fogbank_flash.md, R224 to R228, R237; spec/10_redundancy.md, R274, R275). -/
namespace Sys2Proof.Machine
open Reg

/-- An apply under way: the head, the epoch, the IDs merged away with the ID each stands for (R208), and the chunks installed in
this epoch as (ID, index position, domain). -/
structure Ap where
  h : Head
  e : Nat
  alias_ : List (Nat × Nat)
  fresh : List (Nat × Nat × Nat)
  deriving DecidableEq, Repr

/-- The ID an intent acts on. -/
def Ap.name (a : Ap) (id : Nat) : Nat := (Tbl.find a.alias_ id).getD id

/-- The intent had no effect. -/
def Ap.noop (a : Ap) (prior : Nat) : Outcome × Ap := ({ code := oNoop, count := 0, prior := prior }, a)

/-- A chunk intent had no effect: COUNT is the count of the chunk that PRIOR names (R71), whose record is checked as it is read
(R201). -/
def Ap.noopChunk (a : Ap) (pos id : Nat) : Outcome × Ap :=
  ({ code := oNoop, count := a.h.countOf id, prior := id },
    if isPattern id ∨ a.h.recFails id = false ∨ a.h.cmt.applyStopped then a else { a with h := a.h.recordBad a.e pos id })

/-- The intent was applied. -/
def Ap.done (a : Ap) (h : Head) (count prior : Nat) : Outcome × Ap :=
  ({ code := oApplied, count := count, prior := prior }, { a with h := h })

/-- Bytes of a record are zero. -/
def zeros (v off n : Nat) : Bool := recAt v off n = 0

/-- A chunk ID field: its bits above 36 are zero. -/
def idField (v off : Nat) : Bool := recAt v off 8 < 2 ^ 37

/-- A chunk ID may be installed by a map or key intent (R211). -/
def Head.installable (h : Head) (id : Nat) : Bool := isPattern id || rAlloc (h.chunkRec id)

/-! ### Map and key intents -/

/-- The size of a formatted block namespace, none where it is not one (R70). -/
def blockSizeOf (x : Option Ns) : Option Nat :=
  match x with
  | some n => if n.object = false ∧ n.attrs.isSome then n.size else none
  | none => none

/-- The record of a chunk that an intent installs cannot be used (R201, R439). -/
def Head.installBad (h : Head) (id : Nat) : Bool := ! isPattern id && h.recFails id

/-- A displaced map entry as R71 reports it (R224). -/
def priorEntry (v : Nat) : Nat := if v = 0 then zeroChunk else v

/-- One entry of a map page takes a value: the page is opened, the new chunk gains a reference and the displaced one loses
one (R52, R227). -/
def Head.setMap (h : Head) (e pos nsid index id : Nat) : Nat × Head :=
  let page := index / 512
  let h := h.openPage e pos nsid page
  let old := h.mapEntry none nsid index
  let x : Option PageSlot := if id = 0 then none else some { len := 0, key := 0, chunk := id }
  let h := h.setSlot e nsid page (index % 512) 4 x
  let h := if id = 0 then h else h.ref_ e pos id
  (old, if old = 0 then h else h.unref e pos old)

/-- MAP_SET. -/
def Ap.mapSet (a : Ap) (pos nsid v : Nat) : Outcome × Ap :=
  let index := recAt v 24 8
  let id := a.name (recAt v 32 8)
  match blockSizeOf (a.h.liveNs nsid) with
  | none => a.noop 0
  | some size =>
    if size ≤ index then a.noop 0
    else if a.h.installBad id then { a with h := a.h.recordBad a.e pos id }.noop 0
    else if a.h.installable id = false then a.noop 0
    else
      let (old, h) := a.h.setMap a.e pos nsid index id
      a.done h (h.countOf old) (priorEntry old)

/-- MAP_TRIM. -/
def Ap.mapTrim (a : Ap) (pos nsid v : Nat) : Outcome × Ap :=
  let first := recAt v 24 8
  let n := recAt v 32 2
  match blockSizeOf (a.h.liveNs nsid) with
  | none => a.noop 0
  | some size =>
    if n = 0 ∨ 512 < n ∨ first / 512 ≠ (first + n - 1) / 512 ∨ size < first + n then a.noop 0
    else
      let old := a.h.mapEntry none nsid first
      let h := (List.range n).foldl (fun h i => (h.setMap a.e pos nsid (first + i) 0).2) a.h
      a.done h (h.countOf old) (priorEntry old)

/-- The key of a key intent, none where its length or padding is wrong (R70). -/
def keyOf (v : Nat) : Option (List Byte) :=
  let n := recAt v 40 1
  if 1 ≤ n ∧ n ≤ 16 ∧ zeros v (24 + n) (16 - n) then some (toBytes n (recAt v 24 16)) else none

/-- The namespace of a key intent is a formatted object namespace. -/
def objectNs (x : Option Ns) : Bool := x.any (fun n => n.object && n.attrs.isSome)

/-- A chunk that a KEY_PUT names is a manifest. -/
def Head.nameManifest (h : Head) (id : Nat) : Head :=
  if isPattern id ∨ h.fb.manifests.contains id then h else { h with fb := { h.fb with manifests := id :: h.fb.manifests } }

/-- KEY_PUT: the manifest gains a reference, and the displaced one loses one. One that installs nothing still names its manifest,
whose references go with it at the end of the apply (R210). -/
def Ap.keyPut (a : Ap) (pos nsid v : Nat) : Outcome × Ap :=
  let id := a.name (recAt v 48 8)
  let a := if a.fresh.any (·.1 = id) then { a with h := a.h.nameManifest id } else a
  match keyOf v with
  | none => a.noop 0
  | some key =>
    if objectNs (a.h.liveNs nsid) = false then a.noop 0
    else if a.h.installBad id then { a with h := a.h.recordBad a.e pos id }.noop 0
    else if a.h.installable id = false then a.noop 0
    else
      let h := a.h
      let fuel := h.pages.length + 1
      let at_ := h.findKey none nsid key fuel (keyBucket nsid key)
      let old := (at_.map (·.2.2.chunk)).getD 0
      let (page, i) := match at_ with
        | some x => (x.1, x.2.1)
        | none => h.emptyKeySlot nsid fuel (keyBucket nsid key)
      let h := h.openPage a.e pos nsid page
      let h := h.setSlot a.e nsid page i 5 (some { len := key.length, key := keyNat key, chunk := id })
      let h := h.ref_ a.e pos id
      let h := h.nameManifest id
      let h := if old = 0 then h else h.unref a.e pos old
      a.done h (h.countOf old) old

/-- KEY_DEL. -/
def Ap.keyDel (a : Ap) (pos nsid v : Nat) : Outcome × Ap :=
  match keyOf v with
  | none => a.noop 0
  | some key =>
    let h := a.h
    match (if objectNs (h.liveNs nsid) then h.findKey none nsid key (h.pages.length + 1) (keyBucket nsid key) else none) with
    | none => a.noop 0
    | some (page, i, x) =>
      let h := h.openPage a.e pos nsid page
      let h := (h.setSlot a.e nsid page i 5 none).unref a.e pos x.chunk
      a.done h (h.countOf x.chunk) x.chunk

/-! ### Chunk intents -/

/-- The primary digest in the data-ring copy of a chunk at a location. -/
def Head.ringDigest (h : Head) (loc : Nat) : Option (List Byte) :=
  (h.cmt.ring.find? (fun r => r.loc = loc && r.loc ≠ 0)).map (fun r => h.bytes (h.ringAddr (r.offset) + 8) 32)

/-- The earlier chunk a CHUNK_NEW merges into, one whose entry is still in the bucket (R208). -/
def Ap.merged (a : Ap) (record pos k : Nat) : Option Nat :=
  (a.fresh.find? (fun f =>
    f.2.1 = pos && f.2.2 = k && (a.h.bucket (bitsAt pos 0 34)).any (fun x => entryId x = f.1) && (a.h.ringDigest (rLoc record)).isSome
      && a.h.ringDigest (rLoc (a.h.chunkRec f.1)) = a.h.ringDigest (rLoc record))).map (·.1)

/-- CHUNK_NEW (R206 to R208). -/
def Ap.chunkNew (a : Ap) (p nsid v : Nat) : Outcome × Ap :=
  let id := a.name (recAt v 24 8)
  let record := recAt v 32 16
  let pos := recAt v 48 8
  match (a.h.liveNs nsid).filter (fun n => n.attrs.isSome) with
  | none => a.noopChunk p id
  | some n =>
    if a.h.installBad id then { a with h := a.h.recordBad a.e p id }.noopChunk p id
    else if a.h.newOk id record pos = false then a.noopChunk p id
    else if a.h.badBucket (bitsAt pos 0 34) ≠ [] then { a with h := a.h.applyUncorr (a.h.badBucket (bitsAt pos 0 34)) }.noopChunk p id
    else
      match a.h.bucketRecBad (bitsAt pos 0 34), a.merged record pos n.keyslot with
      | some bad, _ => { a with h := a.h.recordBad a.e p bad }.noopChunk p id
      | none, some first => { a with h := a.h.bump CX_ALIAS_COUNT 1, alias_ := Tbl.put a.alias_ id first }.noopChunk p id
      | none, none =>
        let h := (a.h.installChunk a.e id record pos n.keyslot).addLive (rLoc record) (stored (rSlen record)) true
        { a with fresh := a.fresh ++ [(id, pos, n.keyslot)] }.done h 0 id

/-- CHUNK_REF and CHUNK_UNREF (R209): `up` increments. -/
def Ap.chunkRef (a : Ap) (p v : Nat) (up : Bool) : Outcome × Ap :=
  let id := a.name (recAt v 24 8)
  let n := recAt v 32 2
  if n = 0 then a.noopChunk p id
  else
    let (code, h) := if up then a.h.incRef a.e p id n else a.h.decRef a.e p id n (a.h.fb.manifests.length + 2)
    ({ code := code, count := h.countOf id, prior := id }, { a with h := h })

/-- CHUNK_MOVE (R52). -/
def Ap.chunkMove (a : Ap) (p v : Nat) : Outcome × Ap :=
  let id := a.name (recAt v 24 8)
  let r := a.h.chunkRec id
  let new := recAt v 40 6
  if a.h.recFails id then { a with h := a.h.recordBad a.e p id }.noopChunk p id
  else if rAlloc r = false ∨ rLoc r ≠ recAt v 32 6 then a.noopChunk p id
  else
    let n := stored (rSlen r)
    let h := ((a.h.setRec a.e id (recWithLoc r new)).addLive (rLoc r) n false).addLive new n true
    a.done h.freeReplaced (rCount r) id

/-! ### Global intents -/

/-- SNAP_CUT (R77, R228). -/
def Ap.snapCut (a : Ap) (v : Nat) : Outcome × Ap :=
  let id := recAt v 24 4
  let h := a.h
  if recAt v 28 1 = 0 then
    if (Tbl.find h.cmt.snapshots id).isSome ∨ 16384 ≤ h.cmt.snapshots.length then
      ({ code := oRefused, count := 0, prior := a.e },
        { a with h := (h.wr CMT_ERR_SNAPFULL 1).post 2 0x0228 1 id a.e h.cmt.snapshots.length 0 })
    else a.done ({ h with cmt := { h.cmt with snapshots := Tbl.put h.cmt.snapshots id a.e } }.touch 8 0 id 0) 0 a.e
  else if recAt v 28 1 = 1 then
    match Tbl.find h.cmt.snapshots id with
    | none => a.noop 0
    | some s =>
      a.done (({ h with cmt := { h.cmt with snapshots := Tbl.del h.cmt.snapshots id } }.touch 8 0 id 0).joinRelease) 0 s
  else a.noop 0

/-- K and M meet R255. -/
def Head.geomOk (h : Head) (k m : Nat) : Bool :=
  decide (2 ≤ k ∧ k ≤ 29 ∧ 1 ≤ m ∧ m ≤ 3 ∧ k + m ≤ 32 ∧ k + m ≤ h.mods)

/-- Bands come to exist with the geometry: band b is first owned by head b mod 2 (R217). -/
def Head.firstOwners (h : Head) : Head :=
  h.bands.foldl (fun h b => if b % 2 = 1 then h.putBand b { h.band b with owner := 1 } else h) h

/-- GEOM_STEP (R274, R275). -/
def Ap.geomStep (a : Ap) (v : Nat) : Outcome × Ap :=
  let op := recAt v 24 1
  let k := recAt v 25 1
  let m := recAt v 26 1
  let to_ := recAt v 28 4
  let h := a.h
  let bound := h.rd PAR_BOUND_BAND
  let curk := h.rd PAR_GEOM_CURK
  let curm := h.rd PAR_GEOM_CURM
  let clean := zeros v 27 1 && zeros v 32 24 && (if op = 2 then k = 0 && m = 0 else to_ = 0)
  if clean = false then a.noop bound
  else if op = 0 then
    if curk ≠ 0 ∨ h.geomOk k m = false then a.noop bound
    else a.done (((h.wr PAR_GEOM_CURK k).wr PAR_GEOM_CURM m).firstOwners).recompute 0 bound
  else if op = 1 then
    if curk = 0 ∨ h.is PAR_STS_RESHAPING ∨ k + m ≠ curk + curm ∨ (k = curk ∧ m = curm) ∨ h.geomOk k m = false then a.noop bound
    else
      let h := (((h.wr PAR_GEOM_NEWK k).wr PAR_GEOM_NEWM m).wr PAR_STS_RESHAPING 1).wr PAR_BOUND_BAND 0
      a.done (h.post 7 0x070A 0 curk curm k m) 0 bound
  else if op = 2 then
    if h.is PAR_STS_RESHAPING = false ∨ to_ ≤ bound ∨ min (bound + 64) h.bandCount < to_ then a.noop bound
    else if to_ = h.bandCount then
      let nk := h.rd PAR_GEOM_NEWK
      let nm := h.rd PAR_GEOM_NEWM
      let h := (((h.wr PAR_GEOM_CURK nk).wr PAR_GEOM_CURM nm).wr PAR_STS_RESHAPING 0).wr PAR_BOUND_BAND 0
      let h := h.recompute
      a.done (h.post 7 0x070B 0 nk nm a.e (h.rd FB_CAPU_MIB)) 0 bound
    else a.done ((h.wr PAR_BOUND_BAND to_).recompute) 0 bound
  else a.noop bound

/-! ### CONFIG (R80, R180) -/

/-- NS_CREATE: an NSID is free where no namespace of it exists and none is being reclaimed (R180, R228). -/
def Head.nsCreate (h : Head) (e value : Nat) : Option Head :=
  let n := bitsAt value 0 32
  let object := bitAt value 32
  let fsize := bitsAt value 33 2
  let slot := bitsAt value 48 16
  if n = 0 ∨ n = 0xFFFFFFFF ∨ (h.liveNs n).isSome ∨ h.reclaiming n ∨ 16383 ≤ (h.nss.filter (fun x => x.2.deleted.isNone)).length
      ∨ bitsAt value 35 13 ≠ 0 ∨ slot < 256 ∨ (if object then fsize ≠ 0 else fsize = 3) then none
  else
    let x : Ns := { object := object, fsize := fsize, keyslot := slot, attrs := none, size := none, repair := false, created := e,
                    deleted := none }
    some ((h.setAside n).setNs n x)

/-- NS_FORMAT. -/
def Head.nsFormat (h : Head) (n : Nat) (x : Ns) (value : Nat) : Option Head :=
  let a := attrOf value
  let clash := h.nss.any (fun y => y.2.deleted.isNone && y.2.keyslot = x.keyslot
    && (y.2.attrs.any (fun w => (attrOf w).pdig ≠ a.pdig)))
  if x.attrs.isSome ∨ attrOk value = false ∨ a.object ≠ x.object ∨ a.fsize ≠ x.fsize ∨ a.keyslot ≠ x.keyslot ∨ clash then none
  else some (h.setNs n { x with attrs := some value })

/-- NS_BIND (R105, R180): the pending binding of a slot of the namespace's row; a FENCE stands before NEXTVALID. -/
def Head.nsBind (h : Head) (e n value eff : Nat) : Option (Nat × Head) :=
  match h.nsEntry n with
  | none => none
  | some entry =>
    if eff < e + 4096 ∨ 2 ^ 52 ≤ value then none
    else
      let a := h.rd CORE_RTBASE_BASE * 64 + 512 * h.load (entry + 4) 2 + 32 * bitsAt value 0 4
      let old := bitsAt value 0 4 + 16 * h.load (a + 10) 2 + 2 ^ 20 * h.load (a + 12) 4
      let h := ((h.store (a + 12) 4 (bitsAt value 20 32)).store (a + 10) 2 (bitsAt value 4 16)).store (a + 16) 8 eff
      let h := h.drainMerge
      some (old, h.store (a + 2) 2 (setBitN (h.load (a + 2) 2) 1))

/-- A CONFIG item: the value it replaces and the head after, none where it is a NOOP. ASVLIMIT with a value above 65,535, which
LIMIT cannot hold, is a NOOP (assumption log 66, DESIGN CHOICE). -/
def Head.config (h : Head) (e nsid item value eff : Nat) : Option (Nat × Head) :=
  let ns := h.liveNs nsid
  match item with
  | 0x0001 =>
    let pend := (h.cmt.pendingAsv.map (·.1)).getD 0
    if e < eff ∧ value ≤ h.rd CMT_ASV_LIMIT ∧ h.rd CMT_ASV_CUR < value ∧ pend < value then
      some (h.rd CMT_ASV_CUR, { h with cmt := { h.cmt with pendingAsv := some (value, eff) } }.touch 10 0 0 0)
    else none
  | 0x0002 => if value < 65536 then some (h.rd CMT_ASV_LIMIT, (h.wr CMT_ASV_LIMIT value).touch 10 0 0 0) else none
  | 0x0003 =>
    if 100 ≤ value ∧ value ≤ 1600 ∧ eff % 65536 = 0 ∧ e + 131072 ≤ eff then
      let old := h.rd MER_EPLEN_NEXT
      let h := h.writeEplenNext value
      if h.eplenAtOk eff then some (old, h.writeEplenAt eff)
      else some (old, ((h.writeEplenAt eff).wr CMT_ERR_EPLENLATE 1).post 2 0x022A 2 eff h.epoch value 0)
    else none
  | 0x0100 => if nsid = 0 then (h.nsCreate e value).map (fun h => (0, h)) else none
  | 0x0101 => ns.bind (fun x => (h.nsFormat nsid x value).map (fun h => (0, h)))
  | 0x0102 => ns.bind (fun x =>
      if x.object ∨ x.size.isSome ∨ value = 0 ∨ 2 ^ 40 < value then none else some (0, h.setNs nsid { x with size := some value }))
  | 0x0103 => ns.bind (fun x =>
      if value ≠ 0 then none else some (0, (h.setNs nsid { x with deleted := some e }).joinRelease))
  | 0x0104 => ns.bind (fun x =>
      if 1 < value then none else some (x.repair.toNat, h.setNs nsid { x with repair := value = 1 }))
  | 0x0105 => ns.bind (fun _ => h.nsBind e nsid value eff)
  | _ => none

/-- CONFIG: a NOOP item posts CONFIG_NOOP. `inOrder`: the record passes the checks of R70. -/
def Ap.config (a : Ap) (inOrder : Bool) (nsid v : Nat) : Outcome × Ap :=
  let item := recAt v 24 2
  let value := recAt v 32 8
  let eff := recAt v 40 8
  match (if inOrder ∧ zeros v 26 6 ∧ zeros v 48 8 then a.h.config a.e nsid item value eff else none) with
  | some (old, h) => a.done h 0 old
  | none => { a with h := a.h.post 2 0x0227 1 item value eff a.e }.noop 0

/-! ### One intent, one epoch -/

/-- The bytes R52 leaves out of an intent's payload are zero, and the reserved bytes of the record (R70). -/
def intentClean (v : Nat) : Bool :=
  zeros v 3 1 && zeros v 22 2 && zeros v 56 4 && recAt v 1 1 < 8 &&
    (match recAt v 0 1 with
      | 1 => idField v 32 && zeros v 40 16
      | 2 => zeros v 34 22
      | 3 => idField v 24 && recAt v 48 8 < 2 ^ 61
      | 4 | 5 => idField v 24 && zeros v 34 22
      | 6 => idField v 24 && zeros v 38 2 && zeros v 46 10
      | 7 => zeros v 41 7 && idField v 48
      | 8 => zeros v 41 15
      | 9 => zeros v 29 27
      | _ => true)

/-- The intent at a merge position (R69, R70). -/
def Ap.intent (a : Ap) (pos : Nat) (r : Rec64) : Outcome × Ap :=
  let v := r.toNat
  let nsid := iNsid r
  let chunkType := 3 ≤ iType r && iType r ≤ 6
  let prior := recAt v 24 8
  let a := if iType r = 3 then { a with h := a.h.settleId (recAt v 24 8) } else a
  if intentClean v = false ∨ (nsid ≠ 0 ∧ (a.h.liveNs nsid).isNone) then
    if iType r = 0x0B then a.config false nsid v else if chunkType then a.noopChunk pos prior else a.noop 0
  else
    match iType r with
    | 1 => a.mapSet pos nsid v
    | 2 => a.mapTrim pos nsid v
    | 3 => a.chunkNew pos nsid v
    | 4 => a.chunkRef pos v true
    | 5 => a.chunkRef pos v false
    | 6 => a.chunkMove pos v
    | 7 => a.keyPut pos nsid v
    | 8 => a.keyDel pos nsid v
    | 9 => a.snapCut v
    | 0x0A => a.geomStep v
    | 0x0B => a.config true nsid v
    | _ => a.noop 0

/-- The 16 bytes of an outcome record (R71). -/
def Outcome.bytes (o : Outcome) : List Byte := toBytes 16 (recOf [(0, 1, o.code), (4, 4, o.count), (8, 8, o.prior)])

/-- An INTENT_CRC stops the apply (R84). -/
def Head.intentBad (h : Head) (e pos : Nat) : Head :=
  let h := (h.wr CMT_ERR_INTENTCRC 1).post 2 0x0224 2 e pos 0 0
  { h with cmt := { h.cmt with applyStopped := true } }

/-- The intents of an epoch in merge order, from a position; an apply that stops leaves the rest. -/
def Ap.run (a : Ap) : Nat → List Rec64 → List Outcome × Ap
  | _, [] => ([], a)
  | pos, r :: t =>
    if iCrcOk r = false then ([], { a with h := a.h.intentBad a.e pos })
    else
      let (o, a) := a.intent pos r
      if a.h.cmt.applyStopped then ([o], a)
      else
        let a := if o.code = oNoop ∨ o.code = oRefused then { a with h := a.h.bump CMT_NOOP_COUNT 1 } else a
        let (os, a) := a.run (pos + 1) t
        (o :: os, a)

/-- The state digest (R72). -/
def stateDigest (before : Dig) (e : Nat) (rs : List Rec64) (os : List Outcome) : Dig :=
  digOf (sha256 (digBytes before ++ toBytes 8 e ++ (List.zip rs os).flatMap (fun p => iBytes p.1 ++ p.2.bytes)))

/-- A band becomes ERASE_PENDING at the apply of an epoch (R237). -/
def Head.pendErase (h : Head) (e b : Nat) : Head :=
  let x := h.band b
  if (x.state = bClosed ∨ x.state = bVictim) ∧ x.live = 0 ∧ h.bandDurable b ∧ x.last ≤ e then
    let y := { x with state := bPending, last := e }
    if h.ownsBand b then h.setBand b y else h.putBand b y
  else h

/-- The end of an epoch's apply: chunks still without a reference are freed (R210), merged IDs are freed (R208), the release list
advances (R228), and bands without live data wait for their erase (R237). -/
def Ap.finish (a : Ap) (n : Nat) : Head :=
  let h : Head := a.fresh.foldl (fun (h : Head) (f : Nat × Nat × Nat) =>
    if h.cmt.applyStopped then h
    else if h.recFails f.1 then h.recordBad a.e n f.1
    else if rAlloc (h.chunkRec f.1) ∧ rCount (h.chunkRec f.1) = 0 then h.freeChunk (fun h m => h.unref a.e n m) a.e n f.1
    else h) a.h
  let h := { h with freedIds := h.freedIds ++ a.alias_.map (fun (p : Nat × Nat) => (p.1, a.e)) }
  let h := (h.releaseVersions a.e n).pruneVersions
  let h := h.bands.foldl (fun (h : Head) b => h.pendErase a.e b) h.settlePool
  (h.dropOldRecs.returnIds).showFree

/-- A pending version change takes effect at its epoch (R78, R80). -/
def Head.asvStep (h : Head) (e : Nat) : Head :=
  match h.cmt.pendingAsv with
  | some (v, eff) =>
    if eff ≤ e then
      let old := h.rd CMT_ASV_CUR
      (({ h with cmt := { h.cmt with pendingAsv := none } }.touch 10 0 0 0).wr CMT_ASV_CUR v).post 2 0x0226 0 old v eff 0
    else h
  | none => h

/-- The apply of an epoch's intents (R69 to R72): on success the outcomes and digests enter the apply log and CMT_APPLIED takes
the epoch. -/
def Head.applyIntents (h : Head) (e : Nat) (rs : List Rec64) : Head :=
  let h := h.asvStep e
  let before := h.cmt.digest
  let (os, a) := ({ h := h, e := e, alias_ := [], fresh := [] } : Ap).run 0 rs
  if a.h.cmt.applyStopped then a.h
  else
    let h := a.finish rs.length
    if h.cmt.applyStopped then h else
    let after := stateDigest before e rs os
    let log := (Tbl.put h.cmt.applyLog e { outcomes := os, before := before, after := after, span := Tbl.find h.cmt.spans e }).filter (fun p => e < p.1 + 64)
    { (h.wr CMT_APPLIED_EPOCH e) with cmt := { h.cmt with digest := after, applyLog := log } }

end Sys2Proof.Machine
end

