-- ==== Sys2Proof/Machine/Commit.lean ====
section
/-! DEFINITION. Sealing, commit and the order of apply: the seal messages, the spans of the intent ring, the apply of committed
epochs and the reruns of a divergence (spec/03_commit_and_determinism.md, R56 to R68, R73, R74, R78). -/
namespace Sys2Proof.Machine
open Reg

/-! ### Halves and seals (R56 to R58) -/

/-- The next epoch whose half this head seals: the one after the newest sealed, after the newest committed, and for a joiner J
at the earliest; none before a formation or a restore has set any. -/
def Head.nextSeal (h : Head) : Option Nat :=
  let s := h.rd CMT_SEALED_EPOCH
  if h.last = noEpoch ∧ s = noEpoch then none
  else
    let a := if s = noEpoch then 0 else s + 1
    let b := if h.last = noEpoch then 0 else h.last + 1
    let c := if h.role = rJoining then h.pair.joinAt.getD 0 else 0
    some (max a (max b c))

/-- The roles in which a head seals an epoch: with a twin or alone, from P in FORMING (R402), from J in JOINING (R413). -/
def Head.maySeal (h : Head) (e : Nat) : Bool :=
  h.serving || (h.role = rForming && h.pair.formEpoch.any (fun p => decide (p ≤ e)))
    || (h.role = rJoining && h.pair.joinAt.any (fun j => decide (j ≤ e)))

/-- This head's half of an epoch is complete (R56). -/
def Head.halfDone (h : Head) (e : Nat) : Bool :=
  h.is MER_STS_EPVALID && decide (e < h.epoch) && decide ((h.epochSt e).open_ = 0) && ! h.heldIntents e

/-- The bytes of the span of an epoch with `n` intents and `r` data references (R63). -/
def spanLen (n r : Nat) : Nat := 128 + 64 * n + roundUp (16 * r) 64

/-- The ring references that the intents of an epoch name, in their order: the stored chunk of each CHUNK_NEW and CHUNK_MOVE
(assumption log 16, DEDUCED). -/
def Head.refsOf (h : Head) (rs : List Rec64) : List RingRef :=
  rs.filterMap (fun r =>
    let v := r.toNat
    let loc := if iType r = 3 then some (rLoc (recAt v 32 16)) else if iType r = 6 then some (recAt v 40 6) else none
    loc.bind (fun l => h.cmt.ring.find? (fun q => q.loc = l && q.chunk = recAt v 24 8 && q.loc ≠ 0)))

/-- The twin's half as an epoch takes it: sealed, and durable in this head's journal; empty otherwise (R62). -/
def Head.twinHalf (h : Head) (e : Nat) : List Rec64 :=
  let x := h.epochSt e
  if x.twinSeal.isSome ∧ x.ackSent then x.twin else []

/-- The intent ring has room for the span of an epoch as far as its intents are known (R66). -/
def Head.spanFits (h : Head) (e : Nat) : Bool :=
  let x := h.epochSt e
  let rs := x.own ++ (if h.alone e then h.twinHalf e else x.twin)
  decide (h.cmt.intentUsed + spanLen rs.length (h.refsOf rs).length ≤ h.intentRing)

/-- The SEAL of an epoch (R57). -/
def Head.sealOf (h : Head) (e : Nat) : TwinMsg :=
  let x := h.epochSt e
  .sealMsg e x.own.length x.commands (halfCrc x.own) (h.rd CMT_ASV_MAX) h.applied h.cmt.digest

/-- SEAL_SEND (R56): the oldest half not sealed is sealed once it is complete. -/
def Head.sealSend (h : Head) : Head :=
  match h.nextSeal with
  | none => h
  | some e =>
    if h.maySeal e ∧ h.halfDone e ∧ h.spanFits e then
      let h := h.sendTwin (h.sealOf e)
      (h.setEpochSt e { h.epochSt e with sealed := true }).wr CMT_SEALED_EPOCH e
    else h

/-- SEAL_LATE (R68): each half not sealed, SEALMAX epochs after its epoch ended, once for the epoch. -/
def Head.sealLate (h : Head) : Head :=
  match h.nextSeal with
  | none => h
  | some e0 =>
    (List.range (h.epoch - h.rd CMT_CTL_SEALMAX - e0)).foldl (fun (h : Head) i =>
      let e := e0 + i
      if h.maySeal e ∧ (h.epochSt e).late = false then
        ((h.setEpochSt e { h.epochSt e with late := true }).wr CMT_ERR_SEALLATE 1).post 2 0x0220 1 e (h.epoch - (e + 1)) 0 0
      else h) h

/-! ### Divergence (R73, R74) -/

/-- The intents of a committed epoch as the journal holds them, in merge order. -/
def Head.ringBytes (h : Head) (off n : Nat) : List Byte :=
  let first := min n (h.intentRing - off)
  h.bytes (h.journal.1 + off) first ++ h.bytes h.journal.1 (n - first)

/-- The records of `n` intents from bytes. -/
def recordsOf (n : Nat) (b : List Byte) : List Rec64 := (List.range n).map (fun i => rec64 (b.drop (64 * i)))

/-- The intents that stand in a span of this head's journal. -/
def Head.intentsAt (h : Head) (s : Span) : List Rec64 :=
  recordsOf (s.n0 + s.n1) (h.ringBytes ((s.off + 64) % h.intentRing) (64 * (s.n0 + s.n1)))

/-- The intents of a committed epoch read back from this head's journal, none where its span is freed. -/
def Head.spanIntents (h : Head) (e : Nat) : Option (List Rec64) := (Tbl.find h.cmt.spans e).map h.intentsAt

/-- The outcome of an intent carried out against the PRIOR recorded for it (R74): the checks of the record itself are made again,
and what they do not decide follows from PRIOR as it did at the apply (assumption log 73, DEDUCED). -/
def rerunOutcome (r : Rec64) (o : Outcome) : Outcome :=
  if iCrcOk r = false ∨ intentClean r.toNat = false ∨ iType r = 0 ∨ 0x0B < iType r then { o with code := oNoop } else o

/-- A rerun of an epoch agrees with this head's first digest of it (R74): the intents are read from the place of its span in the
journal, freed or not. False where the apply log, of the last 64 applied epochs, no longer holds it or the digest before it. -/
def Head.rerun (h : Head) (ea : Nat) : Bool :=
  match Tbl.find h.cmt.applyLog ea with
  | none => false
  | some l =>
    match l.span with
    | none => false
    | some s =>
      let rs := h.intentsAt s
      decide (h.applied < ea + 63) && stateDigest l.before ea rs ((rs.zip l.outcomes).map (fun p => rerunOutcome p.1 p.2)) = l.after

/-- A divergence at an epoch is handled (R73, R74): the flags, the rerun and its RERUN. A later one than that being resolved
changes nothing. -/
def Head.divergeAt (h : Head) (ea : Nat) : Head :=
  let h := (h.wr CMT_ERR_DIVERGE 1).wr CMT_STS_DIVERGED 1
  if h.cmt.diverge.any (fun d => decide (d.ea ≤ ea)) then h
  else
    let own := h.rerun ea
    ({ h with cmt := { h.cmt with diverge := some { ea := ea, own := own, twin := none } } }).sendTwin (.rerun ea own)

/-- The twin's digest of an epoch is compared with this head's (R73): now, when this head has applied it, or never. -/
def Head.compareDigest (h : Head) (ea : Nat) (d : Dig) : Head :=
  if ea = noEpoch then h
  else match Tbl.find h.cmt.applyLog ea with
    | some l => if l.after = d then h else h.divergeAt ea
    | none =>
      if h.applied ≠ noEpoch ∧ ea ≤ h.applied then h
      else { h with cmt := { h.cmt with twinDigests := Tbl.put h.cmt.twinDigests ea d } }

/-- What a pair of reruns decides (R74): DIVERGENCE is posted, the divergence is resolved, and this head fences itself where it
yields. The result says whether the twin yields. -/
def Head.resolve (h : Head) (ea : Nat) (own twin : Bool) : Bool × Head :=
  let loser := if own = twin then 1 else if own then 1 - h.headId else h.headId
  let h := { h with cmt := { h.cmt with diverge := none } }.post 2 0x0223 2 ea own.toNat twin.toNat loser
  if loser = h.headId then (false, h.loseFence none) else (true, h)

/-- The twin's RERUN (R74). The result says whether the twin yields. -/
def Head.rerunIn (h : Head) (ea : Nat) (agrees : Bool) : Bool × Head :=
  if h.cmt.diverge.any (fun d => decide (d.ea < ea)) then (false, h)
  else
    let h := h.divergeAt ea
    match h.cmt.diverge with
    | none => (false, h)
    | some d =>
      if d.twin.isSome then (false, h)
      else
        let h := { h with cmt := { h.cmt with diverge := some { d with twin := some agrees } } }
        h.resolve ea d.own agrees

/-! ### The twin's half (R57 to R61, R384) -/

/-- Ring references that the twin mirrored take the epoch and location of the intents that name their chunks. -/
def Head.claimRing (h : Head) (rs : List Rec64) : Head :=
  rs.foldl (fun (h : Head) r =>
    let v := r.toNat
    let loc := if iType r = 3 then some (rLoc (recAt v 32 16)) else if iType r = 6 then some (recAt v 40 6) else none
    match loc with
    | none => h
    | some l =>
      let id := recAt v 24 8
      match h.cmt.ring.findIdx? (fun q => q.chunk = id && q.loc = 0 && q.origin ≠ h.headId) with
      | none => h
      | some i =>
        let ring := h.cmt.ring.modify i (fun q => { q with epoch := some (iEpoch r), loc := l })
        { h with cmt := { h.cmt with ring := ring } }) h

/-- INTENTS (R384): records of one epoch not yet committed join the twin's half. -/
def Head.intentsIn (h : Head) (rs : List Rec64) : Head :=
  match rs with
  | [] => h.wr SD_ERR_PROTO 1
  | r :: _ =>
    let e := iEpoch r
    if 64 < rs.length ∨ rs.any (fun q => iEpoch q ≠ e) then h.wr SD_ERR_PROTO 1
    else if h.alone e ∨ (h.last ≠ noEpoch ∧ e ≤ h.last) then h
    else
      let x := h.epochSt e
      (h.setEpochSt e { x with twin := x.twin ++ rs }).claimRing rs

/-- SEAL (R57): intents that do not match are asked for again; a half that matches is held, and the digest compared. -/
def Head.sealIn (h : Head) (s : SealInfo) (e : Nat) : Head :=
  if h.alone e ∨ (h.last ≠ noEpoch ∧ e ≤ h.last) then h
  else
    let h := { h with pair := { h.pair with twinMax := s.asvMax } }
    let x := h.epochSt e
    let newest := h.rd CMT_TWSEALED_EPOCH
    let h := h.wr CMT_TWSEALED_EPOCH (if newest = noEpoch then e else max newest e)
    let h := if x.twin.length = s.n ∧ halfCrc x.twin = s.crc then h.setEpochSt e { x with twinSeal := some s }
      else (h.setEpochSt e { x with twin := [] }).sendTwin (.sealNak e)
    h.compareDigest s.ea s.d

/-- SEAL_ACK_SEND (R57): the twin's half of an epoch is durable in this head's journal. -/
def Head.sealAckSend (h : Head) (e : Nat) : Head :=
  let x := h.epochSt e
  if x.twinSeal.isSome ∧ x.ackSent = false ∧ h.alone e = false then
    (h.setEpochSt e { x with ackSent := true }).sendTwin (.sealAck e)
  else h

/-- SEAL_ACK from the twin (R59); the count of SEAL_NAKs of the epoch ends (R58). -/
def Head.sealAckIn (h : Head) (e : Nat) : Head :=
  let x := h.epochSt e
  if h.alone e ∨ x.sealed = false then h else h.setEpochSt e { x with ackRecv := true, naks := 0 }

/-- SEAL_NAK from the twin (R58): the half and its SEAL go again; the result says whether it was the eighth for the epoch. -/
def Head.sealNakIn (h : Head) (e : Nat) : Bool × Head :=
  let x := h.epochSt e
  if h.alone e ∨ x.sealed = false then (false, h)
  else
    let h := h.setEpochSt e { x with naks := x.naks + 1 }
    if x.naks = 7 then (true, h) else (false, (h.sendIntents x.own).sendTwin (h.sealOf e))

/-- COMMIT_NOTE from the twin (R61). -/
def Head.noteIn (h : Head) (e : Nat) : Head :=
  if h.alone e then h
  else ({ h with cmt := { h.cmt with notes := [h.cmt.notes.foldl max e] } }).releaseWrites

/-! ### Commit (R59, R60, R63) -/

/-- The intents of an epoch in merge order (R55). -/
def Head.mergeOf (h : Head) (e : Nat) : List Rec64 :=
  let own := mergeHalf (h.epochSt e).own
  let twin := mergeHalf (h.twinHalf e)
  if h.headId = 0 then own ++ twin else twin ++ own

/-- The commit conditions of R59 and R62 for an epoch. -/
def Head.mayCommit (h : Head) (e : Nat) : Bool :=
  let x := h.epochSt e
  h.serving && ! h.plt.stopped && decide (h.rd CMT_ASV_MAX ≠ 0) && x.sealed && (h.alone e || (x.twinSeal.isSome && x.ackSent && x.ackRecv))

/-- This head once the committed epochs before `e` that it has not applied are applied; `fuel` bounds them. -/
def Head.appliedThrough (h : Head) (e : Nat) : Nat → Head
  | 0 => h
  | fuel + 1 =>
    let next := h.applied + 1
    if h.applied = noEpoch ∨ h.cmt.applyStopped ∨ e ≤ next then h
    else match h.spanIntents next with
      | none => h
      | some rs => (h.applyIntents next rs).appliedThrough e fuel

/-- The apply-semantics version of an epoch to be committed (R78): the version in force once every epoch before it is applied. -/
def Head.asvOf (h : Head) (e : Nat) : Nat := ((h.appliedThrough e h.cmt.spans.length).asvStep e).rd CMT_ASV_CUR

/-- A data reference (R63). -/
def RingRef.bytes (r : RingRef) : List Byte := toBytes 16 (recOf [(0, 8, r.chunk + r.origin * 2 ^ 63), (8, 6, r.offset), (14, 2, r.units)])

/-- The epoch header (R63). -/
def spanHeader (asv e n0 n1 nref : Nat) : List Byte :=
  let b := toBytes 60 (recOf [(0, 4, 0x45484A43), (4, 2, asv), (8, 8, e), (16, 4, n0), (20, 4, n1), (24, 4, nref)])
  b ++ toBytes 4 (crc32c b).toNat

/-- The commit record without its commit word (R63). -/
def commitRecord (asv e off : Nat) (body : List Byte) : List Byte :=
  toBytes 56 (recOf [(0, 4, 0x524D4F43), (4, 2, asv), (8, 8, e), (16, 8, off), (24, 8, (crc64 body).toNat)])

/-- Bytes go to the intent ring at an offset, wrapping at its end. -/
def Head.putRing (h : Head) (off : Nat) (b : List Byte) : Head :=
  let first := h.intentRing - off
  (h.put (h.journal.1 + off) (b.take first)).put h.journal.1 (b.drop first)

/-- The span of an epoch is written, fenced, and ended by its commit word (R60, R63). BODYCRC covers the header, the intents and
the data references without the zero padding after them, which R63 does not name (assumption log 66, DESIGN CHOICE). -/
def Head.writeSpan (h : Head) (e : Nat) : Head :=
  let rs := h.mergeOf e
  let n0 := (rs.filter (fun r => iHead r = 0)).length
  let refs := h.refsOf rs
  let asv := h.asvOf e
  let off := h.cmt.intentHead
  let len := spanLen rs.length refs.length
  let head := spanHeader asv e n0 (rs.length - n0) refs.length
  let refBytes := refs.flatMap RingRef.bytes
  let body := head ++ rs.flatMap iBytes ++ refBytes
  let h := (h.putRing off (padTo (len - 64) body ++ commitRecord asv e off body)).drainMerge
  let h := h.putRing ((off + len - 8) % h.intentRing) (toBytes 8 (e + 2 ^ 63))
  let s : Span := { off := off, len := len, n0 := n0, n1 := rs.length - n0, nref := refs.length, asv := asv }
  let locs := refs.map (·.loc)
  let ring := h.cmt.ring.map (fun (q : RingRef) => if locs.contains q.loc ∧ q.loc ≠ 0 then { q with epoch := some e } else q)
  { h with fb := { h.fb with dirty := h.fb.dirty || ! rs.isEmpty },
           cmt := { h.cmt with spans := Tbl.put h.cmt.spans e s, intentHead := (off + len) % h.intentRing,
                               intentUsed := h.cmt.intentUsed + len, ring := ring, epochs := Tbl.del h.cmt.epochs e } }

/-- EPOCH_COMMIT (R59, R60): the next epoch is committed where every condition is met. -/
def Head.commitNext (h : Head) : Head :=
  if h.last = noEpoch then h
  else
    let e := h.last + 1
    if h.mayCommit e ∧ h.spanFits e then
      let alone := h.alone e
      let h := (h.writeSpan e).wr CMT_LAST_EPOCH e
      let h := if alone then h else h.sendTwin (.commitNote e)
      (h.lagChecks).showGates
    else h

/-! ### Apply (R69, R73) -/

/-- The lines of a committed epoch's span from which no data can be read (R439). -/
def Head.badSpan (h : Head) (e : Nat) : List Nat :=
  match Tbl.find h.cmt.spans e with
  | none => []
  | some s =>
    let first := min s.len (h.intentRing - s.off)
    h.badLines (h.journal.1 + s.off) first ++ h.badLines h.journal.1 (s.len - first)

/-- The version under which an epoch is applied is the one its header records (R78). -/
def Head.underVersion (h : Head) (e v : Nat) : Head :=
  let h := h.asvStep e
  let cur := h.rd CMT_ASV_CUR
  if cur = v then h else (h.wr CMT_ASV_CUR v).post 2 0x0226 0 cur v e 0

/-- APPLY_EPOCH (R69): the next committed epoch is applied from the journal, once the metadata pages it uses are in the pool (R229); an apply that stops fences the head (R84, R201), as one
that meets DRAM it cannot read (R439). -/
def Head.applyNext (h : Head) : Head :=
  if h.last = noEpoch ∨ h.applied = noEpoch ∨ h.last ≤ h.applied ∨ h.cmt.applyStopped ∨ h.plt.stopped ∨ h.rd CMT_ASV_MAX = 0 then h
  else
    let e := h.applied + 1
    match Tbl.find h.cmt.spans e with
    | none => h
    | some s =>
      let h := match h.badSpan e, h.applyUses e (h.intentsAt s) with
        | [], some h => (h.underVersion e s.asv).applyIntents e (h.intentsAt s)
        | [], none => h
        | lines, _ => h.applyUncorr lines
      if h.applied ≠ e ∧ h.cmt.applyStopped = false then h
      else if h.cmt.applyStopped then h.loseFence none
      else
        let h := match Tbl.find h.cmt.twinDigests e with
          | some d => ({ h with cmt := { h.cmt with twinDigests := Tbl.del h.cmt.twinDigests e } }).compareDigest e d
          | none => h
        h.releaseWrites

end Sys2Proof.Machine
end

