-- ==== Sys2Proof/Machine/Collect.lean ====
section
/-! DEFINITION. Bands over their life: notes and gifts between the heads, victims and their jobs, foreground collection, erase,
retirement and patrol (spec/09_fogbank_flash.md, R217, R219, R230 to R244; spec/10_redundancy.md, R265, R276). -/
namespace Sys2Proof.Machine
open Reg

/-! ### The read floor (R219) -/

/-- FB_FLOOR follows, and with it the IDs that wait for it (R198). -/
def Head.showFloor (h : Head) : Head := (h.wr FB_FLOOR_EPOCH h.pairFloor).returnIds

/-- FLOOR from the twin. -/
def Head.floorIn (h : Head) (e : Nat) : Head := ({ h with fb := { h.fb with twinFloor := some e } }).showFloor

/-! ### Notes and gifts (R217, R219) -/

/-- The FREE bands of a head. -/
def Head.freeBands (h : Head) (owner : Nat) : List Nat :=
  h.bands.filter (fun b => (h.band b).state = bFree && (h.band b).owner = owner)

/-- Insert a band by its erase count, after its equals. -/
def Head.byErases (h : Head) (b : Nat) : List Nat → List Nat
  | [] => [b]
  | x :: t => if (h.band b).erases < (h.band x).erases then b :: x :: t else x :: h.byErases b t

/-- BAND_GIVE (R217): FREE bands go to a twin that is short of them, those of the lowest erase count first, six to a message. -/
def Head.giveBands (h : Head) : Head :=
  let mine := h.freeBands h.headId
  let twin := (h.freeBands (1 - h.headId)).length
  if h.role ≠ rPaired ∨ h.is SD_STS_LINKUP = false ∨ 64 ≤ twin ∨ mine.length ≤ 128 then h
  else
    let give := (mine.foldl (fun l b => h.byErases b l) []).take (64 - twin)
    let h := give.foldl (fun (h : Head) b => h.putBand b { h.band b with owner := 1 - h.headId }) h
    (chunksOf 6 give.length give).foldl (fun (h : Head) g => h.sendTwin (.bandGive g)) h

/-- BAND_GIVE from the twin: this head owns the bands. -/
def Head.giveIn (h : Head) (bs : List Nat) : Head :=
  bs.foldl (fun (h : Head) b => if b < h.bandCount then h.setBand b { h.band b with owner := h.headId } else h) h

/-- A slot is mapped to another physical block, which no longer counts as a spare (R215, R242). -/
def Head.remap (h : Head) (j slot pblk : Nat) : Head :=
  let h := (h.store (h.remapAddr j slot) 4 pblk).touch 7 0 (j * 2 ^ 32 + slot) 0
  { h with fb := { h.fb with spareUsed := (j, pblk) :: h.fb.spareUsed.filter (· ≠ (j, pblk)) } }

/-- A slot whose block is retired without a spare: its entry says so (R243). -/
def Head.killSlot (h : Head) (j slot : Nat) : Head := (h.store (h.remapAddr j slot) 4 deadSlot).touch 7 0 (j * 2 ^ 32 + slot) 0

/-- The twin has retired a slot's block, and mapped the slot to another where it had a spare: both stand in this head's table and in its
record (R243, R244). -/
def Head.remapIn (h : Head) (j slot pblk : Nat) : Head :=
  let h := h.logRetired (.block j slot (h.physical j slot))
  if pblk = deadSlot then (h.killSlot j slot).showSpares j
  else ((h.remap j slot pblk).logRetired (.remap j slot pblk)).showSpares j

/-- BAND_NOTE from the twin: bytes 0 to 7 of the entry, and a remap; a band it retires changes the capacities (R245). LIVE is
each head's own from apply; a band that is FREE again holds nothing. -/
def Head.bandNoteIn (h : Head) (b pblk entry pos : Nat) : Head :=
  if h.bandCount ≤ b then h
  else
    let x := h.band b
    let y := Band.ofNat (bitsAt entry 0 64)
    let y := { y with live := if y.state = bFree then 0 else x.live, last := if y.state = bFree then 0 else x.last }
    let h := h.putBand b y
    let h := if y.state = bFree then h.clearLost b else h
    let h := if pos = 0xFF then h else h.remapIn pos (h.rowOf b) pblk
    let h := if y.state = bRetired ∧ x.state ≠ bRetired then ((List.range h.mods).foldl Head.showSpares h).recompute else h
    h.showBuf.showFree.giveBands

/-! ### Foreground collection (R235, R236) -/

/-- FG is entered below FGBP and left at FGBP + 100 basis points of FB_CAPU. -/
def Head.fgCheck (h : Head) : Head :=
  let f := h.rd FB_CAPF_MIB
  let u := h.rd FB_CAPU_MIB
  if h.is FB_STS_FG ∧ (h.rd FB_CTL_FGBP + 100) * u ≤ f * 10000 then
    (((h.wr FB_STS_FG 0).wr FE_STS_FG 0).post 6 0x0602 0 f u h.epoch 0).fetchAll
  else h.fgEnter

/-- The credit account and the next allowance at the end of an epoch (R236): the capacity of the bands that became FREE less the
bytes that background jobs placed, in KiB. -/
def Head.creditAccount (h : Head) : Head :=
  let gain := h.fb.credited
  let loss := ceilDiv h.fb.placedBg 1024
  let h := { h with fb := { h.fb with credited := 0, placedBg := 0 } }
  if h.is FB_STS_FG = false then h
  else
    let a := min (2 ^ 31 - 1) (h.rd FB_CREDIT_KIB + gain - loss)
    ({ h with fe := { h.fe with allowance := max a (h.rd FB_CTL_FGMIN) } }).wr FB_CREDIT_KIB a |>.wr FE_STS_FG 0

/-- FILL and TARGET (R230). -/
def Head.bufferTarget (h : Head) : Head :=
  let live := h.sumBands (fun _ x => x.live)
  let cap := h.rd FB_CAPU_MIB * 2 ^ 20
  let fill := if cap = 0 then 0 else 10000 * live / cap
  let target := if fill ≤ 5000 then 600 else if 9500 ≤ fill then 100 else 600 - (fill - 5000) * 500 / 4500
  ((h.wr FB_BUF_FILL fill).wr FB_BUF_TARGET target).showBuf

/-! ### Victims (R232 to R235, R276) -/

/-- A CLOSED band of this head whose stripes are all durable. -/
def Head.settled (h : Head) (b : Nat) : Bool :=
  h.ownsBand b && (h.band b).state = bClosed && decide ((h.band b).wptr ≠ 0) && h.bandDurable b

/-- The settled bands of a mode; class 15 holds no chunks. -/
def Head.candidates (h : Head) (oneBit : Bool) : List Nat :=
  h.bands.filter (fun b => h.settled b && (h.band b).oneBit = oneBit && (h.band b).cls ≠ 15)

/-- The least of a list by a key, the first among equals. -/
def leastBy (key : Nat → Nat) : List Nat → Option Nat
  | [] => none
  | b :: t => match leastBy key t with
    | some x => if key x < key b then some x else some b
    | none => some b

/-- The greatest ERASES among this head's FREE and OPEN bands. -/
def Head.mostErased (h : Head) : Nat :=
  (h.bands.filter (fun b => h.ownsBand b && ((h.band b).state = bFree || (h.band b).state = bOpen))).foldl
    (fun a b => max a (h.band b).erases) 0

/-- The third rule takes a band (R235): any under foreground collection, else one with little live data while free capacity is
below BGBP. -/
def Head.worthCollecting (h : Head) (b : Nat) : Bool :=
  h.is FB_STS_FG ||
    (decide (h.rd FB_CAPF_MIB * 10000 < h.rd FB_CTL_BGBP * h.rd FB_CAPU_MIB)
      && decide ((h.band b).live * 10000 ≤ h.rd FB_GC_BGMAX * (h.bandKib b * 1024)))

/-- The band collection takes next (R234, R235). -/
def Head.collectVictim (h : Head) : Option Nat :=
  let c := h.candidates false
  match c.find? (fun b => (h.band b).refresh) with
  | some b => some b
  | none =>
    match leastBy (fun b => (h.band b).erases) c with
    | none => none
    | some w =>
      if (h.band w).erases + h.rd FB_GC_WEARGAP < h.mostErased then some w
      else leastBy (fun b => (h.band b).live * 2 ^ 64 + (h.band b).last) (c.filter h.worthCollecting)

/-- The band fold takes next (R232, R241). -/
def Head.foldVictim (h : Head) : Option Nat :=
  let c := (h.candidates true).filter (fun b => decide ((h.band b).live ≠ 0))
  match c.find? (fun b => (h.band b).refresh) with
  | some b => some b
  | none => leastBy (fun b => (h.band b).last) c

/-- The band a reshape clears next (R276), of any class and mode. -/
def Head.reshapeVictim (h : Head) : Option Nat :=
  let bound := h.rd PAR_BOUND_BAND
  h.bands.find? (fun b => decide (bound ≤ b ∧ b < bound + 128) && h.settled b)

/-- Collection may run (R235): it has a budget, or time left idle, or none limits it. -/
def Head.mayCollect (h : Head) : Bool := decide (h.budgetOf bGc ≠ 0) || h.is FB_STS_FG || h.is FB_CTL_IDLEGC

/-- OPEN bands of this head in the range a reshape clears are closed, their open stripes first (R276). -/
def Head.closeReshape (h : Head) : Head :=
  let bound := h.rd PAR_BOUND_BAND
  h.bands.foldl (fun (h : Head) b =>
    if bound ≤ b ∧ b < bound + 128 ∧ h.ownsBand b ∧ (h.band b).state = bOpen then
      (h.closeStripe (b * 128 + (h.band b).wptr)).closeBand b
    else h) h

/-- A band becomes VICTIM, and a job is posted for each of its stripes (R233). -/
def Head.takeVictim (h : Head) (b cls kind : Nat) : Head :=
  let h := h.setBand b { h.band b with state := bVictim }
  (List.range (h.band b).wptr).foldl (fun (h : Head) i => h.postStripeJob cls (b * 128 + i) kind) (h.bump FB_GC_VICTIMS 1)

/-- VICTIM_SELECT (R232, R234, R235, R276): nothing is chosen for a class without a budget. -/
def Head.victimSelect (h : Head) (k : VictimKind) : Head :=
  let h := h.fgCheck
  match k with
  | .collect => if h.mayCollect then (h.collectVictim.map (fun b => h.takeVictim b 0 0)).getD h else h
  | .fold => if h.budgetOf bFold = 0 then h else (h.foldVictim.map (fun b => h.takeVictim b 1 1)).getD h
  | .reshape =>
    if h.is PAR_STS_RESHAPING = false ∨ h.budgetOf bReshape = 0 then h
    else
      let h := h.closeReshape
      (h.reshapeVictim.map (fun b => h.takeVictim b 6 0)).getD h

/-- RESHAPE_STEP_ISSUE (R276): the driver moves the boundary over every band that is FREE or RETIRED, up to 64 at once. -/
def Head.reshapeStep (h : Head) : Head :=
  let driver := h.headId = 0 || h.pair.twinFailed
  let bound := h.rd PAR_BOUND_BAND
  let clear (b : Nat) : Bool := (h.band b).state = bFree || (h.band b).state = bRetired
  let n := ((List.range (min 64 (h.bandCount - bound))).takeWhile (fun i => clear (bound + i))).length
  if driver ∧ h.is PAR_STS_RESHAPING ∧ n ≠ 0 then
    (h.issueIntents false [BitVec.ofNat 512 (recOf [(0, 1, 0x0A), (24, 1, 2), (28, 4, bound + n)])]).2
  else h

/-! ### Retirement (R242 to R244) -/

/-- The lowest spare of a module that is in no use (assumption log 15, DESIGN CHOICE). -/
def Head.spareFor (h : Head) (j : Nat) : Option Nat := (h.spares j).head?

/-- A block is retired: no longer programmed, erased or patrolled. Causes: 0 erase, 1 program. -/
def Head.retireBlock (h : Head) (j slot pblk cause : Nat) : Head :=
  let h := h.logRetired (.block j slot pblk)
  (h.post 6 0x0603 1 j slot pblk cause).showSpares j

/-- A slot's block is retired and the slot mapped to a spare, which is told to the twin; the spare's number, none where the
module has none left (R242), which the twin is told as a remap to `deadSlot` (assumption log 13, DESIGN CHOICE). -/
def Head.retireSlot (h : Head) (b j slot cause : Nat) : Option Nat × Head :=
  let h := h.retireBlock j slot (h.physical j slot) cause
  match h.spareFor j with
  | some n =>
    let h := (h.remap j slot n).showSpares j
    let h := h.logRetired (.remap j slot n)
    (some n, h.noteBand b (h.band b) j n)
  | none =>
    let h := (h.killSlot j slot).noteBand b (h.band b) j deadSlot
    (none, (h.wr FB_ERR_SPARESOUT 1).post 6 0x0604 2 j slot b 0)

/-- A band that lost a block for which there is no spare is retired; its other blocks become spares (R242). -/
def Head.retireBand (h : Head) (b j : Nat) : Head :=
  let h := { h with fb := { h.fb with erases := Tbl.del h.fb.erases b } }
  let h := (h.setBand b { h.band b with state := bRetired }).post 6 0x0605 2 b j h.epoch 0
  ((List.range h.mods).foldl Head.showSpares h).recompute

/-! ### Erase (R237, R238, R265) -/

/-- The stripes that a checkpoint needs: those of its segments and of its root. -/
def Head.ckptStripes (h : Head) : List Nat :=
  let done := (h.fb.root.map (fun r => r.loc :: r.segs)).getD []
  let now := (h.fb.ckpt.map (fun c => c.root.toList.map locStripe ++ c.stripes)).getD []
  done.map locStripe ++ now

/-- The owner may erase a band now (R238). -/
def Head.mayErase (h : Head) (b : Nat) : Bool :=
  let x := h.band b
  h.mayIssue 0 (eraseOp 0) && h.ownsBand b && (x.state = bPending || (x.state = bErasing && (Tbl.find h.fb.erases b).isNone))
    && decide (x.last ≤ h.pairFloor) && (x.cls ≠ 15 || ! h.ckptStripes.any (fun s => stripeBand s = b))

/-- A band is FREE again (R238, R265, R272). -/
def Head.bandFreed (h : Head) (b : Nat) : Head :=
  let x := h.band b
  let h := h.clearLost b
  let h := { h with fb := { h.fb with erases := Tbl.del h.fb.erases b, badSlots := h.fb.badSlots.filter (·.1 ≠ b),
                                      credited := h.fb.credited + h.bandKib b } }
  let h := h.setBand b { x with state := bFree, oneBit := false, refresh := false, wptr := 0, erases := x.erases + 1, live := 0,
                                last := 0 }
  (h.showBuf.showFree).fgCheck

/-- What the erase does with a strip position (R265): the pool position whose slot is erased, none where it is not, and the
entry it has afterwards. -/
def Head.erasePlan (h : Head) (b p : Nat) : Option Nat × Option Hole :=
  let j := h.homePos b p
  let up := h.reaches j && modUp (h.modState j)
  match h.holeAt b p with
  | none => if up then (some j, none) else (none, some { pos := p, tgt := j, lo := 0, eowed := true })
  | some e =>
    if up then (some j, none)
    else if e.tgt ≠ j ∧ h.modState j = mFailed then
      if h.reaches e.tgt then (some e.tgt, some { e with lo := 0, eowed := false })
      else (none, some { e with lo := 0, eowed := true })
    else (none, some { pos := p, tgt := j, lo := 0, eowed := true })

/-- ERASE_BLOCK goes to the slot of a band's position; a slot named under R223 is retired instead, and its spare erased. An erase is an
operation of collection (R239, R252; assumption log 70, DEDUCED). -/
def Head.eraseSlot (h : Head) (b p j : Nat) : Head :=
  let row := h.rowOf b
  if h.fb.badSlots.contains (b, p) then
    match h.retireSlot b j row 1 with
    | (some n, h) => (h.issue j 1 (eraseOp n) (.erase b p)).chargePort bGc j 0
    | (none, h) => h.retireBand b j
  else (h.issue j 1 (eraseOp (h.physical j row)) (.erase b p)).chargePort bGc j 0

/-- BAND_ERASE (R238): the band becomes ERASING and every slot that can be is erased. -/
def Head.bandErase (h : Head) (b : Nat) : Head :=
  if h.mayErase b = false then h
  else
    let plans := (List.range h.width).map (fun p => (p, h.erasePlan b p))
    let slots := plans.filterMap (fun q => q.2.1.map (fun j => (q.1, j)))
    let h := h.setBand b { h.band b with state := bErasing, wptr := 0 }
    let h := h.setHoles b (plans.filterMap (fun q => q.2.2))
    let h := { h with fb := { h.fb with erases := Tbl.put h.fb.erases b { todo := slots.map (·.1) } } }
    if slots = [] then h.bandFreed b
    else slots.foldl (fun (h : Head) q => if (Tbl.find h.fb.erases b).isSome then h.eraseSlot b q.1 q.2 else h) h

/-- An erase of a band's position has completed (R238, R242). -/
def Head.erased (h : Head) (b p j : Nat) (ok : Bool) : Head :=
  match Tbl.find h.fb.erases b with
  | none => h
  | some e =>
    if ok then
      let todo := e.todo.filter (· ≠ p)
      if todo = [] then h.bandFreed b
      else { h with fb := { h.fb with erases := Tbl.put h.fb.erases b { e with todo := todo } } }
    else
      match h.retireSlot b j (h.rowOf b) 0 with
      | (some n, h) => h.issue j 1 (eraseOp n) (.erase b p)
      | (none, h) => h.retireBand b j

/-- The slot of a band's position can no longer be reached while its erase is under way: it is not erased and owes one (R265). -/
def Head.eraseLost (h : Head) (b p : Nat) : Head :=
  match Tbl.find h.fb.erases b with
  | none => h
  | some e =>
    let rest := (h.holes b).filter (·.pos ≠ p)
    let kept := match h.holeAt b p with
      | some q => { q with lo := 0, eowed := true }
      | none => ({ pos := p, tgt := h.homePos b p, lo := 0, eowed := true } : Hole)
    let h := (h.setHoles b rest).addHoles b [kept]
    let todo := e.todo.filter (· ≠ p)
    if todo = [] then h.bandFreed b
    else { h with fb := { h.fb with erases := Tbl.put h.fb.erases b { e with todo := todo } } }

/-! ### Patrol (R240, R241) -/

/-- The patrol reads outstanding, as stripes. -/
def Head.patrolling (h : Head) : List Nat :=
  (List.range 32).flatMap (fun p => (h.port p).outstanding.filterMap (fun e =>
    match e.2.purpose with
    | .patrol s _ => some s
    | _ => none))

/-- A stripe that patrol reads (R240): a placed one of this head's OPEN, CLOSED and VICTIM bands, on flash. -/
def Head.patrols (h : Head) (s : Nat) : Bool :=
  let x := h.band (stripeBand s)
  h.ownsBand (stripeBand s) && decide (1 ≤ x.state ∧ x.state ≤ 3) && decide (stripeIndex s < x.wptr) && (h.stripe s).isNone

/-- The first stripe from `s` on that patrol reads, band by band. -/
def Head.patrolFrom (h : Head) (s : Nat) : Option Nat :=
  (List.range (128 * h.bandCount - s)).findSome? (fun i => if h.patrols (s + i) then some (s + i) else none)

/-- A strip is read by patrol, at its cost to the PATROL budget. -/
def Head.patrolIssue (h : Head) (s p : Nat) : Head :=
  match h.stripPos s p with
  | some j =>
    let x := readOp (h.physical j (h.rowOf (stripeBand s))) (stripeIndex s) 0 stripBytes
    (h.issue j 1 x (.patrol s p)).chargePort bPatrol j stripBytes
  | none => h

/-- The positions of a stripe that patrol can read: those not missing whose module is reached. -/
def Head.patrolStrips (h : Head) (s : Nat) : List Nat := (List.range h.width).filter (fun p => (h.stripPos s p).any h.reaches)

/-- The walk of a pass goes on as far as the PATROL budget of the ports lets it (R240, R252); `fuel` bounds the stripes. -/
def Head.patrolWalk (h : Head) : Nat → Head
  | 0 => h
  | fuel + 1 =>
    match h.fb.patrol with
    | none => h
    | some pass =>
      let may (p : Nat) : Bool := (h.stripPos pass.stripe p).any (h.mayUsePort bPatrol)
      let left := pass.left.filter (fun p => (h.stripPos pass.stripe p).any h.reaches)
      let go := left.filter may
      let rest := left.filter (fun p => ! may p)
      let h := go.foldl (fun (h : Head) p => h.patrolIssue pass.stripe p) h
      if rest ≠ [] then { h with fb := { h.fb with patrol := some { pass with left := rest } } }
      else
        match h.patrolFrom (pass.stripe + 1) with
        | none => { h with fb := { h.fb with patrol := some { pass with stripe := 128 * h.bandCount, left := [] } } }
        | some s =>
          ({ h with fb := { h.fb with patrol := some { pass with stripe := s, left := h.patrolStrips s } } }).patrolWalk fuel

/-- The walk goes on. -/
def Head.patrolGo (h : Head) : Head := h.patrolWalk (128 * h.bandCount + 1)

/-- A pass has not ended: its walk has stripes left, or a read of it is outstanding. -/
def Head.passRuns (h : Head) : Bool :=
  h.fb.patrol.any (fun pass => decide (pass.stripe < 128 * h.bandCount)) || h.patrolling ≠ []

/-- PATROL_PASS_START (R240, R44, R45): with no pass running, the period opens, counted in epochs from this one, and the walk begins. -/
def Head.patrolStart (h : Head) : Head :=
  if h.passRuns ∨ h.bandCount = 0 then h
  else
    let ends := h.epoch + ceilDiv (h.rd FB_PATROL_DAYS * 86400 * 25000000) h.cur
    let s := (h.patrolFrom 0).getD (128 * h.bandCount)
    let left := if s < 128 * h.bandCount then h.patrolStrips s else []
    let pass : Patrol := { epoch := h.epoch, ends := ends, behind := false, stripe := s, left := left }
    ({ h with fb := { h.fb with patrol := some pass } }).patrolGo

/-- PATROL_BEHIND (R240): the pass still runs when its period has expired; it names the lowest band reached (assumption log 75, DESIGN CHOICE). -/
def Head.patrolBehind (h : Head) : Head :=
  match h.fb.patrol with
  | none => h
  | some pass =>
    if h.passRuns = false ∨ pass.behind ∨ h.epoch < pass.ends then h
    else
      ({ h with fb := { h.fb with patrol := some { pass with behind := true } } }).post 6 0x0609 1 pass.epoch
        (stripeBand (h.patrolling.foldl min pass.stripe)) 0 0

/-- What patrol finds of a strip (R241): none where it could not be read, else its highest corrected-bit count. -/
def Head.patrolled (h : Head) (s p : Nat) (found : Option Nat) : Head :=
  let b := stripeBand s
  let refresh (h : Head) : Head := if h.ownsBand b then h.setBand b { h.band b with refresh := true } else h
  (match found with
    | some n => if h.rd FB_PATROL_THRESH < n then (refresh h).post 6 0x0607 0 s p n 0 else h
    | none => ((refresh h).wr FB_ERR_PATROLUNC 1).post 6 0x0608 2 s p 0 0).patrolGo

end Sys2Proof.Machine
end

