-- ==== Sys2Proof/Machine/Modules.lean ====
section
/-! DEFINITION. Module states, the entries a failure makes, and rebuild (spec/10_redundancy.md, R261 to R264, R266 to R272). -/
namespace Sys2Proof.Machine
open Reg

/-! ### Transitions (R261, R262) -/

/-- How a transition ranks against one of the same epoch (R262): FAILED over ABSENT over the others. -/
def modRank (s : Nat) : Nat := if s = mFailed then 2 else if s = mAbsent then 1 else 0

/-- The epoch in which ABSENTS ends for a position that becomes ABSENT now (R45, R261). -/
def Head.absentEnd (h : Head) : Nat := h.epoch + ceilDiv (h.rd PAR_CTL_ABSENTS * 25000000) h.cur

/-- A pool position takes a state; the epoch and state are kept for the precedence of R262, as epoch × 8 + state, and an absence takes its
limit. -/
def Head.setMod (h : Head) (j st : Nat) : Head :=
  let h := (h.wr (PAR_MOD_STATE.nth j) st).wr (PAR_MOD_REACH.nth j) (h.reaches j).toNat
  let until_ := if st = mAbsent then Tbl.put h.fb.absentUntil j h.absentEnd else h.fb.absentUntil
  { h with fb := { h.fb with modAt := Tbl.put h.fb.modAt j (h.epoch * 8 + st), absentUntil := until_ } }

/-- ABSENTS has elapsed for an ABSENT position (R261). -/
def Head.absentOver (h : Head) (j : Nat) : Bool := decide ((Tbl.find h.fb.absentUntil j).getD 0 ≤ h.epoch)

/-- The twin reaches the module at a position as far as this head knows: it has not told of a loss; a failed twin plays no part
(R410). -/
def Head.twinReaches (h : Head) (j : Nat) : Bool := h.pair.twinFailed || ! h.fb.unreach.contains j

/-- MOD_NOTE for a position with the identity its module reports (R283). -/
def Head.sendModNote (h : Head) (j st : Nat) : Head :=
  let x := h.port j
  h.sendTwin (.modNote j st x.posn x.pool x.serial h.epoch)

/-- The bands of this head with an entry for a pool position as POS, with the entry. -/
def Head.holesAtPos (h : Head) (j : Nat) : List (Nat × Hole) :=
  (h.fb.holed.filter h.ownsBand).flatMap (fun b => ((h.holes b).filter (fun e => h.homePos b e.pos = j)).map (fun e => (b, e)))

/-- The row spare a band's failed position is redirected to (R268), none where the row has none to give. -/
def Head.spareRow (h : Head) (b : Nat) : Option Nat :=
  let row := h.rowOf b
  let used (j : Nat) : Bool := h.fb.holed.any (fun c => h.rowOf c = row && (h.holes c).any (fun e => e.tgt = j))
  ((List.range (h.mods - h.groups * h.width)).map (h.rowSpare row)).find? (fun j =>
    h.modState j = mOnline && ! used j && ! h.fb.spareUsed.contains (j, h.physical j row))

/-- The bands of this head that lie on a pool position, with the strip position. -/
def Head.bandsOn (h : Head) (j : Nat) : List (Nat × Nat) :=
  (h.bands.filter h.ownsBand).filterMap (fun b => ((List.range h.width).find? (fun p => h.homePos b p = j)).map (fun p => (b, p)))

/-- A position entered FAILED (R268): every band this head owns receives an entry toward a row spare, or one that waits for a
replacement, of which there are `waiting`; rebuild starts. The counts of REBUILD_START and NO_SPARE_ROW: assumption log 75, DESIGN CHOICE. -/
def Head.failHoles (h : Head) (j : Nat) : Head :=
  let (waiting, h) := (h.bandsOn j).foldl (fun (r : Nat × Head) q =>
    let (n, h) := r
    if (h.holeAt q.1 q.2).isSome then (n, h)
    else
      let tgt := h.spareRow q.1
      (if tgt.isNone then n + 1 else n,
        h.addHoles q.1 [{ pos := q.2, tgt := tgt.getD j, lo := 0, eowed := true }])) ((0, h) : Nat × Head)
  let owed := ((h.holesAtPos j).filter (fun q => decide (q.2.lo < (h.band q.1).wptr))).length
  let h := { h with fb := { h.fb with rebuilds := Tbl.put h.fb.rebuilds j { rebuilt := 0, lost := 0 } } }
  let h := h.post 7 0x0704 1 j owed (h.rd PAR_CTL_PACE) h.epoch
  if waiting = 0 then h else (h.wr PAR_ERR_NOSPARE 1).post 7 0x0709 1 j waiting 0 0

/-- A position becomes FAILED (R261): causes 0 time, 1 firmware, 2 identity, 3 module. -/
def Head.modFailed (h : Head) (j cause : Nat) : Head :=
  let old := h.modState j
  if old = mNone ∨ old = mFailed then h
  else (((h.setMod j mFailed).sendModNote j mFailed).post 7 0x0703 2 j old cause h.epoch).failHoles j |>.recompute

/-- This head loses reach of a module (R261): causes 0 link down, 1 operation timeout, 2 fatal status, 3 stopped port. The twin is told of
it in any state of the position, for R261 asks what both heads reach. -/
def Head.modAbsent (h : Head) (j cause : Nat) : Head :=
  let h := h.wr (PAR_MOD_REACH.nth j) 0
  if modUp (h.modState j) then
    ((h.setMod j mAbsent).sendModNote j mAbsent).post 7 0x0701 1 j h.headId cause h.epoch
  else if h.modState j = mNone then h
  else h.sendModNote j mAbsent

/-- A RESYNC or REPLACING position is ONLINE again once no entry with it as TGT has stripes to rebuild (R261). -/
def Head.modSettle (h : Head) : Head :=
  (List.range h.mods).foldl (fun (h : Head) j =>
    let st := h.modState j
    let busy := h.fb.holed.any (fun b => (h.holes b).any (fun e => e.tgt = j && decide (e.lo < (h.band b).wptr)))
    if (st = mResync ∨ st = mReplacing) ∧ busy = false then (h.setMod j mOnline).sendModNote j mOnline else h) h

/-- The module at an ABSENT position is reached by both heads again, and ABSENTS has not elapsed (R261). MODULE_RETURNED counts its open
entries (assumption log 75, DESIGN CHOICE). -/
def Head.modResync (h : Head) (j : Nat) : Head :=
  let since := ((Tbl.find h.fb.modAt j).getD 0) / 8
  if h.absentOver j then h
  else (((h.setMod j mResync).post 7 0x0702 0 j since (h.holesAtPos j).length 0)).modSettle

/-- This head reaches a module (again) that reports the identity held (R261, R262): a position not yet in use comes ONLINE
(assumption log 17, DEDUCED), an ABSENT one is in RESYNC once both heads reach it. The twin is told of the reach. -/
def Head.modReached (h : Head) (j : Nat) : Head :=
  let h := h.wr (PAR_MOD_REACH.nth j) 1
  let st := h.modState j
  if h.mods ≤ j then h
  else if st = mNone then ((h.setMod j mOnline).sendModNote j mOnline).recompute
  else if st = mAbsent then
    let h := h.sendModNote j mResync
    if h.twinReaches j then h.modResync j else h
  else if st = mFailed then h.sendModNote j mFailed
  else h

/-- A module record is owed for a replacement that is accepted (R325). -/
def Head.oweRecord (h : Head) (j : Nat) : Head := h.setPort j { h.port j with recordOwed := true }

/-- MOD_NOTE from the twin (R262): what it tells of its own reach, and the new state where the precedence of R262 allows it. FAILED tells
of a failure where the position is not FAILED, and of the module's reach where it is. -/
def Head.modNoteIn (h : Head) (j st epoch : Nat) : Head :=
  let old := h.modState j
  let unreach := if st = mAbsent then j :: h.fb.unreach.filter (· ≠ j)
    else if st = mFailed ∧ old ≠ mFailed then h.fb.unreach
    else h.fb.unreach.filter (· ≠ j)
  let h := { h with fb := { h.fb with unreach := unreach } }
  let own := (Tbl.find h.fb.modAt j).getD 0
  if h.mods ≤ j ∨ (own / 8 = epoch ∧ modRank st < modRank (own % 8) ∧ own % 8 = old) then h
  else if st = mFailed then (if old = mNone ∨ old = mFailed then h else ((h.setMod j mFailed).failHoles j).recompute)
  else if st = mAbsent then (if modUp old then h.setMod j mAbsent else h)
  else if st = mResync then (if old = mAbsent ∧ h.reaches j then h.modResync j else h)
  else if st = mReplacing then (if old = mFailed then (h.setMod j mReplacing).oweRecord j else h)
  else if st = mOnline then
    (if old = mResync ∨ old = mReplacing then h.setMod j mOnline else if old = mNone then (h.setMod j mOnline).recompute else h)
  else h

/-- MODULE_ABSENT_TIMEOUT (R261): ABSENTS seconds, converted under R45, have passed since ABSENT was entered. -/
def Head.absentTimeout (h : Head) (j : Nat) : Head :=
  if h.modState j = mAbsent ∧ h.absentOver j then h.modFailed j 0 else h

/-- PAR_MODj.ACCEPT (R261): a replacement module is accepted; its identity becomes the one held. -/
def Head.modAccept (h : Head) (j : Nat) : Head :=
  if h.modState j = mFailed ∧ h.reaches j ∧ h.twinReaches j then
    let h := ({ h with fb := { h.fb with modIds := Tbl.put h.fb.modIds j (h.port j).serial } }).oweRecord j
    ((((h.setMod j mReplacing).sendModNote j mReplacing)).modSettle).recompute
  else h.wr PAR_ERR_CFGERR 1

/-- HOLE_NOTE from the owner (R264). -/
def Head.holeNoteIn (h : Head) (b rec_ : Nat) : Head :=
  if h.bandCount ≤ b then h else (h.putHoles b (holesOf rec_)).modSettle

/-! ### Rebuild (R269, R270) -/

/-- An operation of rebuild is outstanding for a band's position. -/
def Head.rebuildBusy (h : Head) (b p : Nat) : Bool :=
  (List.range 32).any (fun q => (h.port q).outstanding.any (fun e =>
    match e.2.purpose with
    | .rebuild s r => stripeBand s = b && r = p
    | .target c r => c = b && r = p
    | _ => false))

/-- Replace the entry of a band's position. -/
def Head.setHole (h : Head) (b p : Nat) (f : Hole → Hole) : Head :=
  h.setHoles b ((h.holes b).map (fun e => if e.pos = p then f e else e))

/-- The rebuild of a failed position counts a stripe. -/
def Head.countRebuilt (h : Head) (j : Nat) (lost : Bool) : Head :=
  { h with fb := { h.fb with rebuilds := Tbl.upd h.fb.rebuilds j (fun r =>
      { rebuilt := r.rebuilt + (if lost then 0 else 1), lost := r.lost + lost.toNat }) } }

/-- An entry of this head's band that rebuild can work on (R269): stripes below WPTR are owed, the next of them is on flash, and the target
is reached. -/
def Head.rebuildable (h : Head) (b : Nat) (e : Hole) : Bool :=
  decide (e.lo < (h.band b).wptr) && h.reaches e.tgt && modUp (h.modState e.tgt) && (h.stripe (b * 128 + e.lo)).isNone

/-- The entries of a band that rebuild works on; none of a band that is to be erased. -/
def Head.rebuildEntries (h : Head) (b : Nat) : List Hole :=
  let x := h.band b
  if h.ownsBand b = false ∨ x.state = bPending ∨ x.state = bErasing ∨ x.state = bRetired then []
  else (h.holes b).filter (h.rebuildable b)

/-- The band that rebuild takes (R269): the one with the most such entries, the lowest number among equals. -/
def Head.rebuildFirst (h : Head) : Option Nat :=
  leastBy (fun b => (3 - (h.rebuildEntries b).length) * 2 ^ 32 + b) (h.fb.holed.filter (fun b => h.rebuildEntries b ≠ []))

/-- The positions without a hole that a reconstruction tried and found unreadable, though their modules serve (R270). -/
def Head.refreshers (h : Head) (bad s p : Nat) : List Nat :=
  (h.tried bad s p 0 stripBytes).filter (fun q => (h.holeAt (stripeBand s) q).isNone && h.readStrip bad s q 0 stripBytes = .unreadable
    && (match h.stripPos s q with
      | some j => h.reaches j && h.modState j ≠ mNone && h.modState j ≠ mFailed
      | none => false))

/-- The module ports that the rebuild of a strip uses, with the bytes (R271). -/
def Head.rebuildPorts (h : Head) (bad s p tgt : Nat) : List (Nat × Nat) :=
  (tgt, stripBytes) :: (h.sources bad s p 0 stripBytes).2.filterMap (fun q => (h.stripPos s q.1).map (fun j => (j, stripBytes)))

/-- The strip at LO of an entry is reconstructed and programmed at the target, at its cost to the REBUILD budget (R269 to R271). -/
def Head.rebuildStrip (h : Head) (b bad : Nat) (e : Hole) : Head :=
  let s := b * 128 + e.lo
  let (k, m) := h.geomOf b
  let ports := h.rebuildPorts bad s e.pos e.tgt
  let found := h.rebuildRange bad s e.pos 0 stripBytes
  if ports.any (fun q => ! h.mayUsePort bRebuild q.1) ∨ found = .fenced then h
  else
    let x := h.band b
    let h := (h.countTried bad s e.pos 0 stripBytes).chargePorts bRebuild ports
    let h := if h.refreshers bad s e.pos = [] then h else h.setBand b { x with refresh := true }
    let (data, h) := match found with
      | .ok d => (d, h.countRebuilt (h.homePos b e.pos) false)
      | _ => (List.replicate stripBytes 0, (h.loseStripe s ((h.unread bad s).foldl setBitN 0)).countRebuilt (h.homePos b e.pos) true)
    let seal_ := mkSeal 1 e.pos x.oneBit.toNat h.pair.pool.toNat s (h.rowOf b) 0 k m [] x.last data
    h.program e.tgt (h.physical e.tgt (h.rowOf b)) e.lo x.oneBit data seal_ (.rebuild s e.pos)

/-- REBUILD_STRIPE (R269, R270) for a position of the band that rebuild takes: an owed erase first; then the strip at LO is reconstructed
from the readable positions and programmed at the target. `bad` names the positions whose inner code fails in this read. -/
def Head.rebuildStep (h : Head) (b p bad : Nat) : Head :=
  match (h.rebuildEntries b).find? (fun e => e.pos = p) with
  | none => h
  | some e =>
    if h.rebuildFirst ≠ some b ∨ h.rebuildBusy b p then h
    else if e.eowed then
      if h.mayUsePort bRebuild e.tgt then
        ((h.issue e.tgt 1 (eraseOp (h.physical e.tgt (h.rowOf b))) (.target b p)).chargePort bRebuild e.tgt 0).setHole b p
          (fun e => { e with eowed := false })
      else h
    else h.rebuildStrip b bad e

/-- Rebuild of a position ends when no entry of this head for it has stripes left (R285). -/
def Head.rebuildEnd (h : Head) (j : Nat) : Head :=
  match Tbl.find h.fb.rebuilds j with
  | none => h
  | some r =>
    if (h.holesAtPos j).any (fun q => decide (q.2.lo < (h.band q.1).wptr)) then h
    else ({ h with fb := { h.fb with rebuilds := Tbl.del h.fb.rebuilds j } }).post 7 0x0705 0 j r.rebuilt r.lost h.epoch

/-- A strip that rebuild programmed has completed: LO rises (R263, R269). A block that fails is retired at once, and its
position starts anew on the spare (assumption log 18, DESIGN CHOICE). -/
def Head.rebuilt (h : Head) (s p j : Nat) (ok : Bool) : Head :=
  let b := stripeBand s
  if ok then
    ((h.setHole b p (fun e => if e.lo = stripeIndex s then { e with lo := e.lo + 1 } else e)).modSettle).rebuildEnd (h.homePos b p)
  else
    match h.retireSlot b j (h.rowOf b) 1 with
    | (some _, h) => h.setHole b p (fun e => { e with lo := 0, eowed := true })
    | (none, h) => h

/-- An owed erase of a rebuild target has completed (R269); one that failed retires the block (R242). -/
def Head.targetErased (h : Head) (b p j : Nat) (ok : Bool) : Head :=
  if ok then h
  else
    match h.retireSlot b j (h.rowOf b) 0 with
    | (some _, h) => h.setHole b p (fun e => { e with eowed := true })
    | (none, h) => h.setHole b p (fun e => { e with eowed := true })

end Sys2Proof.Machine
end

