-- ==== Sys2Proof/Machine/Checkpoint.lean ====
section
/-! DEFINITION. Checkpoints: the delta segments, the base pages and the root, and the erase of the dump rows after one
(spec/09_fogbank_flash.md, R248, R249; spec/11_media_format.md, R299 to R301; spec/10_redundancy.md, R259, R279, R282). -/
namespace Sys2Proof.Machine
open Reg

/-! ### Encoding the metadata (R224, R225, R300) -/

/-- The 8 bytes of a map entry. -/
def mapEntryBytes (x : Option PageSlot) : List Byte := toBytes 8 ((x.map (·.chunk)).getD 0)

/-- The 32 bytes of a key-directory entry. -/
def keyEntryBytes (x : Option PageSlot) : List Byte :=
  match x with
  | none => List.replicate 32 0
  | some s => toBytes 16 s.key ++ toBytes 8 s.len ++ toBytes 8 s.chunk

/-- The 4 KiB of a version of a metadata page. -/
def pageBytes (object : Bool) (v : PageVer) : List Byte :=
  if object then (List.range 128).flatMap (fun i => keyEntryBytes (Tbl.find v.entries i))
  else (List.range 512).flatMap (fun i => mapEntryBytes (Tbl.find v.entries i))

/-- The two words of a namespace (R300): its attribute word, PDIG 0 while it is not formatted, and its size with bit 62 for
replica repair (assumption log 19, DESIGN CHOICE). -/
def nsBytes (n : Ns) : List Byte :=
  let attr := n.attrs.getD (n.object.toNat + 2 * n.fsize + 2 ^ 16 * n.keyslot)
  toBytes 8 attr ++ toBytes 8 (n.size.getD 0 + (if n.repair then 2 ^ 62 else 0))

/-- The epochs of a namespace: when it was made and when it was deleted, all ones where it was not. A record of KEY 2^63 above the
namespace's holds them (assumption log 19, DESIGN CHOICE). -/
def nsEpochs (n : Ns) : List Byte := toBytes 8 n.created ++ toBytes 8 (n.deleted.getD noEpoch)

/-- The version record (R300): the pending version, 0 for none, the pair's limit and the epoch from which the pending version holds.
The record of KEY 0 of the namespace table, which names no namespace, holds it (assumption log 19, DESIGN CHOICE). -/
def Head.asvBytes (h : Head) : List Byte :=
  let p := h.cmt.pendingAsv.getD (0, 0)
  toBytes 16 (recOf [(0, 4, p.1), (4, 4, h.rd CMT_ASV_LIMIT), (8, 8, p.2)])

/-- The bytes of a record of a delta segment before its value. -/
def deltaHead (table nsid key vepoch : Nat) : List Byte := toBytes 24 (recOf [(0, 1, table), (4, 4, nsid), (8, 8, key), (16, 8, vepoch)])

/-- The version that holds what an epoch changed in a page: the oldest not older than the change, since a page that nothing
holds is changed in place. -/
def Head.versionOf (h : Head) (nsid page epoch : Nat) : Option PageVer :=
  (((h.versions (h.incKey nsid epoch) page).filter (fun v => decide (epoch ≤ v.epoch))).reverse).head?

/-- The value of an entry of a table, with the version epoch its record bears; none where nothing is left to record. -/
def Head.deltaValue (h : Head) (table nsid key vepoch : Nat) : Option (Nat × List Byte) :=
  match table with
  | 1 => some (0, h.bytes (h.recAddr key) 16)
  | 2 => some (0, h.bytes (h.ownAddr key) 4)
  | 3 => some (0, h.bytes (h.idxAddr (key / 8) (key % 8)) 8)
  | 4 => (h.versionOf nsid (key / 512) vepoch).map (fun v => (v.epoch, mapEntryBytes (Tbl.find v.entries (key % 512))))
  | 5 => (h.versionOf nsid (key / 128) vepoch).map (fun v => (v.epoch, keyEntryBytes (Tbl.find v.entries (key % 128))))
  | 6 => some (0, h.bytes (h.bandAddr key) 32)
  | 7 => some (0, h.bytes (h.remapAddr (key / 2 ^ 32) (key % 2 ^ 32)) 4)
  | 8 => some (0, match Tbl.find h.cmt.snapshots key with
      | some e => toBytes 8 e ++ toBytes 8 1
      | none => List.replicate 16 0)
  | 9 => some (0, match h.fb.release[key]? with
      | some (k, e) => toBytes 8 (keyNsid (k / 2 ^ 80)) ++ toBytes 8 (k % 2 ^ 80) ++ toBytes 8 e
      | none => List.replicate 24 0)
  | 10 => some (0, if key = 0 then h.asvBytes else match h.ns (key % 2 ^ 63) with
      | some n => if 2 ^ 63 ≤ key then nsEpochs n else nsBytes n
      | none => List.replicate 16 0)
  | 11 => some (0, h.bytes (h.holeAddr key) 16)
  | _ => none

/-- A record of a delta segment, padded to a multiple of 8 bytes. -/
def Head.deltaRecord (h : Head) (t : Nat × Nat × Nat × Nat) : List Byte :=
  match h.deltaValue t.1 t.2.1 t.2.2.1 t.2.2.2 with
  | none => []
  | some (vepoch, v) => deltaHead t.1 t.2.1 t.2.2.1 vepoch ++ padTo (roundUp v.length 8) v

/-- The lost-stripe table's records: every entry, in order. -/
def Head.lostRecords (h : Head) : List (List Byte) :=
  (h.fb.lost.zipIdx).map (fun x =>
    deltaHead 12 0 x.2 0 ++ toBytes 16 (recOf [(0, 4, x.1.1), (4, 4, x.1.2.1), (8, 8, x.1.2.2)]))

/-- Records gathered into plaintexts of at most `cap` bytes. -/
def gather (cap : Nat) : List (List Byte) → List (List Byte)
  | [] => []
  | r :: t =>
    match gather cap t with
    | [] => [r]
    | p :: ps => if r.length + p.length ≤ cap then (r ++ p) :: ps else r :: p :: ps

/-! ### Base pages (R248) -/

/-- The tables that base pages cover in sweep order, with the address of a page of 4 KiB and the number of pages; the metadata
pages follow them (assumption log 19, DESIGN CHOICE). -/
def Head.sweepTables (h : Head) : List (Nat × Nat × Nat) :=
  let ids := h.idLimit
  let buckets := if h.cxLog = 0 then 0 else 2 ^ h.cxLog
  [(1, h.recAddr 0, ceilDiv (16 * ids) 4096), (2, h.ownAddr 0, ceilDiv (4 * ids) 4096),
   (3, h.idxAddr 0 0, ceilDiv (64 * buckets) 4096), (6, h.bandAddr 0, ceilDiv (32 * h.bandCount) 4096),
   (7, h.remapAddr 0 0, ceilDiv (128 * (h.rd FB_GEOM1_ROW0 + h.rd FB_GEOM1_ROWS)) 4096),
   (11, h.holeAddr 0, ceilDiv (16 * h.bandCount) 4096)]

/-- A version of a metadata page as a base page. -/
def Head.versionJob (h : Head) (v : Nat × Nat) : Option SegJob :=
  let nsid := v.1 / 2 ^ 80
  let object := (h.ns nsid).any (·.object)
  (((Tbl.find h.pages v.1).getD []).find? (fun x => x.epoch = v.2)).map (fun x =>
    { kind := 2, table := if object then 5 else 4, nsid := keyNsid nsid, page := v.1 % 2 ^ 80, vepoch := v.2,
      plain := pageBytes object x })

/-- Base page `i` of the sweep: a page of a table in memory, or the name of a version. -/
def Head.sweepPage (h : Head) (vs : List (Nat × Nat)) : List (Nat × Nat × Nat) → Nat → Option (SegJob ⊕ (Nat × Nat))
  | [], i => (vs[i]?).map .inr
  | (t, a, n) :: rest, i =>
    if i < n then some (.inl { kind := 2, table := t, nsid := 0, page := i, vepoch := 0, plain := h.bytes (a + 4096 * i) 4096 })
    else h.sweepPage vs rest (i - n)

/-- The base pages of the next share of the sweep, and where the sweep then stands. -/
def Head.sweepShare (h : Head) : List (SegJob ⊕ (Nat × Nat)) × Nat :=
  let vs := h.allVersions
  let total := (h.sweepTables.map (fun (t : Nat × Nat × Nat) => t.2.2)).foldl (· + ·) vs.length
  if total = 0 then ([], 0)
  else
    let n := ceilDiv total (2 ^ h.rd FB_CKCTL_SWEEPLOG)
    let at_ := h.fb.sweep % total
    ((List.range n).filterMap (fun i => h.sweepPage vs h.sweepTables ((at_ + i) % total)), (at_ + n) % total)

/-! ### Segments (R299) -/

/-- The 12-byte GCM nonce of a media structure: the salt and a 64-bit counter (R288). -/
def mediaNonce (salt : List Byte) (ctr : Nat) : List Byte := salt ++ toBytes 8 ctr

/-- A segment over a plaintext under the pool metadata key, with the next nonce of this head. -/
def Head.makeSegment (h : Head) (k : KeyRec) (kind table cut nsid page vepoch : Nat) (plain : List Byte) : List Byte × Head :=
  let aad := segmentHead kind h.headId table cut (plain.length + 16) nsid page vepoch
  let ctr := h.headId * 2 ^ 63 + h.fb.nonce
  let nonce := mediaNonce k.salt ctr
  let cipher := Config.encrypt 2 k.key nonce plain
  let bytes := segmentHeader aad ctr ++ padTo plain.length (cipher.take plain.length) ++ padTo 16 ((Config.tag k.key nonce aad cipher).take 16)
  (bytes, { h with fb := { h.fb with nonce := h.fb.nonce + 1 } })

/-- A segment is made and placed (R248): its location, none where there is no room. -/
def Head.writeSegment (h : Head) (k : KeyRec) (kind table cut nsid page vepoch : Nat) (plain : List Byte) : Option (Nat × Head) :=
  let (b, h) := h.makeSegment k kind table cut nsid page vepoch plain
  h.placeSegment cut b

/-- Segments in turn, as far as there is room: those left, the locations of the others, and the head. -/
def Head.writeSegments (h : Head) (k : KeyRec) (cut : Nat) : List SegJob → List SegJob × List Nat × Head
  | [] => ([], [], h)
  | j :: t =>
    match h.writeSegment k j.kind j.table cut j.nsid j.page j.vepoch j.plain with
    | none => (j :: t, [], h)
    | some (loc, h) =>
      let (left, locs, h) := h.writeSegments k cut t
      (left, loc :: locs, h)

/-- The largest plaintext of a segment. -/
def segmentCap : Nat := 262144 - 16

/-! ### Beginning and completing a checkpoint (R248, R249, R301) -/

/-- The roles in which a head writes checkpoints: it may program (R399), and its metadata is the pair's. -/
def Head.mayCheckpoint (h : Head) : Bool := h.serving || h.role = rForming

/-- Bytes 0 to 79 of the root as of the cut, but for NSEG and NONCENEXT, which are known when it is written. -/
def Head.rootPlain (h : Head) : List Byte :=
  toBytes 48 (recOf [(0, 2, h.rd CMT_ASV_CUR), (2, 1, h.cxLog), (3, 1, h.rd FB_CKCTL_SWEEPLOG), (4, 1, h.rd PAR_GEOM_CURK),
    (5, 1, h.rd PAR_GEOM_CURM), (6, 1, h.rd PAR_GEOM_NEWK), (7, 1, h.rd PAR_GEOM_NEWM), (8, 1, h.rd PAR_STS_RESHAPING),
    (12, 4, h.rd PAR_BOUND_BAND), (16, 4, h.rd PAR_DUMP_SEQ), (32, 8, (h.fb.root.map (·.loc)).getD 0)])
    ++ digBytes h.cmt.digest

/-- The root with its counts and its list of segments: those of this checkpoint and every segment of the root before it, so that
a root alone lists all that restore needs (assumption log 19, DESIGN CHOICE). -/
def rootBytes (plain : List Byte) (nonceNext : Nat) (segs : List Nat) : List Byte :=
  plain.take 20 ++ toBytes 4 segs.length ++ toBytes 8 nonceNext ++ (plain.drop 32) ++ segs.flatMap (toBytes 8)

/-- Every stripe of a list is durable. -/
def Head.stripesDurable (h : Head) (ss : List Nat) : Bool := ss.all (fun s => (h.stripe s).isNone)

/-- The stripes of locations are closed, so that they are programmed. -/
def Head.closeAll (h : Head) (locs : List Nat) : Head := ((locs.map locStripe).eraseDups).foldl Head.closeStripe h

/-- The segments of a checkpoint that are not yet placed are, as far as there is room; they wait where none is (R246). -/
def Head.ckptPlace (h : Head) (k : KeyRec) : Head :=
  match h.fb.ckpt with
  | none => h
  | some c =>
    let (left, locs, h) := h.writeSegments k c.cut c.todo
    let add (c : CkptSt) : CkptSt :=
      { c with todo := left, segs := c.segs ++ locs, stripes := (c.stripes ++ locs.map locStripe).eraseDups }
    let h := { h with fb := { h.fb with ckpt := h.fb.ckpt.map add } }
    if left = [] then h.closeAll (((h.fb.ckpt.map (·.segs)).getD [])) else h

/-- The checkpoint being written goes on: its segments are placed, and the root is written once every other write is durable (R248). -/
def Head.ckptAdvance (h : Head) : Head :=
  match h.fb.ckpt, h.roleKey 4 with
  | some c, some k =>
    if c.root.isSome then h
    else
      let h := if c.todo = [] then h else h.ckptPlace k
      match h.fb.ckpt with
      | none => h
      | some c =>
        if c.todo ≠ [] ∨ h.stripesDurable c.stripes = false then h
        else
          let segs := ((h.fb.root.map (·.segs)).getD []) ++ c.segs
          match h.writeSegment k 3 0 c.cut 0 0 0 (rootBytes c.plain (h.fb.nonce + 1) segs) with
          | none => h
          | some (loc, h) =>
            ({ h with fb := { h.fb with ckpt := some { c with root := some loc } } }).closeStripe (locStripe loc)
  | _, _ => h

/-- A checkpoint may begin (R248): none is being written, the metadata key is held, and the cut, a multiple of 1,024, is the
epoch after CMT_APPLIED, whose first tick has come. -/
def Head.ckptDue (h : Head) : Option Nat :=
  let cut := h.applied + 1
  if h.mayCheckpoint ∧ h.fb.ckpt.isNone ∧ h.plt.stopped = false ∧ h.applied ≠ noEpoch ∧ cut % 1024 = 0 ∧ cut ≤ h.epoch
      ∧ h.rd FB_CKPT_EPOCH ≠ h.applied then some cut else none

/-- CHECKPOINT_BEGIN (R248): the delta since the last cut, the next base pages and those that R229 needs cleaned are taken as of the
cut, and placed. -/
def Head.ckptBegin (h : Head) : Head :=
  match h.ckptDue, h.roleKey 4 with
  | some cut, some _ =>
    let deltas := gather segmentCap (h.fb.touched.map h.deltaRecord ++ h.lostRecords)
    let (base, sweep) := h.sweepShare
    let tables := base.filterMap (fun (x : SegJob ⊕ (Nat × Nat)) => match x with
      | .inl j => some j
      | .inr _ => none)
    let swept := base.filterMap (fun (x : SegJob ⊕ (Nat × Nat)) => match x with
      | .inl _ => none
      | .inr v => some v)
    let pages := (swept ++ h.toClean).eraseDups
    let jobs := deltas.map (fun p => ({ kind := 1, table := 0, nsid := 0, page := 0, vepoch := 0, plain := p } : SegJob))
      ++ tables ++ pages.filterMap h.versionJob
    let c : CkptSt := { cut := cut, plain := h.rootPlain, stripes := [], segs := [], root := none, late := h.is FB_STS_CKLATE,
                        todo := jobs, pages := pages }
    ({ h with fb := { h.fb with ckpt := some c, sweep := sweep, touched := [] } }).ckptAdvance
  | _, _ => h

/-- Intent-ring spans that a checkpoint covers are freed (R66), none at or above the cut of a join under way (R414). -/
def Head.freeSpans (h : Head) (cut : Nat) : Head :=
  let top := match h.pair.joinCut with
    | some c => min c cut
    | none => cut
  let gone := h.cmt.spans.filter (fun p => decide (p.1 < top))
  let freed := (gone.map (fun p => p.2.len)).foldl (· + ·) 0
  ({ h with cmt := { h.cmt with spans := h.cmt.spans.filter (fun p => decide (top ≤ p.1)),
                                intentUsed := h.cmt.intentUsed - freed } }).backPressure

/-! ### The dump rows (R259, R279, R282) -/

/-- D: the dump rows of a head. -/
def Head.dumpRows (h : Head) : Nat := (h.rd FB_GEOM1_ROW0 - 2) / 2

/-- The pool positions of copy `c`, rising (R277). -/
def Head.copyMembers (h : Head) (c : Nat) : List Nat := (List.range h.mods).filter (fun j => j % 3 = c)

/-- N_min: the members of the smallest copy set. -/
def Head.nMin (h : Head) : Nat := ((List.range 3).map (fun c => (h.copyMembers c).length)).foldl min 32

/-- The units of a copy: header, journal and trailer. -/
def Head.dumpUnits (h : Head) : Nat := h.journal.2 / 262144 + 2

/-- The dump rows are large enough (R279). -/
def Head.dumpSpaceOk (h : Head) : Bool := decide (h.dumpUnits ≤ h.nMin * h.dumpRows * h.rd FB_GEOM0_SPBF)

/-- Every module whose geometry is known takes its units of both heads within 200 ms at its full-density rate (R279, R327). -/
def Head.dumpRateOk (h : Head) : Bool :=
  (List.range h.mods).all (fun j =>
    match h.module j with
    | none => true
    | some m =>
      let n := (h.copyMembers (j % 3)).length
      n = 0 || decide (2 * ceilDiv h.dumpUnits n * 262144 ≤ m.progfd * 200000))

/-- DUMP_SPACE (R279): dump rows too small for the journal. -/
def Head.dumpSpaceCheck (h : Head) : Head :=
  if h.dumpSpaceOk then h
  else
    let per := if h.nMin = 0 then h.dumpUnits else ceilDiv h.dumpUnits h.nMin
    ((h.wr PAR_STS_DUMPREADY 0).wr PAR_ERR_DUMPSPACE 1).post 7 0x0710 2 per (h.dumpRows * h.rd FB_GEOM0_SPBF) h.nMin 0

/-- An erase of a dump row is outstanding. -/
def Head.dumpErasing (h : Head) : Bool :=
  (List.range 32).any (fun j => (h.port j).outstanding.any (fun o => o.2.purpose.dumpErase))

/-- The dump rows are ready once every erase of them has ended, they are large enough and the modules fast enough (R279, R282,
R327). -/
def Head.dumpReady (h : Head) : Head :=
  if h.dumpErasing ∨ h.dumpSpaceOk = false ∨ h.dumpRateOk = false then h else ((h.wr PAR_STS_DUMPREADY 1).dumpCheck).showGates

/-- The dump rows of this head are erased on every module it reaches (R280, R282). -/
def Head.eraseDumpRows (h : Head) : Head :=
  let d := h.dumpRows
  let rows := (List.range d).map (fun i => 2 + h.headId * d + i)
  let js := (List.range h.mods).filter h.reaches
  (js.foldl (fun (h : Head) j => rows.foldl (fun (h : Head) row =>
    if h.physical j row = deadSlot then h else h.issue j 1 (eraseOp (h.physical j row)) (.dumpRow row)) h) h).dumpReady

/-- An erase of a dump row has completed; one that failed has its slot remapped to a spare, which is erased in its place (R259,
R242). SPARES_OUT of such a row names no band, 0xFFFFFFFF (assumption log 75, DESIGN CHOICE). -/
def Head.dumpRowErased (h : Head) (j row : Nat) (ok : Bool) : Head :=
  if ok then h.dumpReady
  else
    let h := h.retireBlock j row (h.physical j row) 0
    match h.spareFor j with
    | some n =>
      let h := (h.remap j row n).showSpares j
      let h := h.logRetired (.remap j row n)
      h.issue j 1 (eraseOp n) (.dumpRow row)
    | none => (((h.killSlot j row).wr FB_ERR_SPARESOUT 1).post 6 0x0604 2 j row 0xFFFFFFFF 0).dumpReady

/-- A completed checkpoint's effects (R248, R249, R282): FB_CKPT, the freed spans, the end of CKLATE, and the erase of the dump
rows where they are not ready. -/
def Head.ckptComplete (h : Head) : Head :=
  match h.fb.ckpt with
  | some c =>
    match c.root with
    | some loc =>
      if h.stripesDurable [locStripe loc] = false then h
      else
        let segs := ((h.fb.root.map (·.segs)).getD []) ++ c.segs
        let root : RootInfo := { cut := c.cut, loc := loc, segs := segs }
        let h := ({ h with fb := { h.fb with root := some root, ckpt := none, consumed := leAt c.plain 16 4 } }).cleaned c.pages
        let h := ((h.wr FB_CKPT_EPOCH (c.cut - 1)).wr FB_STS_CKLATE 0).freeSpans c.cut
        let h := if h.is PAR_STS_DUMPREADY ∨ h.dumpErasing then h else h.eraseDumpRows
        h.dumpCheck.showGates
    | none => h
  | none => h

/-- A checkpoint is late (R249): FB_STS.CKLATE, under which the class runs without budget, and CKPT_LATE. -/
def Head.lateAt (h : Head) (cut : Nat) : Head :=
  ((h.wr FB_STS_CKLATE 1).wr FB_ERR_CKPTLATE 1).post 6 0x060A 2 cut h.applied 0 0

/-- CKPT_LATE (R249): the checkpoint, begun or due, is not complete 4,096 epochs after its cut; it then runs without budget. -/
def Head.ckptLate (h : Head) : Head :=
  match h.fb.ckpt with
  | some c =>
    if c.late ∨ h.epoch < c.cut + 4096 then h
    else (({ h with fb := { h.fb with ckpt := some { c with late := true } } }).lateAt c.cut).ckptAdvance
  | none =>
    match h.ckptDue with
    | some cut => if h.is FB_STS_CKLATE ∨ h.epoch < cut + 4096 then h else h.lateAt cut
    | none => h

end Sys2Proof.Machine
end

