-- ==== Sys2Proof/Machine/Dump.lean ====
section
/-! DEFINITION. The power-fail dump: its units, its copies and its end (spec/10_redundancy.md, R277, R278; spec/11_media_format.md,
R302; spec/18_platform.md, R484; spec/20_electrical_package.md, R530, R531). -/
namespace Sys2Proof.Machine
open Reg

/-! ### Units (R277, R302) -/

/-- Where unit `n` of copy `c` of head `hd` lies: pool position, slot row and stripe slot, none without members. -/
def Head.dumpPlace (h : Head) (hd c n : Nat) : Option (Nat × Nat × Nat) :=
  let ms := h.copyMembers c
  let spbf := h.rd FB_GEOM0_SPBF
  if spbf = 0 then none
  else (ms[n % ms.length]?).map (fun j =>
    let u := n / ms.length
    (j, 2 + hd * h.dumpRows + u / spbf, u % spbf))

/-- The plaintext of a unit (R302). -/
def Head.dumpPlain (h : Head) (d : DumpSt) (c n : Nat) : List Byte :=
  let last := h.dumpUnits - 1
  let ms := h.copyMembers c
  if n = 0 then
    toBytes 40 (recOf [(0, 4, 0x504D5544), (4, 1, 1), (5, 1, h.headId), (6, 1, c), (7, 1, ms.length), (8, 4, d.seq),
      (12, 4, h.rd CMT_JSIZE_GIB), (16, 8, h.last), (24, 8, h.pair.pool.toNat), (32, 8, d.epoch)])
      ++ (List.range 32).map (fun i => match ms[i]? with
        | some j => BitVec.ofNat 8 j
        | none => 0xFF)
      ++ List.replicate (stripBytes - 72) 0
  else if n = last then
    toBytes 16 (recOf [(0, 4, 0x444E4544), (4, 1, 1), (8, 4, d.seq), (12, 4, h.dumpUnits)])
      ++ List.replicate (stripBytes - 24) 0 ++ toBytes 8 (d.seq + 2 ^ 63)
  else h.bytesOrZero (h.journal.1 + (n - 1) * stripBytes) stripBytes

/-- The GCM counter of a unit (R302). -/
def dumpCounter (seq hd c n : Nat) : Nat := seq * 2 ^ 32 + hd * 2 ^ 31 + c * 2 ^ 29 + n

/-- The lines of a unit of the journal from which no data can be read: they are dumped as zeros (R439). -/
def Head.badOfUnit (h : Head) (n : Nat) : List Nat :=
  if n = 0 ∨ n = h.dumpUnits - 1 then [] else h.badLines (h.journal.1 + (n - 1) * stripBytes) stripBytes

/-- A unit is encrypted and its program issued; a copy that cannot issue one, or whose slot's block is retired without a spare (R244), is
abandoned (R278). -/
def Head.writeUnit (h : Head) (d : DumpSt) (c n : Nat) : Head :=
  match h.dumpPlace h.headId c n, h.roleKey 5 with
  | some (j, row, slot), some k =>
    if h.physical j row = deadSlot then h else
    let nonce := mediaNonce k.salt (dumpCounter d.seq h.headId c n)
    let cipher := padTo stripBytes ((Config.encrypt 2 k.key nonce (h.dumpPlain d c n)).take stripBytes)
    let tag := padTo 16 ((Config.tag k.key nonce [] cipher).take 16)
    let seal_ := mkSeal 2 c h.headId h.pair.pool.toNat d.seq row n 0 0 tag h.last cipher
    let h := h.meetBad 5 (h.badOfUnit n)
    h.program j (h.physical j row) slot false cipher seal_ (.dumpUnit c n)
  | _, _ => h

/-- Change a copy of the dump. -/
def Head.setCopy (h : Head) (c : Nat) (f : DumpCopy → DumpCopy) : Head :=
  { h with fb := { h.fb with dump := h.fb.dump.map (fun d => { d with copies := Tbl.upd d.copies c f }) } }

/-! ### The end (R278, R531) -/

/-- A copy has ended: it has its trailer or was abandoned. -/
def DumpCopy.ended (x : DumpCopy) : Bool := x.done || x.dead

/-- The copies whose trailer is durable, as a mask. -/
def DumpSt.written (d : DumpSt) : Nat := (d.copies.filter (fun e => e.2.done)).foldl (fun m e => setBitN m e.1) 0

/-- PF_DONE rises when the dump has ended (R531). -/
def Head.dumpOver (h : Head) : Head :=
  match h.fb.dump with
  | some d => if d.finished then h else
      ({ h with fb := { h.fb with dump := some { d with finished := true } } }).emit (.pin (.pfDone true))
  | none => h

/-- The dump ends once every copy has. -/
def Head.dumpEndCheck (h : Head) : Head :=
  if h.fb.dump.any (fun d => d.copies.all (fun e => e.2.ended)) then h.dumpOver else h

/-- Every module operation is abandoned, so that nothing waits for its completion (R278). -/
def Head.abandonAllOps (h : Head) : Head :=
  (List.range 32).foldl (fun (h : Head) p =>
    let x := h.port p
    h.setPort p { x with outstanding := x.outstanding.map (fun o => (o.1, { o.2 with purpose := Purpose.abandoned })) }) h

/-- POWER_FAIL (R278, R484, R530): acceptance, commit, apply and recipes stop, the twin is told, other operations are abandoned,
and the units of the copies are written, the header first; nothing is written by a head that has committed no intent since it
last loaded a dump. `reset`: the kind of a reset that follows. -/
def Head.powerFail (h : Head) (reset : Option Nat) : Head :=
  if h.plt.stopped then h
  else
    let h := { h with plt := { h.plt with stopped := true } }
    let h := (h.showGates.drainMerge).sendEvent 6 0 h.mer.tick 0 0 h.udpConns
    let h := h.abandonAllOps
    let blank : DumpCopy := { left := [], trailer := false, dead := true, done := false }
    let d : DumpSt := { epoch := h.epoch, tick := h.mer.tick, seq := (h.rd PAR_DUMP_SEQ + 1) % 2 ^ 32, copies := [],
                        reset := reset, finished := false }
    if h.fb.dirty = false then ({ h with fb := { h.fb with dump := some d } }).dumpEndCheck
    else
      let units := List.range (h.dumpUnits - 1)
      let ready (c : Nat) : Bool := (h.copyMembers c ≠ [] && (h.copyMembers c).all h.reaches && (h.roleKey 5).isSome
        && h.dumpSpaceOk && h.mayIssue 0 (programOp 0 0 false))
      let copies := (List.range 3).map (fun c =>
        (c, if ready c then { blank with left := units, dead := false } else blank))
      let d := { d with copies := copies }
      let h := { h with fb := { h.fb with dump := some d } }
      (copies.foldl (fun (h : Head) e => if e.2.dead then h else units.foldl (fun (h : Head) n => h.writeUnit d e.1 n) h) h).dumpEndCheck

/-- A unit's program has completed (R278): a copy that meets a failure is abandoned; one whose other units have all succeeded
writes its trailer. -/
def Head.dumpUnitDone (h : Head) (c n : Nat) (ok : Bool) : Head :=
  match h.fb.dump with
  | none => h
  | some d =>
    match Tbl.find d.copies c with
    | none => h
    | some x =>
      if x.ended ∨ d.finished then h
      else if ok = false then (h.setCopy c (fun x => { x with dead := true })).dumpEndCheck
      else
        let left := x.left.filter (· ≠ n)
        if left = [] ∧ x.trailer = false then
          let t := h.dumpUnits - 1
          (h.setCopy c (fun x => { x with left := [t], trailer := true })).writeUnit d c t
        else h.setCopy c (fun x => { x with left := left })

/-- DUMP_COPY_COMPLETE (R278): a copy whose trailer is durable is complete; DUMP_DONE names the copies written so far. -/
def Head.dumpCopyComplete (h : Head) (c : Nat) : Head :=
  match h.fb.dump with
  | none => h
  | some d =>
    match Tbl.find d.copies c with
    | none => h
    | some x =>
      if x.ended ∨ x.trailer = false ∨ x.left ≠ [] then h
      else
        let h := (h.setCopy c (fun x => { x with done := true })).wr PAR_DUMP_SEQ d.seq
        let mask := (h.fb.dump.map DumpSt.written).getD 0
        (h.post 7 0x070C 1 d.seq h.last mask 0).dumpEndCheck

/-- DUMP_TIME_LIMIT (R531): 250 ms after the dump began it has ended, whatever is still outstanding. -/
def Head.dumpTimeLimit (h : Head) : Head := h.dumpOver

end Sys2Proof.Machine
end

