-- ==== Sys2Proof/Machine/Restore.lean ====
section
/-! DEFINITION. Restore: the media scan, the newest root and its segments, the power-fail dump, the band scan and the replay of the
journal (spec/09_fogbank_flash.md, R250; spec/11_media_format.md, R286, R299 to R302; spec/10_redundancy.md, R280, R281;
spec/03_commit_and_determinism.md, R64, R65). The modules' strips are read within the one step (assumption log 20, DESIGN CHOICE). -/
namespace Sys2Proof.Machine
open Reg

/-! ### The strips of the pool by their seals (R289, R290, R303) -/

/-- Every readable strip whose seal is good, with its seal as a number. -/
def Head.sealedStrips (h : Head) : List (Nat × List Byte) :=
  h.modules.flatMap (fun m =>
    if h.reaches m.1 = false ∨ m.2.failed ∨ m.2.fatal ∨ bitAt m.2.fence h.headId then []
    else m.2.blocks.flatMap (fun b => b.2.strips.filterMap (fun s =>
      if sealOk s.sealRec && sealData s.sealRec s.data then some (s.sealRec.toNat, s.data) else none)))

/-- The band strips of this pool. -/
def Head.bandStrips (h : Head) : List (Nat × List Byte) :=
  h.sealedStrips.filter (fun s => recAt s.1 5 1 = 1 && recAt s.1 8 8 = h.pair.pool.toNat)

/-- The strip of a position of a stripe: the one with the highest EPOCH. -/
def stripBySeal (l : List (Nat × List Byte)) (s p : Nat) : Option (Nat × List Byte) :=
  (l.filter (fun x => recAt x.1 16 4 = s && recAt x.1 6 1 = p)).foldl (fun (b : Option (Nat × List Byte)) x =>
    match b with
    | none => some x
    | some y => if recAt y.1 48 8 < recAt x.1 48 8 then some x else b) none

/-- The positions of a stripe that hold a good strip. -/
def sealedPositions (l : List (Nat × List Byte)) (s : Nat) : List Nat :=
  (List.range 32).filter (fun p => (stripBySeal l s p).isSome)

/-- The image of a stripe from its strips, missing ones rebuilt (R257); none where fewer than k are left. -/
def imageBySeal (l : List (Nat × List Byte)) (s : Nat) : Option (List Byte) :=
  match (List.range 32).findSome? (stripBySeal l s) with
  | none => none
  | some (v, _) =>
    let k := recAt v 28 1
    let m := recAt v 29 1
    let strips := (List.range (k + m)).map (fun p => (stripBySeal l s p).map (fun x => padTo stripBytes x.2))
    let img := if (strips.take k).all Option.isSome then some ((strips.take k).filterMap id)
      else if (strips.filter Option.isSome).length < k then none
      else (rebuildStrips k m stripBytes strips).map (fun r => r.take k)
    (img.map List.flatten).filter headBlockOk

/-! ### Segments and roots (R299, R301) -/

/-- A segment as it is read: kind, table, cut, NSID, page, version epoch and plaintext. -/
structure Segment where
  kind : Nat
  table : Nat
  cut : Nat
  nsid : Nat
  page : Nat
  vepoch : Nat
  head : Nat
  plain : List Byte
  deriving DecidableEq, Repr

/-- A segment from its bytes under the metadata key, where its CRC and tag pass. -/
def segmentOf (k : KeyRec) (b : List Byte) : Option Segment :=
  let plen := leAt b 16 4
  let nonce := mediaNonce k.salt (leAt b 40 8)
  let cipher := (b.drop 64).take (plen - 16)
  let tag := (b.drop (64 + plen - 16)).take 16
  if segmentOk b = false ∨ plen < 16 ∨ padTo 16 ((Config.tag k.key nonce (b.take 40) cipher).take 16) ≠ tag then none
  else some { kind := leAt b 5 1, table := leAt b 7 1, cut := leAt b 8 8, nsid := leAt b 20 4, page := leAt b 24 8,
              vepoch := leAt b 32 8, head := leAt b 6 1,
              plain := padTo (plen - 16) ((Config.decrypt 2 k.key nonce cipher).take (plen - 16)) }

/-- The segment at a location. -/
def segmentAt (l : List (Nat × List Byte)) (k : KeyRec) (loc : Nat) : Option Segment :=
  (imageBySeal l (locStripe loc)).bind (fun img => segmentOf k (img.drop (64 * locOffset loc)))

/-- The segment locations that a root lists. -/
def rootSegs (plain : List Byte) : List Nat := (List.range (leAt plain 20 4)).map (fun i => leAt plain (80 + 8 * i) 6)

/-- The root at a location with its segments, where it is valid (R301). -/
def rootAt (l : List (Nat × List Byte)) (k : KeyRec) (loc : Nat) : Option (Segment × List Segment) :=
  match segmentAt l k loc with
  | none => none
  | some r =>
    let segs := (rootSegs r.plain).map (segmentAt l k)
    if r.kind = 3 ∧ segs.all Option.isSome then some (r, segs.filterMap id) else none

/-- The locations of the segments of every class-15 stripe that a head wrote. -/
def Head.segmentPlaces (h : Head) (l : List (Nat × List Byte)) : List Nat :=
  ((l.map (fun x => recAt x.1 16 4)).eraseDups).flatMap (fun s =>
    match imageBySeal l s with
    | none => []
    | some img =>
      if leAt img 6 1 ≠ 15 ∨ bitAt (leAt img 5 1) 1 ≠ h.side then []
      else
        let n := leAt img 40 4
        let dir := img.drop (img.length - 64 * dirUnits n)
        (List.range n).map (fun i => mkLoc s (leAt dir (16 * i + 8) 4)))

/-- The newest valid root of this head by CUT (R250, R301): its location, the root and its segments. -/
def Head.newestRoot (h : Head) (l : List (Nat × List Byte)) (k : KeyRec) : Option (Nat × Segment × List Segment) :=
  ((h.segmentPlaces l).filterMap (fun loc => (rootAt l k loc).map (fun r => (loc, r.1, r.2)))).foldl
    (fun (b : Option (Nat × Segment × List Segment)) x =>
      match b with
      | none => some x
      | some y => if y.2.1.cut < x.2.1.cut then some x else b) none

/-! ### Loading the metadata (R250, R300) -/

/-- Put an entry into a version of a page: a version epoch that the page does not have first gets a copy of its newest version
(R300). The page is that of the namespace which its NSID named at the version's epoch; one that nothing remembers is left out. -/
def Head.loadSlot_ (h : Head) (n page vepoch i : Nat) (x : Option PageSlot) : Head :=
  if (h.ns (h.incKey n vepoch)).any (fun x => decide (vepoch < x.created)) then h
  else
    let nsid := h.incKey n vepoch
    let vs := h.versions nsid page
    let vs := if vs.any (fun v => v.epoch = vepoch) then vs
      else
        let new : PageVer := { epoch := vepoch, refs := true, entries := ((vs.head?).map (·.entries)).getD [] }
        vs.filter (fun v => decide (vepoch < v.epoch)) ++ [new] ++ vs.filter (fun v => decide (v.epoch < vepoch))
    h.setVersions nsid page (vs.map (fun v =>
      if v.epoch = vepoch then
        { v with entries := match x with
            | some s => Tbl.put v.entries i s
            | none => Tbl.del v.entries i }
      else v))

/-- An entry of a metadata page from its bytes, none where it is empty. -/
def slotOf (object : Bool) (b : List Byte) : Option PageSlot :=
  if object then
    (if leAt b 16 1 = 0 then none else some { len := leAt b 16 1, key := leAt b 0 16, chunk := leAt b 24 8 % 2 ^ 37 })
  else if leAt b 0 8 = 0 then none else some { len := 0, key := 0, chunk := leAt b 0 8 % 2 ^ 37 }

/-- A base page is loaded. -/
def Head.loadBase (h : Head) (g : Segment) : Head :=
  if g.table = 4 then
    (List.range 512).foldl (fun (h : Head) i => h.loadSlot_ g.nsid g.page g.vepoch i (slotOf false (g.plain.drop (8 * i)))) h
  else if g.table = 5 then
    (List.range 128).foldl (fun (h : Head) i => h.loadSlot_ g.nsid g.page g.vepoch i (slotOf true (g.plain.drop (32 * i)))) h
  else
    match h.sweepTables.find? (fun t => t.1 = g.table) with
    | some t => if g.page < t.2.2 then h.put (t.2.1 + 4096 * g.page) (g.plain.take 4096) else h
    | none => h

/-- A record of a delta segment: table, NSID, key, version epoch and value. -/
structure Delta where
  table : Nat
  nsid : Nat
  key : Nat
  vepoch : Nat
  value : List Byte
  deriving DecidableEq, Repr

/-- The value bytes of a table (R300). -/
def deltaSize (table : Nat) : Nat :=
  [0, 16, 4, 8, 8, 32, 32, 4, 16, 24, 16, 16, 16].getD table 0

/-- The records of a delta segment; `fuel` bounds their number. -/
def deltasOf : Nat → List Byte → List Delta
  | 0, _ => []
  | fuel + 1, b =>
    let t := leAt b 0 1
    let n := deltaSize t
    if b.length < 24 ∨ n = 0 then []
    else
      { table := t, nsid := leAt b 4 4, key := leAt b 8 8, vepoch := leAt b 16 8, value := (b.drop 24).take n }
        :: deltasOf fuel (b.drop (24 + roundUp n 8))

/-- The base page a record belongs to: table, NSID, page and version epoch. -/
def Delta.basePage (d : Delta) : Nat × Nat × Nat × Nat :=
  match d.table with
  | 1 => (1, 0, d.key / 256, 0)
  | 2 => (2, 0, d.key / 1024, 0)
  | 3 => (3, 0, d.key / 512, 0)
  | 4 => (4, d.nsid, d.key / 512, d.vepoch)
  | 5 => (5, d.nsid, d.key / 128, d.vepoch)
  | 6 => (6, 0, d.key / 128, 0)
  | 7 => (7, 0, (d.key % 2 ^ 32 * 32 + d.key / 2 ^ 32) / 1024, 0)
  | 11 => (11, 0, d.key / 256, 0)
  | t => (t, 0, 0, 0)

/-- A namespace from its two words (R300, assumption log 19, DESIGN CHOICE). -/
def nsOf (epochs : Option (List Byte)) (b : List Byte) : Ns :=
  let attr := leAt b 0 8
  let w := leAt b 8 8
  { object := bitAt attr 0, fsize := bitsAt attr 1 2, keyslot := bitsAt attr 16 16,
    attrs := if bitsAt attr 3 2 = 0 then none else some attr,
    size := if w % 2 ^ 62 = 0 then none else some (w % 2 ^ 62),
    repair := bitAt w 62, created := (epochs.map (fun e => leAt e 0 8)).getD 0,
    deleted := (epochs.map (fun e => leAt e 8 8)).bind (fun d => if d = noEpoch then none else some d) }

/-- The namespaces from their records in cut order: a record's epochs stand in the record whose KEY is 2^63 above its own. -/
def namespacesOf (ds : List Delta) : Tbl Ns :=
  let t := ds.foldl (fun (t : Tbl (List Byte)) d => if d.value.all (· = 0) then Tbl.del t d.key else Tbl.put t d.key d.value) []
  (t.filter (fun p => decide (1 ≤ p.1 ∧ p.1 < 2 ^ 63))).map (fun p => (p.1, nsOf (Tbl.find t (p.1 + 2 ^ 63)) p.2))

/-- A record is applied; a value of all zeros removes its entry. With LOG 0 there are no index tables, and records of them are left out
(R534). -/
def Head.loadDelta (h : Head) (d : Delta) : Head :=
  let zero : Bool := d.value.all (· = 0)
  if h.cxLog = 0 ∧ d.table ≤ 3 then h
  else match d.table with
  | 1 => h.put (h.recAddr d.key) d.value
  | 2 => h.put (h.ownAddr d.key) d.value
  | 3 => h.put (h.idxAddr (d.key / 8) (d.key % 8)) d.value
  | 4 => h.loadSlot_ d.nsid (d.key / 512) d.vepoch (d.key % 512) (slotOf false d.value)
  | 5 => h.loadSlot_ d.nsid (d.key / 128) d.vepoch (d.key % 128) (slotOf true d.value)
  | 6 => h.put (h.bandAddr d.key) d.value
  | 7 => h.put (h.remapAddr (d.key / 2 ^ 32) (d.key % 2 ^ 32)) d.value
  | 8 =>
    let t := if zero then Tbl.del h.cmt.snapshots d.key else Tbl.put h.cmt.snapshots d.key (leAt d.value 0 8)
    { h with cmt := { h.cmt with snapshots := t } }
  | 11 =>
    let h := h.put (h.holeAddr d.key) d.value
    let rest := h.fb.holed.filter (· ≠ d.key)
    { h with fb := { h.fb with holed := if zero then rest else d.key :: rest } }
  | _ => h

/-- The release list from its records in cut order: positions without an entry are left out. -/
def Head.releaseOf (h : Head) (ds : List Delta) : List (Nat × Nat) :=
  let t := ds.foldl (fun (t : Tbl (Nat × Nat)) d =>
    if d.value.all (· = 0) then Tbl.del t d.key
    else Tbl.put t d.key (pageKey (h.incKey (leAt d.value 0 8) (leAt d.value 16 8)) (leAt d.value 8 8), leAt d.value 16 8)) []
  t.map (·.2)

/-- The pending version and the pair's limit from the newest record of KEY 0 of the namespace table. -/
def Head.loadAsv (h : Head) (ds : List Delta) : Head :=
  let v := ((ds.filter (fun d => d.key = 0)).getLast?.map (·.value)).getD []
  let new := leAt v 0 4
  ({ h with cmt := { h.cmt with pendingAsv := if new = 0 then none else some (new, leAt v 8 8) } }).wr CMT_ASV_LIMIT (leAt v 4 4)

/-- The segments of a root are loaded: the base pages, then the delta segments in cut order, each record only where the base page
of its entry is older (R250, steps 1 and 2). -/
def Head.loadSegments (h : Head) (cut : Nat) (gs : List Segment) : Head :=
  let bases := gs.filter (fun g => g.kind = 2)
  let deltas := (gs.filter (fun g => g.kind = 1)).map (fun g => (g.cut, deltasOf (g.plain.length + 1) g.plain))
  let all := deltas.flatMap (·.2)
  let h := ({ h with nss := namespacesOf (all.filter (fun d => d.table = 10)) }).loadAsv (all.filter (fun d => d.table = 10))
  let h := bases.foldl Head.loadBase h
  let baseCut (p : Nat × Nat × Nat × Nat) : Nat :=
    (bases.filter (fun g => (g.table, g.nsid, g.page, g.vepoch) = p)).foldl (fun m g => max m g.cut) 0
  let h := deltas.foldl (fun (h : Head) g =>
    g.2.foldl (fun (h : Head) (d : Delta) => if baseCut d.basePage < g.1 then h.loadDelta d else h) h) h
  let lost := ((deltas.filter (fun g => g.1 = cut)).flatMap (·.2)).filter (fun d => d.table = 12)
  let dirty (g : Segment) : Bool := deltas.any (fun x => decide (g.cut < x.1)
    && x.2.any (fun (d : Delta) => decide (d.basePage = (g.table, g.nsid, g.page, g.vepoch))))
  let clean := (bases.filter (fun g => (g.table = 4 || g.table = 5) && ! dirty g)).map (fun g =>
    (pageKey (h.incKey g.nsid g.vepoch) g.page, g.vepoch))
  { h with fb := { h.fb with
      resident := [], clean := clean.eraseDups,
      release := h.releaseOf (all.filter (fun d => d.table = 9)),
      lost := lost.foldl (fun (t : List (Nat × Nat × Nat)) d => Tbl.put t (leAt d.value 0 4) (leAt d.value 4 4, leAt d.value 8 8)) [] } }

/-- What the metadata implies is counted anew: the references that versions hold, the manifests, the live IDs, and the pages of
namespaces that are gone. -/
def Head.recountMeta (h : Head) : Head :=
  let pages := h.pages.filter (fun p => (h.ns (p.1 / 2 ^ 80)).isSome)
  let pages := pages.map (fun p => (p.1, (withNext (h.pageEnd p.1) p.2).map (fun x =>
    { x.1 with refs := match x.2 with
        | none => true
        | some w => holdsVer h.snapEpochs x.1.epoch w || h.fb.release.contains (p.1, x.1.epoch) })))
  let h := { h with pages := pages }
  let h := h.pruneVersions
  let keys := (h.pages.filter (fun p => (h.ns (p.1 / 2 ^ 80)).any (·.object))).flatMap (fun p =>
    p.2.flatMap (fun v => v.entries.map (fun e => e.2.chunk)))
  let live (q : Nat) : Nat := ((List.range h.idLimit).filter (fun id => id % 2 = q && decide (1 ≤ id) && rAlloc (h.chunkRec id))).length
  ({ h with fb := { h.fb with manifests := (keys.eraseDups).filter (fun c => ! isPattern c) }, liveIds := (live 0, live 1) }).settlePool

/-- The blocks that slots are mapped to, which are no spares (R215), as the remap table shows them. -/
def Head.recountSpares (h : Head) : Head :=
  let slots := h.rd FB_GEOM1_ROW0 + h.rd FB_GEOM1_ROWS
  let used := (List.range h.mods).flatMap (fun j => (List.range slots).filterMap (fun slot =>
    let v := h.load (h.remapAddr j slot) 4
    if v = 0 ∨ v = deadSlot then none else some (j, v)))
  { h with fb := { h.fb with spareUsed := used } }

/-- The remaps and lost stripes of the configuration record hold whatever the checkpoint shows (R243, R489). -/
def Head.applyRetired (h : Head) : Head :=
  (h.retiredLog.foldl (fun (h : Head) r =>
    match r with
    | .remap j slot pblk => h.store (h.remapAddr j slot) 4 pblk
    | .lost s mask e => { h with fb := { h.fb with lost := Tbl.put h.fb.lost s (mask, e) } }
    | .found s => { h with fb := { h.fb with lost := Tbl.del h.fb.lost s } }
    | _ => h) h).recountSpares

/-- A root is taken: its segments, the geometry, the digest and the epochs (R301; R413 for a joiner). -/
def Head.takeRoot (h : Head) (loc : Nat) (r : Segment) (gs : List Segment) (own : Bool) : Head :=
  let p := r.plain
  let h := (h.wr PAR_GEOM_CURK (leAt p 4 1)).wr PAR_GEOM_CURM (leAt p 5 1)
  let h := (h.wr PAR_GEOM_NEWK (leAt p 6 1)).wr PAR_GEOM_NEWM (leAt p 7 1)
  let h := (h.wr PAR_STS_RESHAPING (leAt p 8 1)).wr PAR_BOUND_BAND (leAt p 12 4)
  let h := h.wr CMT_ASV_CUR (leAt p 0 2)
  let h := (h.loadSegments r.cut gs).recountMeta
  let h := { h with cmt := { h.cmt with digest := digOf ((p.drop 48).take 32), spans := [], applyLog := [], diverge := none } }
  let h := (h.wr CMT_LAST_EPOCH (r.cut - 1)).wr CMT_APPLIED_EPOCH (r.cut - 1)
  if own then
    ({ h with fb := { h.fb with root := some { cut := r.cut, loc := loc, segs := rootSegs p }, nonce := leAt p 24 8,
                                consumed := leAt p 16 4 } }).wr FB_CKPT_EPOCH (r.cut - 1)
  else h

/-! ### The dump (R280, R281) -/

/-- A copy found on the dump rows: head, copy, sequence, JSIZE and CMT_LAST. -/
structure DumpFound where
  head : Nat
  copy : Nat
  seq : Nat
  jsize : Nat
  last : Nat
  deriving DecidableEq, Repr

/-- The plaintext of a unit, where its strip is there and its tag passes. -/
def unitPlain (l : List (Nat × List Byte)) (k : KeyRec) (seq hd c n : Nat) : Option (List Byte) :=
  match l.find? (fun x => recAt x.1 16 4 = seq && recAt x.1 7 1 = hd && recAt x.1 6 1 = c && recAt x.1 24 4 = n) with
  | none => none
  | some (v, b) =>
    let nonce := mediaNonce k.salt (dumpCounter seq hd c n)
    let cipher := padTo stripBytes b
    if padTo 16 ((Config.tag k.key nonce [] cipher).take 16) = toBytes 16 (recAt v 32 16) then
      some (padTo stripBytes ((Config.decrypt 2 k.key nonce cipher).take stripBytes))
    else none

/-- The headers on the dump rows. -/
def Head.dumpHeaders (_h : Head) (l : List (Nat × List Byte)) (k : KeyRec) : List DumpFound :=
  (l.filter (fun x => recAt x.1 24 4 = 0)).filterMap (fun x =>
    let seq := recAt x.1 16 4
    let hd := recAt x.1 7 1
    let c := recAt x.1 6 1
    (unitPlain l k seq hd c 0).bind (fun p =>
      if leAt p 0 4 = 0x504D5544 ∧ leAt p 4 1 = 1 ∧ leAt p 8 4 = seq then
        some { head := hd, copy := c, seq := seq, jsize := leAt p 12 4, last := leAt p 16 8 }
      else none))

/-- A copy is valid (R280). -/
def Head.dumpValid (h : Head) (l : List (Nat × List Byte)) (k : KeyRec) (f : DumpFound) : Bool :=
  let n := h.dumpUnits
  decide (h.fb.consumed < f.seq) && f.jsize = h.rd CMT_JSIZE_GIB
    && (List.range n).all (fun i => (unitPlain l k f.seq f.head f.copy i).isSome)
    && (unitPlain l k f.seq f.head f.copy (n - 1)).any (fun p =>
      leAt p 0 4 = 0x444E4544 && leAt p 8 4 = f.seq && leAt p 12 4 = n && leAt p 262136 8 = f.seq + 2 ^ 63)

/-- One copy is loaded rather than another: by CMT_LAST, then its own before the twin's, then the lowest number. -/
def Head.dumpBetter (h : Head) (a b : DumpFound) : Bool :=
  if a.last ≠ b.last then decide (b.last < a.last)
  else if a.head ≠ b.head then a.head = h.headId
  else decide (a.copy < b.copy)

/-- What the dump rows give (R280, R281): false where a newer header has no valid copy, or the alarm latch is set (R473), and the head
must wait for FORCE. The count of DUMP_LOST: assumption log 75, DESIGN CHOICE. -/
def Head.loadDump (h : Head) : Bool × Head :=
  match h.roleKey 5, h.umb.latch with
  | none, false => (true, h)
  | key, latch =>
    let l := h.sealedStrips.filter (fun x => recAt x.1 5 1 = 2 && recAt x.1 8 8 = h.pair.pool.toNat)
    let k := key.getD { key := [], salt := [], kind := 4, use := 0, keyid := 0 }
    let heads := if key.isSome then (h.dumpHeaders l k).filter (fun f => decide (h.fb.consumed < f.seq)) else []
    let good := if latch then [] else heads.filter (h.dumpValid l k)
    let best := good.foldl (fun (b : Option DumpFound) f =>
      match b with
      | none => some f
      | some g => if h.dumpBetter f g then some f else b) none
    match best with
    | some f =>
      let own := good.filter (fun g => g.head = h.headId)
      let h := h.wr PAR_DUMP_COPIES (own.foldl (fun m g => setBitN m g.copy) 0)
      let h := (h.wr PAR_DUMP_TWINSRC (decide (f.head ≠ h.headId)).toNat).wr PAR_DUMP_SEQ f.seq
      let h := (List.range (h.dumpUnits - 2)).foldl (fun (h : Head) i =>
        h.put (h.journal.1 + i * stripBytes) ((unitPlain l k f.seq f.head f.copy (i + 1)).getD [])) h
      (true, ({ h with fb := { h.fb with dirty := false } }).post 7 0x070D 1 f.seq f.last f.head f.copy)
    | none =>
      if heads = [] ∧ latch = false then (true, h)
      else
        let top := heads.foldl (fun m f => max m f.seq) 0
        let last := heads.foldl (fun m f => max m f.last) 0
        let h := (h.wr PAR_ERR_DUMPLOST 1).post 7 0x070E 3 top h.fb.consumed heads.length 0
        (false, { h with cmt := { h.cmt with stopped := true }, fb := { h.fb with lostDump := some last } })

/-! ### The band scan (R250, step 3; R293) -/

/-- The stripes that a band holds from index 0 on: the head blocks up to the first that is absent or fails. -/
def bandHeads (l : List (Nat × List Byte)) (b : Nat) : List (List Byte) :=
  (((List.range 128).map (fun i => imageBySeal l (b * 128 + i))).takeWhile Option.isSome).filterMap id

/-- A band that the checkpoint shows FREE, OPEN, ERASE_PENDING or ERASING takes its WPTR, mode and class from the scan; a
VICTIM is CLOSED again. A FREE or OPEN band that holds stripes is CLOSED, since what it was opened for is not recorded
(assumption log 20, DESIGN CHOICE). -/
def Head.scanBand (h : Head) (l : List (Nat × List Byte)) (b : Nat) : Head :=
  let x := h.band b
  if x.state = bVictim then h.putBand b { x with state := bClosed }
  else if x.state = bClosed ∨ x.state = bRetired then h
  else
    let hs := bandHeads l b
    match hs with
    | [] => h.putBand b { x with state := if x.state = bOpen then bFree else x.state, wptr := 0 }
    | hd :: _ =>
      let flags := leAt hd 5 1
      let last := hs.foldl (fun m q => max m (leAt q 32 8)) x.last
      let open_ : Bool := x.state = bFree || x.state = bOpen
      h.putBand b { x with wptr := hs.length, oneBit := bitAt flags 0, cls := leAt hd 6 1, last := last,
                           state := if open_ then bClosed else x.state,
                           owner := if x.state = bFree then (bitAt flags 1).toNat else x.owner }

/-! ### Replay (R64, R65) -/

/-- The epoch header at an offset of the intent ring, where it is one with a right CRC. -/
def Head.headerAt (h : Head) (off : Nat) : Option (List Byte) :=
  let b := h.ringBytes off 64
  if leAt b 0 4 = 0x45484A43 ∧ (crc32c (b.take 60)).toNat = leAt b 60 4 then some b else none

/-- A commit record of an epoch, with its commit word, at a slot of the intent ring: the offset of its header (R63). -/
def Head.commitAt (h : Head) (e i : Nat) : Option Nat :=
  let b := h.ringBytes (64 * i) 64
  if leAt b 0 4 = 0x524D4F43 ∧ leAt b 8 8 = e ∧ leAt b 56 8 = e + 2 ^ 63 then some (leAt b 16 8) else none

/-- Where the span of an epoch begins: where a commit record of it says, or a header that names it. -/
def Head.findSpan (h : Head) (e : Nat) : Option Nat :=
  let slots := List.range (h.intentRing / 64)
  match slots.findSome? (h.commitAt e) with
  | some off => some off
  | none => (slots.find? (fun i => (h.headerAt (64 * i)).any (fun b => leAt b 8 8 = e))).map (64 * ·)

/-- The intent ring holds no span of any epoch. -/
def Head.journalEmpty (h : Head) : Bool := (List.range (h.intentRing / 64)).all (fun i => (h.headerAt (64 * i)).isNone)

/-- The length of the span of an epoch at an offset, where its commit word is right: the word stands where the counts of the header
place it, or in a commit record that names the offset (R64, R65). -/
def Head.committedAt (h : Head) (e off : Nat) : Option Nat :=
  let b := h.ringBytes off 64
  let ring := h.intentRing
  let len := spanLen (leAt b 16 4 + leAt b 20 4) (leAt b 24 4)
  if len ≤ ring ∧ leAt (h.ringBytes ((off + len - 8) % ring) 8) 0 8 = e + 2 ^ 63 then some len
  else ((List.range (ring / 64)).find? (fun i => h.commitAt e i = some off)).map (fun i => (64 * i + 64 + ring - off) % ring)

/-- What replay finds of an epoch at an offset. -/
inductive Replay
  | stop
  | corrupt (kind : Nat)
  | asv
  | span (s : Span) (rs : List Rec64) (refs : List RingRef)
  deriving DecidableEq, Repr

/-- A data reference from its 16 bytes. -/
def ringRefOf (e : Nat) (b : List Byte) : RingRef :=
  { chunk := leAt b 0 8 % 2 ^ 37, origin := (bitAt (leAt b 0 8) 63).toNat, offset := leAt b 8 6, units := leAt b 14 2,
    epoch := some e, loc := 0 }

/-- The span of epoch `e` expected at an offset (R64, R65). -/
def Head.replayAt (h : Head) (e off : Nat) : Replay :=
  let b := h.ringBytes off 64
  let n0 := leAt b 16 4
  let n1 := leAt b 20 4
  let nref := leAt b 24 4
  let ring := h.intentRing
  match h.committedAt e off with
  | none => .stop
  | some len =>
    let asv := leAt b 4 2
    let rec_ := h.ringBytes ((off + len - 64) % ring) 64
    let body := h.ringBytes off (64 + 64 * (n0 + n1) + 16 * nref)
    let rs := recordsOf (n0 + n1) (body.drop 64)
    if (h.headerAt off).isNone ∨ leAt b 8 8 ≠ e ∨ spanLen (n0 + n1) nref ≠ len then .corrupt 1
    else if leAt rec_ 24 8 ≠ (crc64 body).toNat then .corrupt 0
    else if rs.any (fun r => iCrcOk r = false) then .corrupt 2
    else if h.rd CMT_ASV_MAX < asv then .asv
    else
      let refs := (List.range nref).map (fun i => ringRefOf e (body.drop (64 + 64 * (n0 + n1) + 16 * i)))
      .span { off := off, len := len, n0 := n0, n1 := n1, nref := nref, asv := asv } rs refs

/-- Where the intents of an epoch place a chunk. -/
def placeIn (rs : List Rec64) (id : Nat) : Nat :=
  (rs.findSome? (fun r =>
    let v := r.toNat
    if recAt v 24 8 % 2 ^ 37 ≠ id then none
    else if iType r = 3 then some (rLoc (recAt v 32 16))
    else if iType r = 6 then some (recAt v 40 6)
    else none)).getD 0

/-- A head that stops in its restore serves no host and takes no lease (R65, R281). -/
def Head.stopRestore (h : Head) : Head := { h with cmt := { h.cmt with stopped := true } }

/-- An epoch found whole is committed and applied as in normal service (R64). -/
def Head.replayEpoch (h : Head) (e : Nat) (s : Span) (rs : List Rec64) (refs : List RingRef) : Head :=
  let refs := refs.map (fun q => { q with loc := placeIn rs q.chunk })
  let h := { h with cmt := { h.cmt with spans := Tbl.put h.cmt.spans e s, intentHead := (s.off + s.len) % h.intentRing,
                                        intentUsed := h.cmt.intentUsed + s.len, ring := h.cmt.ring ++ refs } }
  ((h.wr CMT_LAST_EPOCH e)).applyNext

/-- Replay from epoch `e` at an offset on, in epoch order; `fuel` bounds the epochs. 'Pair CUR' of an ASV_REJECT here is this head's
own CUR, for no twin has spoken yet (assumption log 66, DESIGN CHOICE). -/
def Head.replay (h : Head) (e off : Nat) : Nat → Head
  | 0 => h
  | fuel + 1 =>
    match h.replayAt e off with
    | .stop => h
    | .corrupt kind => (h.post 2 0x0225 3 e off kind 0).stopRestore
    | .asv => ((h.wr CMT_ERR_ASVREJ 1).post 2 0x0229 2 (h.rd CMT_ASV_MAX) (h.rd CMT_ASV_CUR) e 0).stopRestore
    | .span s rs refs =>
      let h := h.replayEpoch e s rs refs
      if h.cmt.applyStopped ∨ h.plt.stopped ∨ h.rd CMT_ASV_MAX = 0 then h.stopRestore else h.replay (e + 1) ((off + s.len) % h.intentRing) fuel

/-! ### Restore (R250) -/

/-- The stripes with data references are durable, and their ring space is freed, or those of this head are re-placed (R223,
R250 step 6). -/
def Head.settleStripes (h : Head) (l : List (Nat × List Byte)) : Head :=
  let ss := ((h.cmt.ring.filter (fun r => r.loc ≠ 0)).map (fun r => locStripe r.loc)).eraseDups
  ss.foldl (fun (h : Head) s =>
    let b := stripeBand s
    let have_ := sealedPositions l s
    let whole := (List.range h.width).all (fun p => have_.contains p || (h.holeAt b p).isSome)
    if whole then h.freeRing s else if h.ownsBand b then h.replaceStripe s 0 1 else h) h

/-- Steps 3 to 7 of R250, once the dump is loaded or given up. -/
def Head.restoreRest (h : Head) (cut : Nat) : Head :=
  let l := h.bandStrips
  let h := h.bands.foldl (fun (h : Head) b => h.scanBand l b) h
  let h := match h.findSpan cut with
    | some off => h.replay cut off (h.intentRing / 64)
    | none => h
  let h := (h.settleStripes l).recompute
  let h := (((List.range h.mods).foldl Head.showSpares h).showHoles).showLost
  let h := (h.showFloor.showBuf.backPressure).dumpSpaceCheck
  h.bands.foldl Head.bandErase h

/-- The twin holds a lease as sole holder, by the newest words known. -/
def Head.twinHoldsSole (h : Head) : Bool :=
  (List.range 32).any (fun p => (h.port p).leaseKnown && (h.port p).holder = h.twinSole)

/-- A head whose journal and checkpoint store are empty applies under the highest version it supports (R83). -/
def Head.emptyStart (h : Head) (stored : Bool) : Head :=
  if stored = false ∧ h.journalEmpty then h.wr CMT_ASV_CUR (h.rd CMT_ASV_MAX) else h

/-- RESTORE (R250, R280, R281), after the DRAM fill. A head that has restored does nothing; where the twin holds sole leases it
restores nothing and erases its dump rows, to rejoin. A dump is loaded whether or not a root is found. -/
def Head.restore (h : Head) : Head :=
  if h.role ≠ rAlone ∨ h.last ≠ noEpoch ∨ h.fb.lostDump.isSome ∨ h.is MEM_STS_FILLDONE = false then h
  else if h.twinHoldsSole then h.eraseDumpRows
  else
    match h.roleKey 4 with
    | none => h.emptyStart (h.bandStrips ≠ [])
    | some k =>
      let l := h.bandStrips
      match h.newestRoot l k with
      | none =>
        match h.loadDump with
        | (true, h) => h.emptyStart (h.segmentPlaces l ≠ [])
        | (false, h) => h
      | some (loc, r, gs) =>
        let h := (h.takeRoot loc r gs true).applyRetired
        match h.loadDump with
        | (true, h) => h.restoreRest r.cut
        | (false, h) => h

/-- A write of PAR_DUMP.FORCE (R281): a head that found no valid copy of a newer dump restores from its checkpoint alone. -/
def Head.dumpForce (h : Head) : Head :=
  match h.fb.lostDump with
  | none => h
  | some last =>
    let cut := if h.last = noEpoch then 0 else h.last + 1
    let h := h.post 7 0x070F 3 cut last 0 0
    let h := { h with cmt := { h.cmt with stopped := false }, fb := { h.fb with lostDump := none } }
    h.restoreRest cut

end Sys2Proof.Machine
end

