-- ==== Sys2Proof/Machine/Pair.lean ====
section
/-! DEFINITION. Pairing: link formation, HELLO and formation, suspicion and bids, takeover, rejoin and leave
(spec/15_twin_operation.md, R399 to R416; spec/17_umbra_security.md, R470; spec/14_sundog_and_rdma.md, R364, R381, R382). -/
namespace Sys2Proof.Machine
open Reg

/-! ### Leases wanted (R402, R408, R413, R416) -/

/-- An operation for a purpose is outstanding on a port. -/
def Head.leaseBusy (h : Head) (p : Nat) (why : Purpose) : Bool := (h.port p).outstanding.any (fun e => e.2.purpose = why)

/-- ACQUIRE from the newest lease word known of a module. -/
def Head.acquire_ (h : Head) (p new : Nat) (why : Purpose) : Head :=
  if h.leaseBusy p why then h else h.issue p 0 (leaseOp 2 (h.port p).gen (h.port p).holder new 0) why

/-- The lease word of a module is read where it is not known. -/
def Head.learnLease (h : Head) (p : Nat) : Head :=
  if (h.port p).leaseKnown ∨ h.leaseBusy p .leaseRead then h else h.issue p 0 (leaseOp 0 0 0 0 0) .leaseRead

/-- What formation wants of a module (R402): head 0 takes it to SHARED, and a head that holds it SOLE releases it first. -/
def Head.formWant (h : Head) (p : Nat) : Head :=
  if h.role ≠ rForming ∨ h.pair.formEpoch.isNone then h
  else if (h.port p).leaseKnown = false then h.learnLease p
  else if (h.port p).holder = h.ownSole then h.acquire_ p 0 .form
  else if (h.port p).holder = 0 ∧ h.headId = 0 then h.acquire_ p 1 .form
  else h

/-- What a keeper wants of a module (R408, R416): one that the twin does not hold becomes its own. -/
def Head.keeperWant (h : Head) (p : Nat) : Head :=
  if h.role ≠ rKeeper ∨ h.pair.joinAt.isSome then h
  else if (h.port p).leaseKnown = false then h.learnLease p
  else if (h.port p).holder ≤ 1 then h.acquire_ p h.ownSole .keeper
  else h

/-- Every reached module is asked for what the role wants. -/
def Head.wantAll (h : Head) : Head := h.linkedPorts.foldl (fun (h : Head) p => (h.formWant p).keeperWant p) h

/-! ### Roles (R399) -/

/-- The head becomes the keeper: the twin is declared failed (R408, and orders 6 to 8 of R401). Bands are taken, the OPEN ones closed with
their stripes (R221), the stripes that the twin left not durable are re-placed, and commands that wait go on. -/
def Head.becomeKeeper (h : Head) : Head :=
  let h := { h with pair := { h.pair with twinFailed := true, joinAt := none, joinCut := none, formEpoch := none } }
  let left := ((h.cmt.ring.filter (fun r => r.loc ≠ 0 && (h.band (stripeBand (locStripe r.loc))).owner ≠ h.headId)).map
    (fun r => locStripe r.loc)).eraseDups.filter (fun s => (h.stripe s).isNone)
  let h := (h.bands.filter (fun b => (h.band b).owner ≠ h.headId)).foldl (fun (h : Head) b =>
    let x := h.band b
    h.putBand b { x with owner := h.headId, state := if x.state = bOpen then bClosed else x.state }) h
  let h := h.setRole rKeeper
  let h := h.frontOpen
  let h := left.foldl (fun (h : Head) s => h.replaceStripe s 0 2) h
  let promoted := if h.is SD_PAIR_CTL_PROMOTE then
      (List.range 256).foldl (fun (h : Head) g =>
        let f := FE_ANA_GRP.el (g / 16) 0 (g % 16)
        if h.rd f = 2 then h.wr f 1 else h) h
    else h
  let h := promoted.anaReport h
  (((h.recompute).dumpCheck).acceptLanded).releaseWrites

/-- A head becomes FENCED at a HELLO that bars it from the pair (R17, R79, R196): it takes no lease. -/
def Head.barred (h : Head) (cause : FenceCause) : Head := h.enterFenced (some cause)

/-- Formation is given up: the head is ALONE again. -/
def Head.backAlone (h : Head) : Head :=
  if h.role = rForming then
    { h.setRole rAlone with pair := { h.pair with formEpoch := none, formCkpt := false, formedRecv := none } }
  else h

/-! ### Bids (R406 to R409, R412) -/

/-- The modules that make this head win (R407). -/
def Head.wins (h : Head) (w : Nat) : Bool := decide (h.mods < 2 * w) || (2 * w = h.mods && h.headId = 0)

/-- The modules that would make the twin win. -/
def Head.twinWins (h : Head) (w : Nat) : Bool := decide (h.mods < 2 * w) || (2 * w = h.mods && h.headId = 1)

/-- A bid whose every ACQUIRE has ended (R409): a loser counts what the twin may hold. NO_QUORUM's modules reached:
assumption log 75, DESIGN CHOICE. -/
def Head.bidClosed (h : Head) (b : Bid) : Head :=
  let h := { h with pair := { h.pair with bid := none } }
  if h.role ≠ rFenced ∨ h.twinWins (b.twins.length + b.unknown.length) then h
  else (h.wr SD_PAIR_ERR_NOQUORUM 1).post 9 0x0915 3 b.won.length b.reached h.mods h.epoch

/-- The head takes over (R408). -/
def Head.takeover (h : Head) (b : Bid) : Head :=
  let first := if h.last = noEpoch then 0 else h.last + 1
  let h := { h with pair := { h.pair with bid := some { b with decided := true }, deaf := true,
                                          keeperOf := (List.range h.mods).filter (fun p => ! b.won.contains p) } }
  (h.post 9 0x0913 2 b.won.length h.mods first (h.mer.tick - b.since)).becomeKeeper

/-- A bid is decided at the first outcome that settles it (R407). -/
def Head.bidSettle (h : Head) : Head :=
  match h.pair.bid with
  | none => h
  | some b =>
    let h := h.wr SD_PAIR_STS_WON b.won.length
    let h := if b.decided then h
      else if h.wins b.won.length then h.takeover b
      else if h.wins (b.won.length + b.open_.length) then h
      else ({ h with pair := { h.pair with bid := some { b with decided := true } } }).loseFence none
    if b.open_ = [] then h.bidClosed b else h

/-- The outcome of a bid on a module: 0 still open, 1 won, 2 the twin's, 3 without a word, 4 nobody's. -/
def Head.bidNote (h : Head) (p outcome : Nat) : Head :=
  match h.pair.bid with
  | none => h
  | some b =>
    let b := { b with open_ := if outcome = 0 then b.open_ else b.open_.filter (· ≠ p) }
    let b := if outcome = 1 then { b with won := b.won ++ [p] } else b
    let b := if outcome = 2 then { b with twins := b.twins ++ [p] } else b
    let b := if outcome = 3 then { b with unknown := b.unknown ++ [p] } else b
    ({ h with pair := { h.pair with bid := some b } }).bidSettle

/-- The head bids on every module it reaches (R406). -/
def Head.startBid (h : Head) : Head :=
  let h := h.setRole rBidding
  let ps := (List.range h.mods).filter h.reaches
  let won := ps.filter (fun p => (h.port p).leaseKnown && (h.port p).holder = h.ownSole)
  let rest := ps.filter (fun p => ! won.contains p)
  let b : Bid := { open_ := rest, won := won, twins := [], unknown := (List.range h.mods).filter (fun p => ! h.reaches p),
                   retried := [], reached := ps.length, since := h.mer.tick, decided := false }
  let h := { h with pair := { h.pair with bid := some b } }
  let h := rest.foldl (fun (h : Head) p =>
    if (h.port p).leaseKnown then h.acquire_ p h.ownSole .bid else h.issue p 0 (leaseOp 0 0 0 0 0) .bid) h
  h.bidSettle

/-- A module's ACQUIRE is to be tried once more, from holder NONE (R406); false where it was already. -/
def Head.mayRetry (h : Head) (p : Nat) : Bool := h.pair.bid.any (fun b => ! b.retried.contains p)

/-- That retry is noted. -/
def Head.noteRetry (h : Head) (p : Nat) : Head :=
  { h with pair := { h.pair with bid := h.pair.bid.map (fun b => { b with retried := b.retried ++ [p] }) } }

/-- An operation of the bid on a module has ended; `word`: it returned a lease word, which the port now shows; `sub` is that of its
entry, `ok` its success. -/
def Head.bidAnswer (h : Head) (p sub : Nat) (ok word : Bool) : Head :=
  let holder := (h.port p).holder
  if word = false then h.bidNote p 3
  else if holder = h.ownSole then
    let h := h.bidNote p 1
    if h.role = rFenced then h.issue p 0 (leaseOp 2 (h.port p).gen h.ownSole 0 0) .release else h
  else if h.role ≠ rBidding ∧ h.role ≠ rKeeper then h.bidNote p (if holder = h.twinSole then 2 else 4)
  else if sub = 0 then h.issue p 0 (leaseOp 2 (h.port p).gen holder h.ownSole 0) .bid
  else if ok = false ∧ holder = 0 ∧ h.mayRetry p then (h.noteRetry p).issue p 0 (leaseOp 2 (h.port p).gen 0 h.ownSole 0) .bid
  else h.bidNote p (if holder = h.twinSole then 2 else 4)

/-! ### A failed link and suspicion (R364, R403 to R406, R414, R415) -/

/-- The link is failed (R364), Sundog's part and the nonces of the next formation. A link that is not up stays as it is. -/
def Head.dropLink (h : Head) (cause conn : Nat) : Head :=
  if h.is SD_STS_LINKUP then
    let h := (h.linkDown cause conn).twinExit
    { h with umb := { h.umb with ownNonce := none, twinNonce := none } }
  else h

/-- A keeper abandons a join (R414): the joiner's port is fenced again. Causes: 0 ring space, 1 digest, 2 twin lost. -/
def Head.abandonJoin (h : Head) (cause : Nat) : Head :=
  let h := { h with pair := { h.pair with joinCut := none, joinAt := none, joinWait := 0, twinFailed := true } }
  let h := h.reachedPorts.foldl (fun (h : Head) p =>
    if (h.port p).holder = h.ownSole then h.issue p 0 (fenceOp false false) .fence else h) h
  (h.wr SD_PAIR_ERR_JOINFAIL 1).post 9 0x0919 2 cause h.epoch 0 0

/-- A joiner whose keeper is lost (R415). -/
def Head.joinLost (h : Head) (cause : Nat) : Head :=
  ((h.wr SD_PAIR_ERR_JOINFAIL 1).post 9 0x0919 2 cause h.epoch 0 0).enterFenced none

/-- The twin becomes suspect (R404 to R406, R414, R415): causes 0 silent, 1 link only, 2 power fail, 3 fenced, 4 yielded. -/
def Head.suspect (h : Head) (cause : Nat) : Head :=
  if h.role = rPaired then
    let h := h.post 9 0x0912 1 cause (h.rd SD_PAIR_STS_MISSED) h.mer.tick h.epoch
    (h.dropLink 2 0).startBid
  else if h.role = rJoining then (h.dropLink 2 0).joinLost 3
  else if h.role = rKeeper ∧ (h.pair.joinCut.isSome ∨ h.pair.joinAt.isSome) then (h.dropLink 2 0).abandonJoin 2
  else h

/-- The cause of a suspicion through misses or a failed link (R405). -/
def Head.silentCause (h : Head) : Nat := if h.is SD_PAIR_STS_TWINALIVE then 1 else 0

/-- The Sundog link fails (R364): causes 0 no group, 1 retries; the twin becomes suspect, and a formation is given up. -/
def Head.failLink (h : Head) (cause conn : Nat) : Head :=
  if h.is SD_STS_LINKUP then ((h.dropLink cause conn).suspect h.silentCause).backAlone else h

/-! ### Link formation (R470) -/

/-- CLOCK (R401): the epoch numbering of this head, in the first tick of an epoch or during it. -/
def Head.sendClock (h : Head) : Head :=
  if h.is MER_STS_EPVALID then
    h.sendTwin (.clock h.epoch (h.mer.tick - h.mer.tie) (BitVec.ofNat 64 (h.rd MER_ORIGIN_ORIGIN)) h.cur
      (h.rd MER_EPLEN_NEXT) (h.rd MER_EPLEN_AT_AT))
  else h

/-- HELLO (R401). -/
def Head.sendHello (h : Head) : Head :=
  h.sendTwin (.hello h.headId h.role h.cxLog (h.rd CMT_JSIZE_GIB) (h.rd CMT_ASV_MAX) (h.rd CMT_ASV_CUR) h.pair.pool h.last
    h.applied h.cmt.digest)

/-- The hardware connections are open, with every PSN 0, and the credits start afresh (R364, R371, R373). -/
def Head.openLink (h : Head) : Head :=
  let z := Sd.reset.used
  let h := { h with sd := { h.sd with used := z, grants := z, freed := z, hbSeq := 0 } }
  let h := (List.range 13).foldl (fun (h : Head) c => h.setConn c { Conn.reset with state := 1, peer := c }) h
  ((h.wr SD_STS_LINKUP 1).wr SD_STS_LINKFAIL 0).showCredits

/-- An ALONE head whose link has formed is FORMING, unless it has stopped in its restore (R65, R401). -/
def Head.linkRole (h : Head) : Head := if h.role = rAlone ∧ h.cmt.stopped = false then h.setRole rForming else h

/-- The link forms: CLOCK goes once, placements not yet mirrored (R164), and HELLO from a head that may form or rejoin a pair (R401). -/
def Head.linkForms (h : Head) : Head :=
  let x := (({ h with pair := { h.pair with deaf := false } } : Head).openLink.sendClock).mirrorAll
  if x.role = rAlone ∨ x.role = rKeeper ∨ (x.role = rFenced ∧ x.pair.fence.isNone) then x.sendHello.linkRole else x

/-- Roles in which a link may form: not those that hold or contest a pair. -/
def Head.mayLink (h : Head) : Bool :=
  ! h.is SD_STS_LINKUP && h.role ≠ rPaired && h.role ≠ rBidding && h.role ≠ rLeft && h.role ≠ rJoining

/-- Both nonces are held: the key is derived and the link forms. -/
def Head.linkTry (h : Head) : Head :=
  match h.roleKey 0 with
  | none => h
  | some k =>
    if h.umb.ownNonce.isSome ∧ h.umb.twinNonce.isSome ∧ h.mayLink then (h.deriveLinkKey k.key).linkForms else h

/-- LINK_KEY_FRAME_SEND (R470): on every active group, until a packet has authenticated under the new key. Without an AKEK, or
without a random source for the nonce, nothing is sent. -/
def Head.keyFrameSend (h : Head) : Head :=
  match h.roleKey 0 with
  | none => h
  | some k =>
    if h.sd.linkFormed ∨ h.ownActive = [] ∨ (h.mayLink = false ∧ h.is SD_STS_LINKUP = false)
        ∨ (h.umb.ownNonce.isNone ∧ h.is UMB_STS_RNGOK = false) then h
    else
      let h := if h.umb.ownNonce.isSome then h else
        let (b, h) := h.drawBytes 32
        { h with umb := { h.umb with ownNonce := some (BitVec.ofNat 256 (ofBytes b)), mismatchPosted := false } }
      let n := h.umb.ownNonce.getD 0
      let h := h.ownActive.foldl (fun (h : Head) g => h.emit (.chrt (.linkKey g (h.linkFrame k.key n)))) h
      h.linkTry

/-- LINK_KEY_FRAME_RECEIVE (R470): a frame that is not in order is ignored; one with another CHECK forms no link and is posted once for
each attempt. -/
def Head.keyFrameIn (h : Head) (f : LinkKeyFrame) : Head :=
  match h.roleKey 0 with
  | none => h
  | some k =>
    if f.magic ≠ 0x594B4E4C ∨ f.ver ≠ 1 ∨ f.zeros = false ∨ h.mayLink = false then h
    else if f.check ≠ linkCheck k.key then
      let h := h.wr UMB_ERR_LINKKEY 1
      if h.umb.mismatchPosted then h
      else
        let h := { h with umb := { h.umb with mismatchPosted := true } }
        h.post 11 0x0B07 2 (linkCheck k.key).toNat f.check.toNat 0 0
    else ({ h with umb := { h.umb with twinNonce := some f.nonce } }).linkTry

/-! ### HELLO and formation (R401, R402) -/

/-- PAIR_MISMATCH (R401). -/
def Head.pairMismatch (h : Head) (order own twin : Nat) : Head := h.post 9 0x0911 2 order own twin 0

/-- A keeper offers a join (R413) once it has a complete checkpoint: the joiner's fence is cleared on every module it holds. -/
def Head.offerJoin (h : Head) : Head :=
  match h.fb.root with
  | none => h
  | some r =>
    if h.role ≠ rKeeper ∨ h.pair.joinPending = false ∨ h.pair.joinCut.isSome ∨ h.is SD_STS_LINKUP = false then h
    else
      let h := { h with pair := { h.pair with joinPending := false, joinCut := some r.cut, joinWait := 0 } }
      let h := h.sendTwin (.joinOffer r.cut r.loc h.last)
      h.reachedPorts.foldl (fun (h : Head) p =>
        if (h.port p).holder = h.ownSole then h.issue p 0 (fenceOp false true) .fence else h) h

/-- The twin rejoins this head, which is or becomes the keeper (R401, orders 6 to 8). -/
def Head.keepFor (h : Head) : Head :=
  let h := if h.role = rKeeper then h else (h.becomeKeeper).wantAll
  ({ h with pair := { h.pair with joinPending := true } }).offerJoin

/-- The pool identity is drawn by the head that forms the pool (R324), where no module reports one; the twin learns it from MOD_NOTE
(assumption log 22, DESIGN CHOICE). -/
def Head.formPool (h : Head) : Head :=
  if h.pair.pool ≠ 0 ∨ h.is UMB_STS_RNGOK = false then h
  else
    let (v, h) := h.draw
    let id : Word := if v = 0 then 1 else v
    let h := { h with pair := { h.pair with pool := id } }
    h.reachedPorts.foldl (fun (h : Head) p =>
      if h.mods ≤ p then h
      else (h.setPort p { h.port p with pool := id, posn := p }).sendModNote p (h.modState p)) h

/-- Head 0 names P (R402): the first multiple of 1,024 at least 2,048 epochs away. -/
def Head.nameP (h : Head) : Head :=
  if h.headId ≠ 0 ∨ h.is MER_STS_EPVALID = false then h
  else
    let p := roundUp (h.epoch + 2048) 1024
    let h := { h with pair := { h.pair with formEpoch := some p, formCkpt := false, formedRecv := none } }
    ((h.formPool).sendTwin (.joinAt p false)).wantAll

/-- An applied epoch as a number to compare: none is the lowest. -/
def appliedRank (e : Nat) : Nat := if e = noEpoch then 0 else e + 1

/-- HELLO (R401): the conditions in order. -/
def Head.helloIn (h : Head) (headId role log jsize asvMax asvCur : Nat) (pool : Word) (applied : Nat) (d : Dig) : Head :=
  let expected := h.role = rAlone || h.role = rForming || h.role = rKeeper || (h.role = rFenced && h.pair.fence.isNone)
  if expected = false then h
  else
    let h := { h with pair := { h.pair with twinMax := asvMax } }
    if headId = h.headId then (h.pairMismatch 1 h.headId headId).barred .sameHead
    else if pool ≠ h.pair.pool then
      ((h.wr SD_PAIR_ERR_MISMATCH 1).pairMismatch 2 h.pair.pool.toNat pool.toNat).backAlone
    else if log ≠ h.cxLog then ((h.wr CX_ERR_SIZEMIS 1).post 5 0x0505 2 h.cxLog log 0 0).barred .indexSize
    else if jsize ≠ h.rd CMT_JSIZE_GIB then
      ((h.wr SD_PAIR_ERR_MISMATCH 1).pairMismatch 4 (h.rd CMT_JSIZE_GIB) jsize).backAlone
    else if h.rd CMT_ASV_MAX < asvCur then
      ((h.wr CMT_ERR_ASVREJ 1).post 2 0x0229 2 (h.rd CMT_ASV_MAX) asvCur h.epoch 0).barred .asv
    else if asvMax < h.rd CMT_ASV_CUR then h.backAlone
    else if h.role = rKeeper then h.keepFor
    else if role = rKeeper ∨ h.role = rFenced ∨ h.cmt.stopped then h
    else if role = rJoining ∨ role = rFenced then h.keepFor
    else if appliedRank applied < appliedRank h.applied then h.keepFor
    else if appliedRank h.applied < appliedRank applied then h
    else if d ≠ h.cmt.digest then
      let h := h.post 9 0x0916 2 h.applied 0 0 0
      if h.headId = 0 then h.keepFor else h
    else h.nameP

/-- JOIN_AT of KIND 0 (R402): head 1 accepts P above its own EP + 64, and otherwise sends HELLO again. -/
def Head.formAt (h : Head) (p : Nat) : Head :=
  if h.role ≠ rForming ∨ h.headId ≠ 1 then h
  else if h.epoch + 64 < p ∧ h.is MER_STS_EPVALID then
    ({ h with pair := { h.pair with formEpoch := some p, formCkpt := false, formedRecv := none } }).wantAll
  else h.sendHello

/-- The first tick of P (R402): the newest committed and applied epochs and the digest start afresh. -/
def Head.formStart (h : Head) : Head :=
  match h.pair.formEpoch with
  | none => h
  | some p =>
    if h.role ≠ rForming ∨ h.epoch ≠ p then h
    else
      let h := ((h.wr CMT_LAST_EPOCH (p - 1)).wr CMT_APPLIED_EPOCH (p - 1)).wr SD_PAIR_EP_EPOCH p
      { h with cmt := { h.cmt with digest := 0, epochs := [], applyLog := [], twinDigests := [] } }

/-- ASVLIMIT (R78): the lower of the two heads' MAX values, as a software intent of this epoch. -/
def Head.issueLimit (h : Head) : Head :=
  let v := min (h.rd CMT_ASV_MAX) h.pair.twinMax
  (h.issueIntents true [BitVec.ofNat 512 (recOf [(0, 1, 0x0B), (24, 2, 2), (32, 8, v)])]).2

/-- The pair is formed (R402) once both formation checkpoints are complete. Head 0, which named P, issues ASVLIMIT. -/
def Head.formedCheck (h : Head) : Head :=
  match h.pair.formEpoch with
  | none => h
  | some p =>
    if h.role ≠ rForming ∨ h.pair.formCkpt = false ∨ h.pair.formedRecv ≠ some p then h
    else
      let h := ({ h with pair := { h.pair with formEpoch := none } }).setRole rPaired
      let h := h.post 9 0x0910 0 p (h.rd CMT_ASV_CUR) h.pair.pool.toNat 0
      let h := (h.dumpSpaceCheck).dumpCheck
      (if h.headId = 0 then h.issueLimit else h).acceptLanded

/-- This head's formation checkpoint is complete: FORMED goes to the twin (R402). -/
def Head.formCheckpoint (h : Head) (cut : Nat) : Head :=
  if h.role = rForming ∧ h.pair.formEpoch = some cut then
    (({ h with pair := { h.pair with formCkpt := true } }).sendTwin (.formed cut)).formedCheck
  else h

/-- FORMED (R402). -/
def Head.formedIn (h : Head) (p : Nat) : Head := ({ h with pair := { h.pair with formedRecv := some p } }).formedCheck

/-! ### Heartbeats (R381, R382, R403 to R405, R408) -/

/-- The heartbeat payload of this tick. -/
def Head.heartbeat (h : Head) : Heartbeat :=
  let echo := (h.sd.newest.map (·.tick)).getD 0
  let hold := if h.sd.newest.isSome then h.mer.tick - h.sd.newestTick else 0
  let g (i : Nat) : BitVec 32 := BitVec.ofNat 32 (h.ownGrants.getD i 0)
  { tick := h.mer.tick, seq := h.sd.hbSeq, echo := echo, hold := hold, src := Fin.ofNat 8 (h.rd MER_STS_SRC),
    epvalid := h.is MER_STS_EPVALID, dumpready := h.is PAR_STS_DUMPREADY, fenced := h.is FE_STS_FENCED,
    headId := h.headId = 1, active := BitVec.ofNat 6 (h.ownActive.foldl setBitN 0), grants := #v[g 0, g 1, g 2, g 3],
    last := h.last, sealed := h.rd CMT_SEALED_EPOCH }

/-- The tick is a heartbeat tick of a head (R44). -/
def heartbeatTick (headId tick : Nat) : Bool := tick % 500 = 250 * headId

/-- HEARTBEAT_SEND (R381, R322): at this head's heartbeat tick a HEARTBEAT goes on every ON group, once there is a link key (R369), and
a LEASE HEARTBEAT to every reached module; a keeper also reads the lease words of modules that the twin still holds (R408). -/
def Head.heartbeatSend (h : Head) : Head :=
  if heartbeatTick h.headId h.mer.tick = false then h
  else
    let on := (List.range 6).filter (fun g => h.rd (SD_G_STS_STATE.nth g) = uOn)
    let hb := h.heartbeat
    let h := if (h.roleKey 3).isNone then h else
      let h := on.foldl (fun (h : Head) g => h.emit (.chrt (.heartbeat g hb))) h
      { h with sd := { h.sd with hbSeq := h.sd.hbSeq + 1 } }
    let h := h.reachedPorts.foldl (fun (h : Head) p => h.issue p 0 (leaseOp 1 0 0 0 h.mer.tick) .heartbeat) h
    if h.role = rKeeper then
      h.linkedPorts.foldl (fun (h : Head) p =>
        if (h.port p).holder = h.twinSole ∧ h.reaches p = false then h.issue p 0 (leaseOp 0 0 0 0 0) .keeper else h) h
    else h

/-- TWINALIVE (R405): the twin's HB has changed on a reached module within the last three records. -/
def Head.aliveNote (h : Head) (p : Nat) : Head :=
  let hb := if h.headId = 0 then (h.port p).hb1 else (h.port p).hb0
  let l := (hb :: ((Tbl.find h.pair.aliveHb p).getD [])).take 3
  let h := { h with pair := { h.pair with aliveHb := Tbl.put h.pair.aliveHb p l } }
  let moved (e : Nat × List Nat) : Bool := h.reaches e.1 && e.2.any (fun x => x ≠ e.2.headD x)
  h.wr SD_PAIR_STS_TWINALIVE (h.pair.aliveHb.any moved).toNat

/-- What a new heartbeat of the twin says of its clock and its role (R42, R43, R404); `mean` is the round trip. Half of an odd
round trip rounds up, as R403 rounds it (assumption log 72, DESIGN CHOICE). -/
def Head.heartbeatClock (h : Head) (hb : Heartbeat) (mean : Nat) : Head :=
  let h := if h.mer.loaded ∨ hb.epvalid then h.twinTick (hb.tick + (mean + 1) / 2) hb.epvalid else h
  let h := h.twinExit
  if hb.fenced ∧ (h.role = rPaired ∨ h.role = rJoining) then h.suspect 3 else h

/-- HEARTBEAT_RECEIVE (R382, R374, R362, R39, R42, R43, R404): the first copy of a heartbeat counts; every copy is noted for its
group (R383). -/
def Head.heartbeatIn (h : Head) (g : Nat) (hb : Heartbeat) : Head :=
  let h := { h with sd := { h.sd with groupSeen := Tbl.put h.sd.groupSeen g hb.seq, groupMiss := Tbl.del h.sd.groupMiss g } }
  if h.pair.deaf ∨ h.sd.newest.any (fun n => decide (hb.seq ≤ n.seq ∧ hb.tick ≤ n.tick)) then h
  else
    let rtt := (h.mer.tick : Int) - hb.echo - hb.hold
    let l := if hb.echo = 0 then h.sd.rtt else (rtt.toNat :: h.sd.rtt).take 16
    let mean := if l = [] then 0 else l.foldl (· + ·) 0 / l.length
    let h := { h with sd := { h.sd with newest := some hb, newestTick := h.mer.tick, rtt := l } }
    let h := (h.wr SD_RTT_TICKS mean).wr SD_PAIR_STS_MISSED 0
    let h := (h.wr PAR_STS_TWINREADY hb.dumpready.toNat).syncActive
    (((h.showGates).dumpCheck).creditIn none (hb.grants.toList.map (·.toNat))).heartbeatClock hb mean

/-- The twin's heartbeats are awaited (R403): by a head that has a twin or is joining one, and by any other while the link is up. -/
def Head.watches (h : Head) : Bool :=
  h.role = rPaired || h.role = rJoining || (h.role = rKeeper && (h.pair.joinCut.isSome || h.pair.joinAt.isSome))
    || (h.is SD_STS_LINKUP && ! h.pair.deaf)

/-- PAIR_HEARTBEAT_MISS (R403): no copy of the twin's heartbeat has come by its deadline; the third consecutive miss makes the twin
suspect. -/
def Head.pairMiss (h : Head) : Head :=
  let d := h.rd MER_TWIN_DIFF
  let diff : Int := if 32768 ≤ d then (d : Int) - 65536 else d
  let sent : Int := (h.mer.tick : Int) - (h.rd SD_RTT_TICKS + 1) / 2 - h.rd SD_PAIR_CTL_HBSLACK + diff
  let due : Bool := decide (0 ≤ sent) && heartbeatTick (1 - h.headId) sent.toNat && h.sd.newest.all (fun n => decide ((n.tick : Int) < sent))
  if due = false ∨ h.watches = false then h
  else
    let n := min 63 (h.rd SD_PAIR_STS_MISSED + 1)
    let h := h.wr SD_PAIR_STS_MISSED n
    if n = 3 then h.suspect h.silentCause else h

/-- GROUP_HEARTBEAT_MISS (R383): the newest heartbeat has not come on a group 2 µs after its first copy; the third miss fails the
group. -/
def Head.groupMiss (h : Head) (g : Nat) : Head :=
  match h.sd.newest with
  | none => h
  | some n =>
    if h.rd (SD_G_STS_STATE.nth g) ≠ uOn ∨ Tbl.find h.sd.groupSeen g = some n.seq ∨ h.mer.tick < h.sd.newestTick + 50 then h
    else
      let k := (Tbl.find h.sd.groupMiss g).getD 0 + 1
      let h := { h with sd := { h.sd with groupSeen := Tbl.put h.sd.groupSeen g n.seq, groupMiss := Tbl.put h.sd.groupMiss g k } }
      if k = 3 then h.failGroup g 1 else h

/-! ### Rejoining (R413 to R415) -/

/-- Bytes of a range of memory are forgotten: they read as they do before anything is written. -/
def Head.forget (h : Head) (a n : Nat) : Head := { h with mem := h.mem.filter (fun c => decide (c.1 < a ∨ a + n ≤ c.1)) }

/-- A joiner discards its own metadata and journal (R413). -/
def Head.discardMeta (h : Head) : Head :=
  let h := h.sweepTables.foldl (fun (h : Head) t => h.forget t.2.1 (4096 * t.2.2)) h
  let h := { h with nss := [], pages := [], inflight := [], pendingIds := [], freedIds := [], liveIds := (0, 0) }
  let fb := { Fb.reset with consumed := h.fb.consumed, nonce := h.fb.nonce, modIds := h.fb.modIds, modAt := h.fb.modAt,
                            absentUntil := h.fb.absentUntil, unreach := h.fb.unreach, dump := h.fb.dump }
  { h with fb := fb, cmt := { Cmt.reset with lagHighArmed := h.cmt.lagHighArmed } }

/-- JOIN_OFFER (R413): the joiner discards what it has, loads the keeper's checkpoint and erases its dump rows (R280). -/
def Head.offerIn (h : Head) (cut root last : Nat) : Head :=
  if h.role ≠ rAlone ∧ h.role ≠ rForming ∧ ¬ (h.role = rFenced ∧ h.pair.fence.isNone) then h
  else
    let h := { h with pair := { h.pair with joinCut := some cut, joinAt := none, readySent := false, copied := 0, formEpoch := none,
                                            twinFailed := false } }
    let h := ((h.setRole rJoining).frontOpen).post 9 0x0917 1 cut last 0 0
    let h := h.discardMeta
    let h := match h.roleKey 4 with
      | none => h
      | some k =>
        match rootAt h.bandStrips k root with
        | none => h
        | some (r, gs) => (h.takeRoot root r gs false).recountSpares
    h.eraseDumpRows

/-- A joiner enters PAIRED once it has applied J − 1 and its dump rows are ready (R413). -/
def Head.joinedCheck (h : Head) : Head :=
  match h.pair.joinAt with
  | none => h
  | some j =>
    if h.role ≠ rJoining ∨ appliedRank h.applied < j ∨ h.is PAR_STS_DUMPREADY = false then h
    else
      let h := ({ h with pair := { h.pair with joinCut := none, joinAt := none } }).setRole rPaired
      let h := h.post 9 0x0918 0 j h.pair.copied 0 0
      ((h.recompute).dumpCheck).acceptLanded

/-- A joiner within 16 epochs of the keeper's CMT_LAST says so, once (R413). -/
def Head.joinReady (h : Head) : Head :=
  let keeper := (h.sd.newest.map (·.last)).getD noEpoch
  if h.role ≠ rJoining ∨ h.pair.readySent ∨ keeper = noEpoch ∨ h.applied = noEpoch ∨ h.applied + 16 < keeper then h
  else ({ h with pair := { h.pair with readySent := true } }).sendTwin (.joinReady h.applied h.cmt.digest)

/-- JOIN_COPY (R413): what the READs on connection 12 bring of the keeper's journal, the span of the next epoch at its offset and the
data-ring ranges that it names; the epoch is applied. -/
def Head.joinCopy (h : Head) (off : Nat) (span : List Byte) (data : List (Nat × List Byte)) : Head :=
  if h.role ≠ rJoining ∨ h.applied = noEpoch ∨ h.intentRing ≤ off ∨ h.intentRing < span.length
      ∨ h.pair.joinAt.any (fun j => decide (j ≤ h.applied + 1)) then h
  else
    let h := h.putRing off span
    let h := (data.filter (fun d => decide (d.1 + d.2.length ≤ h.dataRingSize))).foldl (fun (h : Head) d => h.put (h.ringAddr d.1) d.2) h
    let e := h.applied + 1
    match h.replayAt e off with
    | .span s rs refs =>
      let h := h.replayEpoch e s rs refs
      if h.applied ≠ e then h
      else ((({ h with pair := { h.pair with copied := h.pair.copied + 1 } }).joinReady).joinedCheck)
    | _ => h

/-- JOIN_READY (R413): on a matching digest the keeper names J; otherwise it abandons the join. -/
def Head.readyIn (h : Head) (a : Nat) (d : Dig) : Head :=
  if h.role ≠ rKeeper ∨ h.pair.joinCut.isNone ∨ h.pair.joinAt.isSome then h
  else
    let ok := (a = h.applied && d = h.cmt.digest) || (Tbl.find h.cmt.applyLog a).any (fun l => l.after = d)
      || (Tbl.find h.cmt.applyLog (a + 1)).any (fun l => l.before = d)
    if ok = false then h.abandonJoin 1
    else
      let j := h.epoch + 4
      let h := h.sendTwin (.joinAt j true)
      { h with pair := { h.pair with joinAt := some j, joinCut := none, joinWait := 0, twinFailed := false } }

/-- The keeper's first tick of J (R413): it is PAIRED, takes every module it holds to SHARED, and issues ASVLIMIT. -/
def Head.joinStart (h : Head) : Head :=
  match h.pair.joinAt with
  | none => h
  | some j =>
    if h.role ≠ rKeeper ∨ h.epoch ≠ j then h
    else
      let h := (h.wr SD_PAIR_EP_EPOCH j).setRole rPaired
      let h := h.reachedPorts.foldl (fun (h : Head) p =>
        if (h.port p).holder = h.ownSole then h.acquire_ p 1 .joinShared else h) h
      h.issueLimit

/-- JOIN_AT of KIND 1 (R413). -/
def Head.joinAtIn (h : Head) (j : Nat) : Head :=
  if h.role ≠ rJoining then h
  else (({ h with pair := { h.pair with joinAt := some j } }).wr SD_PAIR_EP_EPOCH j).joinedCheck

/-- Back-pressure during a join is counted at each boundary (R414). -/
def Head.joinPressure (h : Head) : Head :=
  let n := if h.pair.joinCut.isSome ∧ h.role = rKeeper ∧ h.is CMT_STS_BPJRN then h.pair.joinWait + 1 else 0
  { h with pair := { h.pair with joinWait := n } }

/-- JOIN_BACKPRESSURE_TIMEOUT (R414). -/
def Head.joinTimeout (h : Head) : Head :=
  if h.role = rKeeper ∧ h.pair.joinCut.isSome ∧ 65536 ≤ h.pair.joinWait then h.abandonJoin 0 else h

/-! ### Leaving (R416) -/

/-- SD_PAIR_CTL.LEAVE (R416): L is named, and the LEAVE gate of R342 is active until reset. -/
def Head.leaveWrite (h : Head) : Head :=
  if h.role = rPaired ∧ h.pair.leaveEpoch.isNone then
    ({ h.wr FE_STS_LEAVE 1 with pair := { h.pair with leaveEpoch := some (h.epoch + 2) } }).showGates
  else h.wr SD_PAIR_ERR_CFGERR 1

/-- LEAVE_SEND (R416): with every epoch below L committed and no credit held, the head closes its stripes and, once they are
durable, sends LEAVE and is LEFT. -/
def Head.leaveSend (h : Head) : Head :=
  match h.pair.leaveEpoch with
  | none => h
  | some l =>
    if h.role ≠ rPaired ∨ h.last = noEpoch ∨ h.last + 1 < l ∨ h.rd FE_ADMIT_CUR ≠ 0 then h
    else if h.fb.stripes = [] then
      let h := ((h.sendTwin (.leave l)).wr SD_PAIR_EP_EPOCH l).setRole rLeft
      (h.frontFence).abandonOps
    else (h.fb.stripes.filter (fun e => e.2.phase = .open_)).foldl (fun (h : Head) e => h.closeStripe e.1) h

/-- LEAVE (R416): the twin is declared failed without a bid, and every module goes from SHARED to SOLE. Its link is no longer in use. -/
def Head.leaveIn (h : Head) (l : Nat) : Head :=
  if h.role ≠ rPaired then h
  else
    let h := (h.wr SD_PAIR_EP_EPOCH l).post 9 0x091A 1 l 0 0 0
    let h := { h with pair := { h.pair with deaf := true, keeperOf := [] } }
    let h := (List.range 13).foldl (fun (h : Head) c => h.setConn c Conn.reset) h
    let h := { h.wr SD_STS_LINKUP 0 with sd := { h.sd with linkFormed := false },
                                         umb := { h.umb with ownNonce := none, twinNonce := none } }
    ((h.twinExit).becomeKeeper).wantAll

/-- SD_PAIR_CTL.CLAIM (R412). -/
def Head.claim (h : Head) : Head :=
  if h.role = rFenced ∧ h.is SD_STS_LINKFAIL ∧ h.pair.fence.isNone then h.startBid else h.wr SD_PAIR_ERR_CFGERR 1

/-! ### Synchronous replication (R420) -/

/-- A write of SD_SYNC (R420). -/
def Head.syncWrite (h : Head) (e : Nat) : Head :=
  if e < h.rd SD_SYNC_EPOCH ∨ h.last = noEpoch ∨ h.last < e then h.wr SD_PAIR_ERR_CFGERR 1
  else (h.wr SD_SYNC_EPOCH e).releaseWrites

/-- A write of a SD_SYNCGRP register (R420). -/
def Head.syncGroups (h : Head) (i : Nat) (v : Nat) : Head := (h.wr (SD_SYNCGRP_MASK.nth i) v).releaseWrites

end Sys2Proof.Machine
end

