-- ==== Sys2Proof/Machine/Upkeep.lean ====
section
/-! DEFINITION. The commands of Fogbank's and redundancy's own work: stripes, victims, erases, patrol, checkpoints, restore, rebuild and
reshape (spec/09_fogbank_flash.md, R221 to R250; spec/10_redundancy.md, R261 to R282). -/
namespace Sys2Proof.Machine
open Reg

/-- STRIPE_CLOSE_TIMEOUT (R221). -/
def execStripeCloseTimeout (stripe : BitVec 32) (s : State) : Host.Outcome State Fault Refusal :=
  s.apply (fun h => h.closeTimeout stripe.toNat)

/-- STRIPE_PROGRAM (R221). -/
def execStripeProgram (stripe : BitVec 32) (s : State) : Host.Outcome State Fault Refusal :=
  s.apply (fun h => h.programStripe stripe.toNat)

/-- VICTIM_SELECT (R232 to R235, R276). -/
def execVictimSelect (kind : VictimKind) (s : State) : Host.Outcome State Fault Refusal := s.apply (fun h => h.victimSelect kind)

/-- BAND_ERASE (R238). -/
def execBandErase (band : BitVec 32) (s : State) : Host.Outcome State Fault Refusal := 
  s.apply (fun h => if h.mayErase band.toNat then (h.bandErase band.toNat).modSettle else h)

/-- PATROL_PASS_START (R240). -/
def execPatrolPassStart (s : State) : Host.Outcome State Fault Refusal := s.apply Head.patrolStart

/-- PATROL_BEHIND (R240). -/
def execPatrolBehind (s : State) : Host.Outcome State Fault Refusal := s.apply Head.patrolBehind

/-- CHECKPOINT_BEGIN (R248). -/
def execCheckpointBegin (s : State) : Host.Outcome State Fault Refusal := s.apply Head.ckptBegin

/-- A completed checkpoint, and what pairing waits for it for: FORMED, and the offer of a join (R402, R413). -/
def Head.ckptEnd (h : Head) : Head :=
  match h.fb.ckpt with
  | none => h
  | some c =>
    let h := (h.ckptAdvance).ckptComplete
    if h.fb.ckpt.isSome then h else (h.formCheckpoint c.cut).offerJoin

/-- CHECKPOINT_COMPLETE (R248). -/
def execCheckpointComplete (s : State) : Host.Outcome State Fault Refusal := s.apply Head.ckptEnd

/-- CKPT_LATE (R249). -/
def execCkptLate (s : State) : Host.Outcome State Fault Refusal := s.apply Head.ckptLate

/-- RESTORE (R250). -/
def execRestore (s : State) : Host.Outcome State Fault Refusal := s.apply Head.restore

/-- MODULE_ABSENT_TIMEOUT (R261). -/
def execModuleAbsentTimeout (pos : Fin 32) (s : State) : Host.Outcome State Fault Refusal := s.apply (fun h => h.absentTimeout pos.val)

/-- REBUILD_STRIPE (R269). -/
def execRebuildStripe (band : BitVec 32) (pos : Fin 32) (bad : BitVec 32) (s : State) : Host.Outcome State Fault Refusal :=
  s.apply (fun h => h.rebuildStep band.toNat pos.val bad.toNat)

/-- RESHAPE_STEP_ISSUE (R276). -/
def execReshapeStepIssue (s : State) : Host.Outcome State Fault Refusal := s.apply Head.reshapeStep

end Sys2Proof.Machine
end

