-- ==== Sys2Proof/Machine/JobRows.lean ====
section
/-! DEFINITION. The posting instructions, QPOST, and the ends of jobs as commands (spec/06_terdan_stream_instructions.md, R137, R139,
R146, R147, R168; spec/12_module_link.md, R309, R310). -/
namespace Sys2Proof.Machine
open Reg

/-! ### The posting instructions (R137, R139, R173) -/

/-- A posting instruction with its operands: the ticket's register, the register of the job block's address, and the handles. -/
def State.postJob (s : State) (x : Ctx) (may : Level → Bool) (kind : JobKind) (rd rs : Fin 32) (inp out : Option (Fin 8)) :
    Host.Outcome State Fault Refusal :=
  s.apply (fun h => h.instr x may (fun h k c =>
    let hr (i : Option (Fin 8)) : Handle := match i with
      | some i => c.hr i
      | none => .empty
    h.post_ k c kind rd (c.gr rs).toNat (hr inp) (hr out) (postHook kind)))

/-- CHUNK (R150), at level C only. -/
def execChunk (x : Ctx) (rd rs : Fin 32) (ha hb : Fin 8) (s : State) : Host.Outcome State Fault Refusal :=
  s.postJob x onlyC .chunk rd rs (some ha) (some hb)

/-- DIGEST (R151). -/
def execDigest (x : Ctx) (rd rs : Fin 32) (ha hb : Fin 8) (s : State) : Host.Outcome State Fault Refusal :=
  s.postJob x anyLevel .digest rd rs (some ha) (some hb)

/-- DGSAVE (R153). -/
def execDgsave (x : Ctx) (rd rs : Fin 32) (hb : Fin 8) (s : State) : Host.Outcome State Fault Refusal :=
  s.postJob x anyLevel .dgsave rd rs none (some hb)

/-- DGLOAD (R153). -/
def execDgload (x : Ctx) (rd rs : Fin 32) (ha : Fin 8) (s : State) : Host.Outcome State Fault Refusal :=
  s.postJob x anyLevel .dgload rd rs (some ha) none

/-- PACK (R154). -/
def execPack (x : Ctx) (rd rs : Fin 32) (ha hb : Fin 8) (s : State) : Host.Outcome State Fault Refusal :=
  s.postJob x anyLevel .pack rd rs (some ha) (some hb)

/-- UNPACK (R155). -/
def execUnpack (x : Ctx) (rd rs : Fin 32) (ha hb : Fin 8) (s : State) : Host.Outcome State Fault Refusal :=
  s.postJob x anyLevel .unpack rd rs (some ha) (some hb)

/-- ENCX (R156). -/
def execEncx (x : Ctx) (rd rs : Fin 32) (ha hb : Fin 8) (s : State) : Host.Outcome State Fault Refusal :=
  s.postJob x anyLevel .encx rd rs (some ha) (some hb)

/-- DECX (R156). -/
def execDecx (x : Ctx) (rd rs : Fin 32) (ha hb : Fin 8) (s : State) : Host.Outcome State Fault Refusal :=
  s.postJob x anyLevel .decx rd rs (some ha) (some hb)

/-- CTXSV (R158). -/
def execCtxsv (x : Ctx) (rd rs : Fin 32) (hb : Fin 8) (s : State) : Host.Outcome State Fault Refusal :=
  s.postJob x anyLevel .ctxsv rd rs none (some hb)

/-- CTXLD (R158). -/
def execCtxld (x : Ctx) (rd rs : Fin 32) (ha : Fin 8) (s : State) : Host.Outcome State Fault Refusal :=
  s.postJob x anyLevel .ctxld rd rs (some ha) none

/-- PARGEN (R159). -/
def execPargen (x : Ctx) (rd rs : Fin 32) (ha hb : Fin 8) (s : State) : Host.Outcome State Fault Refusal :=
  s.postJob x anyLevel .pargen rd rs (some ha) (some hb)

/-- PARFIX (R159). -/
def execParfix (x : Ctx) (rd rs : Fin 32) (ha hb : Fin 8) (s : State) : Host.Outcome State Fault Refusal :=
  s.postJob x anyLevel .parfix rd rs (some ha) (some hb)

/-- LOOKUP.FP (R161). -/
def execLookupFp (x : Ctx) (rd rs : Fin 32) (ha hb : Fin 8) (s : State) : Host.Outcome State Fault Refusal :=
  s.postJob x anyLevel .lookupFp rd rs (some ha) (some hb)

/-- LOOKUP.MAP (R162). -/
def execLookupMap (x : Ctx) (rd rs : Fin 32) (hb : Fin 8) (s : State) : Host.Outcome State Fault Refusal :=
  s.postJob x anyLevel .lookupMap rd rs none (some hb)

/-- LOOKUP.KEY (R162). -/
def execLookupKey (x : Ctx) (rd rs : Fin 32) (ha hb : Fin 8) (s : State) : Host.Outcome State Fault Refusal :=
  s.postJob x anyLevel .lookupKey rd rs (some ha) (some hb)

/-- LOOKUP.REC (R162). -/
def execLookupRec (x : Ctx) (rd rs : Fin 32) (hb : Fin 8) (s : State) : Host.Outcome State Fault Refusal :=
  s.postJob x anyLevel .lookupRec rd rs none (some hb)

/-- MREAD (R163). -/
def execMread (x : Ctx) (rd rs : Fin 32) (hb : Fin 8) (s : State) : Host.Outcome State Fault Refusal :=
  s.postJob x anyLevel .mread rd rs none (some hb)

/-- MPROG (R164), at level C only. -/
def execMprog (x : Ctx) (rd rs : Fin 32) (ha : Fin 8) (s : State) : Host.Outcome State Fault Refusal :=
  s.postJob x onlyC .mprog rd rs (some ha) none

/-! ### The ends of jobs -/

/-- JOB_END (R143): `bad` names the strip positions whose inner code fails in a media read. -/
def execJobEnd (job : Nat) (bad : BitVec 32) (s : State) : Host.Outcome State Fault Refusal := s.apply (fun h => h.jobEnd job bad.toNat)

/-- JOB_PREEMPT (R146). -/
def execJobPreempt (job : Nat) (s : State) : Host.Outcome State Fault Refusal := s.apply (fun h => h.preempt job)

/-- ACC_FAILED (R147). -/
def execAccFailed (cluster : Fin 24) (a : Fin 12) (s : State) : Host.Outcome State Fault Refusal :=
  s.apply (fun h => h.accFailed cluster a)

/-! ### Software queues of the modules (R309 to R311) -/

/-- An operation entry from its 64 bytes. -/
def opOf (v : Nat) : ModOp :=
  { opc := BitVec.ofNat 8 (recAt v 0 1), flags := BitVec.ofNat 8 (recAt v 1 1), pblk := BitVec.ofNat 32 (recAt v 4 4),
    slot := BitVec.ofNat 16 (recAt v 8 2), level := BitVec.ofNat 8 (recAt v 10 1), subop := BitVec.ofNat 8 (recAt v 11 1),
    offset := BitVec.ofNat 32 (recAt v 12 4), len := BitVec.ofNat 32 (recAt v 16 4),
    rest := BitVec.ofNat 80 (recAt v 20 4 + 2 ^ 32 * recAt v 50 6), dptr := BitVec.ofNat 64 (recAt v 24 8),
    mptr := BitVec.ofNat 64 (recAt v 32 8), gen := BitVec.ofNat 64 (recAt v 40 8), exph := BitVec.ofNat 8 (recAt v 48 1),
    newh := BitVec.ofNat 8 (recAt v 49 1), hbval := BitVec.ofNat 64 (recAt v 56 8) }

/-- DPTR and MPTR lie in DRAM or Billow and, at level S, in the poster's windows with W permission (R309). -/
def Head.swPostOk (h : Head) (o : Origin) (l : Level) (v : Nat) : Bool :=
  let op := opOf v
  let ok (a n : Nat) : Bool := h.inMemory a n && (l = .v || h.granted o a n .store)
  ((op.dptr = 0 && op.len = 0) || ok op.dptr.toNat op.len.toNat) && (op.mptr = 0 || ok op.mptr.toNat 64)

/-- The queue number of software queue `q` of a port. -/
def swNumber (p q : Nat) : Nat := 0x8000 + 128 * p + q

/-- The 16 bytes of a completion in a software ring; the phase bit is 1 in the first pass (assumption log 21, DESIGN CHOICE). -/
def swCompletion (cid count status corrmax level bytes : Nat) : Nat :=
  recOf [(0, 2, cid), (2, 2, count % 64), (4, 2, status), (6, 1, corrmax), (7, 1, level), (8, 4, bytes),
    (15, 1, 1 - (count - 1) / 64 % 2)]

/-- Completions are written in posting order as far as they are there (R310); `fuel` bounds them. -/
def Head.swDrain (h : Head) (p q : Nat) : Nat → Head
  | 0 => h
  | fuel + 1 =>
    let n := swNumber p q
    match (h.queue n).waiting with
    | [] => h
    | e :: t =>
      match e.cpl with
      | none => h
      | some v =>
        let h := h.setQueue n { h.queue n with waiting := t }
        let ring := h.rd (ML_P_SWCQ_BASE.nth p) * 65536
        ((h.store (ring + 1024 * (q - 64) + 16 * ((e.count - 1) % 64)) 16 v).queueDone n).swDrain p q fuel

/-- The completion of an entry is known. -/
def Head.swComplete (h : Head) (p q count v : Nat) : Head :=
  let n := swNumber p q
  let x := h.queue n
  let h := h.setQueue n { x with waiting := x.waiting.map (fun (e : QEntry) => if e.count = count then { e with cpl := some v } else e) }
  h.swDrain p q 64

/-- An entry is posted on a software queue: sent, or completed INVALID by the controller where it fails its check or the port
cannot send it (R309, assumption log 21, DESIGN CHOICE). -/
def Head.swPost (h : Head) (o : Origin) (l : Level) (p q : Nat) (body : Rec64) : Nat × Head :=
  let ok := h.swPostOk o l body.toNat
  let (n, h) := h.enqueue (swNumber p q) ok body
  let next := (h.port p).nextCid
  let h' := if ok then h.issue p q (opOf body.toNat) (.software q n) else h
  if (h'.port p).nextCid = next then (n, h'.swComplete p q n (swCompletion 0 n 1 0 0 0)) else (n, h')

/-! ### QPOST (R168) -/

/-- The depth of a queue (R309, R389), none where the spec gives none. -/
def queueDepth (q : Nat) : Option Nat := if 0x8000 ≤ q ∧ q < 0x9400 then some 64 else none

/-- QPOST by a context: the posted count, or the status. -/
def Head.qpost (h : Head) (o : Origin) (l : Level) (q : Nat) (body : Rec64) : Except Nat Nat × Head :=
  let hw : Bool := 0x8000 ≤ q && q < 0x9000 && (q - 0x8000) % 128 < 64
  let x := h.queue q
  if h.queueThere q = false ∨ hw then (.error rsBadQueue, h)
  else if (queueDepth q).any (fun d => decide (d ≤ x.posted - x.done)) then (.error rsQueueFull, h)
  else
    let (n, h) :=
      if q < 0x8000 then
        let v := body.toNat
        let a := recAt v 16 8
        h.enqueue q (recAt v 0 1 ≠ 1 || l = .v || h.granted o a (recAt v 12 4) .load) body
      else if q < 0x9000 then h.swPost o l ((q - 0x8000) / 128) ((q - 0x8000) % 128) body
      else if q < 0x9400 then h.sqPost o l (q - 0x9000) body
      else h.postBackground (q - 0xFF00) body
    (.ok n, h)

/-- QPOST (R168), at levels S and V. -/
def execQpost (x : Ctx) (rd rs1 rs2 : Fin 32) (ha : Fin 8) (s : State) : Host.Outcome State Fault Refusal :=
  s.apply (fun h => h.instr x notC (fun h k c =>
    let off := (c.gr rs2).toNat
    match h.readRecord (c.hr ha) off with
    | (.error e, h) => h.except k e .none
    | (.ok b, h) =>
      let o : Origin := match x with
        | .core n => .core n
        | .stream cl en cx => .engine cl en cx
      match h.qpost o c.level (c.gr rs1).toNat (rec64 b) with
      | (.ok n, h) => h.result k c rd (BitVec.ofNat 64 n)
      | (.error st, h) => h.result k c rd (failedTicket st)))

end Sys2Proof.Machine
end

