-- ==== Sys2Proof/Machine/Loader.lean ====
section
/-! DEFINITION. The loader: the checks of a loadable object, its relocations and its placement
(spec/04_terdan_programming_model.md, R114, R115; spec/05_terdan_base_instructions.md, R124). -/
namespace Sys2Proof.Machine
open Reg

/-- A section entry of an object. -/
structure Section where
  type : Nat
  off : Nat
  load : Nat
  size : Nat
  clean : Bool
  deriving DecidableEq, Repr

/-- The sections of an object. -/
def sectionsOf (o : List Byte) : List Section :=
  (List.range (leAt o 16 2)).map (fun i =>
    let b := (o.drop (64 + 32 * i)).take 32
    { type := leAt b 0 1, off := leAt b 8 8, load := leAt b 16 8, size := leAt b 24 8, clean := leAt b 1 7 = 0 })

/-- A section holds bytes that are loaded. -/
def Section.loaded (s : Section) : Bool := s.type = 1 || s.type = 2 || s.type = 3 || s.type = 4

/-- The bytes of a section, zeros for ZERO. -/
def Section.bytes (s : Section) (o : List Byte) : List Byte :=
  if s.type = 4 then List.replicate s.size 0 else (o.drop s.off).take s.size

/-- The bytes of all sections of a type. -/
def sectionBytes (o : List Byte) (ss : List Section) (type : Nat) : List Byte :=
  (ss.filter (fun (s : Section) => s.type = type)).flatMap (fun (s : Section) => s.bytes o)

/-- Records of a size out of bytes. -/
def recordsAt (n : Nat) (b : List Byte) : List (List Byte) :=
  (List.range (b.length / n)).map (fun i => (b.drop (n * i)).take n)

/-- The entries of an object as (OFFSET, STACK, INDEX, reserved bytes zero). -/
def entriesOf (o : List Byte) (ss : List Section) : List (Nat × Nat × Nat × Bool) :=
  (recordsAt 32 (sectionBytes o ss 5)).map (fun e => (leAt e 16 4, leAt e 20 4, leAt e 24 2, leAt e 26 6 = 0))

/-- The relocations of an object as (OFFSET, KIND, SECT, reserved bytes zero). -/
def relocsOf (o : List Byte) (ss : List Section) : List (Nat × Nat × Nat × Bool) :=
  (recordsAt 8 (sectionBytes o ss 6)).map (fun r => (leAt r 0 4, leAt r 4 1, leAt r 5 1, leAt r 6 2 = 0))

/-- The bytes of the region a section of an object of a kind is loaded into: the code and read-only regions of R92, or the window. -/
def regionSize (kind window : Nat) (s : Section) : Nat := if kind = 1 then (if s.type = 1 then 0x18000 else 0x8000) else window

/-- Two loaded sections of an object share bytes of their region. -/
def sectionsMeet (kind : Nat) (a b : Section) : Bool :=
  (kind ≠ 1 || a.type = b.type) && decide (a.load < b.load + b.size) && decide (b.load < a.load + a.size)

/-- Some pair of a list is in a relation. -/
def anyPair {α : Type} (f : α → α → Bool) : List α → Bool
  | [] => false
  | a :: t => t.any (f a) || anyPair f t

/-- An object is one by its header: magic, version, length and CRC (reason 1 of R114 where it is not). -/
def objectIntact (o : List Byte) : Bool :=
  decide (64 ≤ o.length ∧ leAt o 0 4 = 0x4A424F54 ∧ leAt o 4 2 = 1 ∧ leAt o 24 8 = o.length)
    && decide ((crc64 (o.take 56 ++ List.replicate 8 0 ++ o.drop 64)).toNat = leAt o 56 8)

/-- The reasons 2 to 6 of R114 in their order, none where an object is in order. `window` is the size of the window a control image
is loaded into; ranges of the format that no reason names count as reason 2. -/
def objectBodyFault (o : List Byte) (window : Nat) : Option Nat :=
  let kind := leAt o 6 1
  let ss := sectionsOf o
  let of (t : Nat) : Nat := (ss.filter (fun (s : Section) => s.type = t)).length
  let inCode (off : Nat) : Bool :=
    ss.any (fun (s : Section) => s.type = 1 && decide (s.load ≤ off) && decide (off < s.load + s.size))
  let es := entriesOf o ss
  if kind = 0 ∨ 3 < kind ∨ leAt o 7 1 ≠ 0 ∨ leAt o 20 4 ≠ 0 ∨ leAt o 32 24 ≠ 0 ∨ (kind ≠ 1 ∧ leAt o 8 4 ≠ 0)
      ∨ leAt o 16 2 = 0 ∨ 64 < leAt o 16 2 ∨ 1024 < leAt o 18 2 ∨ o.length < 64 + 32 * leAt o 16 2
      ∨ ss.any (fun (s : Section) => ! s.clean || s.type = 0 || decide (6 < s.type) || (s.type = 4 && s.off ≠ 0)
          || s.size % (if s.type = 1 then 4 else if s.type = 5 then 32 else 8) ≠ 0)
      ∨ es.any (fun e => ! e.2.2.2) ∨ es.length ≠ leAt o 18 2 ∨ (relocsOf o ss).any (fun r => ! r.2.2.2) then some 2
  else if ss.any (fun (s : Section) => (s.type ≠ 4 && decide (o.length < s.off + s.size))
        || (s.loaded && decide (regionSize kind window s < s.load + s.size)))
      ∨ anyPair (sectionsMeet kind) (ss.filter Section.loaded) then some 3
  else if kind = 1 ∧ (0 < of 3 ∨ 0 < of 4 ∨ 1 < of 1 ∨ 1 < of 2 ∨ 1 < of 5 ∨ 1 < of 6) then some 4
  else if es.any (fun e => ! inCode e.1 || e.1 % 4 ≠ 0 || (kind = 1 && decide (12288 < e.2.1)))
      ∨ anyPair (fun a b => a.2.2.1 = b.2.2.1) es then some 5
  else if (relocsOf o ss).any (fun r =>
      match ss[r.2.2.1]? with
      | none => true
      | some s => ! s.loaded || r.2.1 = 0 || decide (3 < r.2.1) || decide (s.size < r.1 + (if r.2.1 = 1 then 8 else 4))) then some 6
  else none

/-- The reasons 1 to 6 of R114 in their order, none where an object is in order. -/
def objectFault (o : List Byte) (window : Nat) : Option Nat := if objectIntact o then objectBodyFault o window else some 1

/-- One relocation of a section's bytes (R124). -/
def relocate (base : Nat) (b : List Byte) (r : Nat × Nat × Nat × Bool) : List Byte :=
  let n := if r.2.1 = 1 then 8 else 2
  let add := if r.2.1 = 1 then base else if r.2.1 = 2 then bitsAt base 16 16 else bitsAt base 0 16
  b.take r.1 ++ toBytes n (leAt b r.1 n + add) ++ b.drop (r.1 + n)

/-- The loaded sections of an object with their bytes, relocated. -/
def placedSections (o : List Byte) (base : Nat) : List (Section × List Byte) :=
  let ss := sectionsOf o
  let rs := relocsOf o ss
  ((List.range ss.length).zip ss).filterMap (fun (x : Nat × Section) =>
    if x.2.loaded then
      some (x.2, (rs.filter (fun r => r.2.2.1 = x.1)).foldl (relocate base) (x.2.bytes o))
    else none)

/-- The bytes of a region with a section placed at its offset. -/
def inRegion (l : List (Section × List Byte)) (type : Nat) : List Byte :=
  match l.find? (fun p => p.1.type = type) with
  | some p => List.replicate p.1.load 0 ++ p.2
  | none => []

/-- The target is a cluster: libraries go there, and nothing else does. -/
def isCluster (t : LoadTarget) : Bool :=
  match t with
  | .cluster _ => true
  | .window .. => false

/-- LOAD_REJECT (R114): the first reason of R114 that holds. -/
def Head.loadFault (h : Head) (level : Level) (target : LoadTarget) (o : List Byte) : Option Nat :=
  let kind := leAt o 6 1
  let window := match target with
    | .cluster _ => 0
    | .window _ size => size.toNat
  match objectFault o window with
  | some r => some r
  | none =>
    if isCluster target ≠ (kind = 1 : Bool) then some 3
    else if leAt o 14 2 < h.rd CMT_ASV_CUR ∨ h.rd CMT_ASV_MAX < leAt o 12 2 then some 7
    else match target with
      | .cluster n => if h.rd (CORE_CL_STS_STATE.nth n) ≠ 0 then some 8 else none
      | .window .. => if kind = 3 ∧ level ≠ .v then some 8 else none

/-- An object is placed: a library in every engine of the cluster that is not retired (R115), a control image in its window. -/
def Head.placeObject (h : Head) (target : LoadTarget) (o : List Byte) : Head :=
  match target with
  | .cluster n =>
    let l := placedSections o localBase
    let es := ((entriesOf o (sectionsOf o)).map (fun e => (e.2.2.1, e.1)))
    let code := inRegion l 1
    let rodata := inRegion l 2
    let lib : Library := { libid := leAt o 8 4, code := code, rodata := rodata, entries := es }
    let h := { h with libs := Tbl.put h.libs n lib }
    let bytes := code ++ List.replicate (0x18000 - code.length) 0 ++ rodata
    let h := (List.range 9).foldl (fun (h : Head) e =>
      if bitAt (h.rd (CORE_CL_STS_RETIRED.nth n)) e then h else h.put (localKey (32 + 9 * n + e) 0) bytes) h
    h.wr (CORE_CL_STS_LIBID.nth n) (leAt o 8 4)
  | .window base _ => (placedSections o base.toNat).foldl (fun (h : Head) p => h.put (base.toNat + p.1.load) p.2) h

/-- OBJECT_LOAD (R114, R115). -/
def Head.loadObject (h : Head) (level : Level) (target : LoadTarget) (o : List Byte) : Head :=
  match h.loadFault level target o with
  | some r =>
    let cl := match target with
      | .cluster n => n.val
      | .window .. => 0xFF
    h.post 3 0x0306 2 r (leAt o 6 1) (leAt o 8 4) cl
  | none => h.placeObject target o

/-- OBJECT_LOAD (R114, R115). -/
def execObjectLoad (level : Level) (target : LoadTarget) (object : List Byte) (s : State) : Host.Outcome State Fault Refusal :=
  s.apply (fun h => h.loadObject level target object)

end Sys2Proof.Machine
end

