-- ==== Sys2Proof/Machine/Boot.lean ====
section
/-! DEFINITION. Signature blocks, manifests, the check of a set, activation records and the choice of the slot to boot
(spec/18_platform.md, R485 to R501). -/
namespace Sys2Proof.Machine
open Reg

/-! ### Signatures (R491, R492) -/

/-- The trusted hash of a key index of a signer that is not revoked: 0 Dorbeyr, 1 OEM. -/
def Head.trustedHash (h : Head) (signer idx : Nat) : Option (List Byte) :=
  if signer = 0 then
    (if bitAt h.plt.patchMask idx || bitAt h.plt.fuses.dorbeyrRevoked idx then none else some (Config.dorbeyrKeyHash idx))
  else if bitAt h.plt.fuses.oemRevoked idx then none else Tbl.find h.plt.fuses.oemHash idx

/-- Every byte is zero. -/
def allZero (b : List Byte) : Bool := b.all (· = 0)

/-- A signature block verifies over a message (R491, R492). -/
def Head.sigOk (h : Head) (b msg : List Byte) : Bool :=
  let signer := leAt b 5 1
  let idx := leAt b 6 1
  let ec := (b.drop 56).take 97
  let ml := (b.drop 256).take 2592
  b.length = 7680 && leAt b 0 4 = 0x4B4C4253 && leAt b 4 1 = 1 && decide (signer ≤ 1) && decide (idx ≤ 3)
    && leAt b 7 1 = 0 && allZero ((b.drop 153).take 7) && allZero (b.drop 7475)
    && (b.drop 8).take 48 = sha384 msg
    && Config.ecdsaVerify ec msg ((b.drop 160).take 96)
    && Config.mldsaVerify ml ((b.drop 8).take 48) ((b.drop 2848).take 4627)
    && h.trustedHash signer idx = some (sha384 (ec ++ ml))

/-! ### Sets (R493, R494) -/

/-- The bytes of an image slot. -/
def slotSize : Nat := 184 * 2 ^ 20

/-- The flash offset of an image slot. -/
def slotBase (slot : Nat) : Nat := if slot = 0 then 0x09000000 else 0x14800000

/-- Reads of a set: an offset within its slot and a length. -/
abbrev SetRead := Nat → Nat → List Byte

/-- A slot of a device. -/
def Head.slotRead (h : Head) (slot dev : Nat) : SetRead := fun a n => h.flashBytes dev (slotBase slot + a) n

/-- The set at the start of Billow (R501). -/
def Head.billowRead (h : Head) : SetRead := fun a n => h.bytes (billowBase + a) n

/-- A component of a manifest. -/
structure Component where
  index : Nat
  entry : List Byte
  kind : Nat
  signer : Nat
  off : Nat
  len : Nat
  sig : Nat
  deriving DecidableEq, Repr

/-- The components of a manifest. -/
def componentsOf (rd : SetRead) : List Component :=
  (List.range (leAt (rd 0 64) 6 2)).map (fun i =>
    let e := rd (64 + 128 * i) 128
    { index := i, entry := e, kind := leAt e 0 1, signer := leAt e 1 1, off := leAt e 8 8, len := leAt e 16 8, sig := leAt e 80 8 })

/-- The manifest with its signature block. -/
def setManifest (rd : SetRead) : List Byte := rd 0 (64 + 128 * leAt (rd 0 64) 6 2 + 7680)

/-- The set version of a manifest. -/
def setVersion (rd : SetRead) : Nat := leAt (rd 0 64) 8 8

/-- SECVER of a manifest. -/
def setSecver (rd : SetRead) : Nat := leAt (rd 0 64) 16 4

/-- An OEM hash is fused. -/
def Head.oemFused (h : Head) : Bool := ! h.plt.fuses.oemHash.isEmpty

/-- The manifest itself is in order (R494, reason 1). A retired part runs Dorbeyr's images alone (R476). -/
def Head.manifestOk (h : Head) (rd : SetRead) : Bool :=
  let b := rd 0 64
  let n := leAt b 6 2
  let body := 64 + 128 * n
  let sig := rd body 7680
  leAt b 0 4 = 0x464D4244 && leAt b 4 2 = 1 && decide (1 ≤ n) && decide (n ≤ 64) && leAt b 20 4 = 0 && allZero (b.drop 32)
    && h.sigOk sig (rd 0 body) && (if h.plt.fuses.retired then leAt sig 5 1 = 0 else ! (leAt sig 5 1 = 0 && h.oemFused))

/-- R494, reason 3: who signed a component. -/
def Head.signerWrong (h : Head) (rd : SetRead) (c : Component) : Bool :=
  if c.kind = 1 ∨ c.kind = 5 then
    let sig := rd c.sig 7680
    c.signer = 1 || ! (h.sigOk sig (c.entry.take 80) && leAt sig 5 1 = 0)
  else decide (2 ≤ c.kind) && decide (c.kind ≤ 4) && (if h.plt.fuses.retired then c.signer ≠ 0 else c.signer = 0 && h.oemFused)

/-- The check of a set (R494): the first reason with the index of its component, none where the set passes. -/
def Head.checkSet (h : Head) (rd : SetRead) : Option (Nat × Nat) :=
  let cs := componentsOf rd
  let total := leAt (rd 0 64) 24 8
  let first (f : Component → Bool) (r : Nat) : Option (Nat × Nat) := (cs.find? f).map (fun (c : Component) => (r, c.index))
  let of (k : Nat) : Nat := (cs.filter (fun (c : Component) => c.kind = k)).length
  if h.manifestOk rd = false then some (1, 0)
  else (first (fun c => decide (slotSize < c.off + c.len) || decide (total < c.off + c.len)
          || decide ((c.entry.drop 32).take 48 ≠ sha384 (rd c.off c.len))) 2)
    <|> (first (h.signerWrong rd) 3)
    <|> (if of 1 ≠ 1 ∨ of 2 = 0 then some (4, 0) else none)
    <|> (if setSecver rd < h.plt.fuses.secver then some (5, 0) else none)
    <|> (first (fun c => decide (1 ≤ c.kind) && decide (c.kind ≤ 3) && (objectFault (rd c.off c.len) (2 ^ 48)).isSome) 6)

/-! ### Activation records (R496) -/

/-- An activation record. -/
structure ActRec where
  slot : Nat
  state : Nat
  seq : Nat
  version : Nat
  deriving DecidableEq, Repr

/-- A record from its 64 bytes, none where it is not valid. -/
def parseAct (b : List Byte) : Option ActRec :=
  if leAt b 0 4 ≠ 0x56544341 ∨ leAt b 4 1 ≠ 1 ∨ 1 < leAt b 5 1 ∨ leAt b 6 1 = 0 ∨ 4 < leAt b 6 1 ∨ leAt b 7 1 ≠ 0
      ∨ allZero ((b.drop 32).take 24) = false ∨ (crc64 (b.take 56)).toNat ≠ leAt b 56 8 then none
  else some { slot := leAt b 5 1, state := leAt b 6 1, seq := leAt b 8 8, version := leAt b 16 8 }

/-- Where a half of the activation records begins. -/
def halfBase (half : Nat) : Nat := 0x10000 + half * 0x8000

/-- The valid records of a half of a device. -/
def Head.actHalf (h : Head) (dev half : Nat) : List ActRec :=
  (List.range 512).filterMap (fun i => parseAct (h.flashBytes dev (halfBase half + 64 * i) 64))

/-- The record of a higher sequence. -/
def newerAct (a b : Option ActRec) : Option ActRec :=
  match a, b with
  | some x, some y => if x.seq < y.seq then b else a
  | none, _ => b
  | _, none => a

/-- The newest of a list of records. -/
def newestAct (l : List ActRec) : Option ActRec := l.foldl (fun b r => newerAct b (some r)) none

/-- Every valid record on either device. -/
def Head.actRecords (h : Head) : List ActRec := h.actHalf 0 0 ++ h.actHalf 0 1 ++ h.actHalf 1 0 ++ h.actHalf 1 1

/-- A record goes to the next erased position of the half in use; with that half full the other is erased and taken. -/
def Head.actProgram (h : Head) (dev : Nat) (b : List Byte) : Head :=
  let half : Nat := match newestAct (h.actHalf dev 0), newestAct (h.actHalf dev 1) with
    | some x, some y => if x.seq < y.seq then 1 else 0
    | none, some _ => 1
    | _, none => 0
  match (List.range 512).find? (fun i => (h.flashBytes dev (halfBase half + 64 * i) 64).all (· = 255)) with
  | some i => h.flashProgram dev (halfBase half + 64 * i) b
  | none => (h.flashErase dev (halfBase (1 - half)) 0x8000).flashProgram dev (halfBase (1 - half)) b

/-- A record is written on the good devices, device 0 first (R487, R496). -/
def Head.writeAct (h : Head) (slot state version : Nat) : Nat × Head :=
  let seq := ((newestAct h.actRecords).map (·.seq)).getD 0 + 1
  let e := if h.is MER_STS_EPVALID then h.epoch else noEpoch
  let b := toBytes 56 (recOf [(0, 4, 0x56544341), (4, 1, 1), (5, 1, slot), (6, 1, state), (8, 8, seq), (16, 8, version), (24, 8, e)])
  let b := b ++ toBytes 8 (crc64 b).toNat
  let h := if h.flashOk 0 then h.actProgram 0 b else h
  let h := if h.flashOk 1 then h.actProgram 1 b else h
  (seq, h)

/-! ### Control passes to V firmware (R485, step 2; R500) -/

/-- The watchdog's count starts again. -/
def Head.wdogRestart (h : Head) : Head :=
  { h with plt := { h.plt with wdogStart := h.mer.sinceReset, lastKick := h.mer.tick } }

/-- The V control image of a set: its sections that lie within core 0's local memory are loaded there, relocated, and core 0 starts at the
image's entry of INDEX 0, or at the base of the memory where it has none (assumption log 25, DEDUCED). -/
def Head.loadControl (h : Head) (o : List Byte) : Head :=
  let ss := sectionsOf o
  let h := ((placedSections o localBase).filter (fun p => decide (p.1.load + p.1.size ≤ 2 ^ 20))).foldl
    (fun (h : Head) p => h.put (localKey 0 p.1.load) p.2) h
  let entry := ((entriesOf o ss).find? (fun e => e.2.2.1 = 0)).map (·.1)
  h.setCtx 0 { Context.fresh .v .running with pc := BitVec.ofNat 64 (localBase + entry.getD 0) }

/-- A set is booted: the ROM keeps its manifest, loads the V control image, and enables the watchdog:
that is the one write of its EN (R5, R500). -/
def Head.bootSet (h : Head) (src : BootSource) (rd : SetRead) (trial : Bool) : Head :=
  let h := { h with plt := { h.plt with manifest := setManifest rd, bootVersion := setVersion rd, bootSecver := setSecver rd,
                                        bootSource := src, released := h.mer.sinceReset } }
  let h := (h.wr DAY_STS_TRIAL trial.toNat).wr DAY_STS_SLOT (decide (src = .slotB)).toNat
  let h := (h.wr DAY_STS_RECOVERY 0).wr PLT_WDOG_PERIOD 10000
  let h := match (componentsOf rd).find? (fun (c : Component) => c.kind = 1) with
    | some c => h.loadControl (rd c.off c.len)
    | none => h
  ({ h.wr PLT_WDOG_EN 1 with rwo := PLT_WDOG_EN.key :: h.rwo }).wdogRestart

/-- The slot as a boot source. -/
def slotSource (slot : Nat) : BootSource := if slot = 0 then .slotA else .slotB

/-! ### The choice of a slot (R497, R501) -/

/-- IMAGE_REJECT (R494) at boot. -/
def Head.reject (h : Head) (slot dev : Nat) (r : Nat × Nat) : Head := h.post 0 0x0002 2 slot dev r.1 r.2

/-- The first good device whose copy of a slot passes; each copy that fails is rejected. -/
def Head.trySlot (h : Head) (slot : Nat) : Option Nat × Head :=
  [0, 1].foldl (fun (acc : Option Nat × Head) dev =>
    let (found, h) := acc
    if found.isSome ∨ h.flashOk dev = false then (found, h)
    else
      match h.checkSet (h.slotRead slot dev) with
      | none => (some dev, h)
      | some r => (none, h.reject slot dev r)) (none, h)

/-- RECOVERY_ENTERED (R501): 0 no slot passes, 1 the strap. -/
def Head.enterRecovery (h : Head) : Head :=
  let reason := if h.plt.straps.recov then 1 else 0
  (h.wr DAY_STS_RECOVERY 1).post 0 0x0007 3 reason 0 0 0

/-- A slot is booted from a device. -/
def Head.bootSlot (h : Head) (slot dev : Nat) (trial : Bool) : Head := h.bootSet (slotSource slot) (h.slotRead slot dev) trial

/-- The slot of a CONFIRMED or REVERTED record is booted; where it fails, the other slot with a REVERTED record, else recovery. -/
def Head.bootSettled (h : Head) (slot : Nat) : Head :=
  match h.trySlot slot with
  | (some dev, h) => h.bootSlot slot dev false
  | (none, h) =>
    match h.trySlot (1 - slot) with
    | (some dev, h) => (h.writeAct (1 - slot) 4 (setVersion (h.slotRead (1 - slot) dev))).2.bootSlot (1 - slot) dev false
    | (none, h) => h.enterRecovery

/-- The ROM reverts from a slot (R497): REVERTED for the slot of the newest earlier CONFIRMED or REVERTED record, slot A without one. -/
def Head.revert (h : Head) (r : ActRec) (cause : Nat) : Head :=
  let back := ((newestAct (h.actRecords.filter (fun (x : ActRec) => decide (3 ≤ x.state) && decide (x.seq < r.seq)))).map (·.slot)).getD 0
  match h.trySlot back with
  | (some dev, h) =>
    let h := (h.writeAct back 4 (setVersion (h.slotRead back dev))).2
    (h.post 0 0x0005 2 r.slot back cause r.version).bootSlot back dev false
  | (none, h) =>
    match h.trySlot (1 - back) with
    | (some dev, h) =>
      let h := (h.writeAct (1 - back) 4 (setVersion (h.slotRead (1 - back) dev))).2
      (h.post 0 0x0005 2 r.slot (1 - back) 2 r.version).bootSlot (1 - back) dev false
    | (none, h) => h.enterRecovery

/-- BOOT_SLOT_SELECT (R497, R501): the ROM acts on the newest record. -/
def Head.chooseSlot (h : Head) : Head :=
  if h.plt.straps.recov then h.enterRecovery
  else
    match newestAct h.actRecords with
    | none => h.bootSettled 0
    | some r =>
      if 3 ≤ r.state then h.bootSettled r.slot
      else if r.state = 1 then
        let h := (h.writeAct r.slot 2 r.version).2
        match h.trySlot r.slot with
        | (some dev, h) => h.bootSlot r.slot dev true
        | (none, h) => h.revert r 2
      else h.revert r (if h.plt.resetKind = 3 then 0 else 1)

end Sys2Proof.Machine
end

