-- ==== Sys2Proof/Machine/Platform.lean ====
section
/-! DEFINITION. Resets and the start, the watchdog, boot-flash operations, confirmation, alarms, throttling and the recorder's own
commands (spec/18_platform.md, R482 to R512; spec/17_umbra_security.md, R472 to R476). -/
namespace Sys2Proof.Machine
open Reg

/-! ### Resets (R483, R484) -/

/-- The register fields that Afterglow holds across every reset. -/
def heldFields : List Field :=
  [AG_STS_NEXTSEQ, AG_STS_EXHAUSTED, AG_STS_TOKENS, AG_HEAD_POS] ++ (List.range 4).map (fun s => AG_DROP_DROP.bit s)

/-- The retirements that outlast a reset (R23, R489): those the newest generation's body records, or what held when none was written,
and the entries of the log since. -/
def Head.logKept (h : Head) : List Retirement :=
  let entries := ((List.range h.retiredLog.length).zip h.retiredLog).filter (fun (x : Nat × Retirement) => ! h.plt.unlogged.contains x.1)
  match h.plt.recorded with
  | some body => body ++ (entries.filter (fun x => decide (h.plt.logBase ≤ x.1))).map (·.2)
  | none => entries.map (·.2)

/-- How many of them the body records. -/
def Head.baseKept (h : Head) : Nat :=
  match h.plt.recorded with
  | some body => body.length
  | none => ((List.range h.plt.logBase).filter (fun i => ! h.plt.unlogged.contains i)).length

/-- A reset of a kind (R483): everything returns to its reset value but Afterglow, the fuses, the alarm latch, the boot flash, and what
lies outside the head; the head stays in reset until RESET_RELEASE. -/
def Head.afterReset (h : Head) (kind : Nat) (dumped : Bool) : Head :=
  let plt := { Platform.reset with inReset := true, resetKind := kind, dumped := dumped, flash0 := h.plt.flash0,
                                   flash1 := h.plt.flash1, fuses := h.plt.fuses, logBase := h.baseKept, logSeq := h.plt.logSeq }
  let umb := { Umb.reset with latch := h.umb.latch, lastAlarm := h.umb.lastAlarm, holding := h.umb.holding,
                              drsDamaged := h.umb.drsDamaged }
  let n := { Head.reset with free := h.free, out := h.out, modules := h.modules, ag := h.ag, retiredLog := h.logKept, plt := plt,
                             umb := umb, fb := { Fb.reset with modIds := h.fb.modIds } }
  (heldFields.foldl (fun (n : Head) f => n.wr f (h.rd f)) n).emit (.pin (.pfDone false))

/-- The reset that a dump was made for follows its end (R484). -/
def Head.dumpFollow (h : Head) : Head :=
  match h.fb.dump with
  | some d =>
    match d.finished, d.reset with
    | true, some k => h.afterReset k (decide (d.written ≠ 0))
    | _, _ => h
  | none => h

/-- PRE_RESET_DUMP (R484): a reset that dumps first. -/
def Head.dumpThenReset (h : Head) (kind : Nat) : Head :=
  let h := if h.plt.stopped then { h with fb := { h.fb with dump := h.fb.dump.map (fun (d : DumpSt) => { d with reset := some kind }) } }
    else h.powerFail (some kind)
  h.dumpFollow

/-- A dump has ended that a reset follows. -/
def Head.resetDue (h : Head) : Bool := h.fb.dump.any (fun d => d.finished && d.reset.isSome)

/-- A command by which a dump may end: the reset that was waiting for its end follows at once. -/
def Head.followed (h : Head) (f : Head → Head) : Head := if h.resetDue then f h else (f h).dumpFollow

/-- A command of the module link, or a register write, after which a dump may have ended. -/
def State.applyPort (s : State) (f : Head → Head) : Host.Outcome State Fault Refusal := s.apply (fun h => h.followed f)

/-- PLT_RST.GO (R483): a software reset. -/
def Head.softReset (h : Head) (dump : Bool) : Head := if dump then h.dumpThenReset 4 else h.afterReset 4 false

/-- The watchdog has expired (R500). -/
def Head.wdogDue (h : Head) : Bool :=
  h.is PLT_WDOG_EN && decide (h.plt.wdogStart + h.rd PLT_WDOG_PERIOD * 25000 ≤ h.mer.sinceReset)

/-- WATCHDOG_EXPIRY (R500): nothing while the count has not run out. -/
def Head.wdogExpiry (h : Head) : Head :=
  if h.wdogDue then (h.post 0 0x0006 3 (h.rd PLT_WDOG_PERIOD) h.plt.lastKick 0 0).dumpThenReset 2 else h

/-- The confirmation window has expired, or the epoch never became valid (R499). -/
def Head.confirmDue (h : Head) : Bool :=
  h.is DAY_STS_TRIAL && (if h.plt.windowOpen then h.rd DAY_WINLEFT_EPOCHS = 0
    else h.is MER_STS_EPVALID = false && decide (h.plt.released + h.rd DAY_CTL_WINDOW * 25000000 ≤ h.mer.sinceReset))

/-- CONFIRMATION_RESET (R499). -/
def Head.confirmReset (h : Head) : Head := if h.confirmDue then h.dumpThenReset 3 else h

/-- POWER_ON_RESET (R483). -/
def execPowerOnReset (s : State) : Host.Outcome State Fault Refusal := s.applyAlways (fun h => h.afterReset 0 false)

/-- PIN_RESET (R483). -/
def execPinReset (s : State) : Host.Outcome State Fault Refusal := s.applyAlways (fun h => h.afterReset 1 false)

/-- WATCHDOG_EXPIRY (R500). -/
def execWatchdogExpiry (s : State) : Host.Outcome State Fault Refusal := s.apply Head.wdogExpiry

/-- CONFIRMATION_RESET (R499). -/
def execConfirmationReset (s : State) : Host.Outcome State Fault Refusal := s.apply Head.confirmReset

/-- POWER_FAIL (R278, R530). -/
def execPowerFail (s : State) : Host.Outcome State Fault Refusal := s.applyPort (fun h => h.powerFail none)

/-- DUMP_COPY_COMPLETE (R278). -/
def execDumpCopyComplete (copy : Fin 3) (s : State) : Host.Outcome State Fault Refusal := s.applyPort (fun h => h.dumpCopyComplete copy)

/-- DUMP_TIME_LIMIT (R484, R531). -/
def execDumpTimeLimit (s : State) : Host.Outcome State Fault Refusal := s.applyPort Head.dumpTimeLimit

/-! ### The start (R485) -/

/-- A retirement on record takes effect again (R23, R489). -/
def Head.applyRetirement (h : Head) (r : Retirement) : Head :=
  match r with
  | .engine c e =>
    let out := setBitN (h.rd (CORE_CL_STS_RETIRED.nth c)) e
    let act := ((List.range 9).filter (fun x => ! bitAt out x)).take 8
    (h.wr (CORE_CL_STS_RETIRED.nth c) out).wr (CORE_CL_STS_ACTIVE.nth c) (act.foldl setBitN 0)
  | .accelerator c a => h.wrBit (ACC_CL_STS_FAILED.nth c) a true
  | .laneGroup g => (h.wr (SD_G_STS_FAILED.nth g) 1).wr (SD_G_STS_ACTIVE.nth g) 0
  | .veil c e => h.wrBit (VEIL_C_RET_RETIRED.nth c) e true
  | .keySlot s => { h with umb := { h.umb with slots := Tbl.put h.umb.slots s .failed } }
  | .block j _ _ => h.bump (FB_SPARE_RETIRED.nth j) 1
  | _ => h

/-- FLASH_FAULT (R487): a device that failed is no longer good. -/
def Head.flashFault (h : Head) (dev addr op : Nat) : Head :=
  ((h.wrBit DAY_STS_FLDEVOK dev false).wr DAY_ERR_FLASH 1).post 0 0x0008 2 dev addr op 0

/-- The straps are latched and the fuses read. -/
def Head.latchFuses (h : Head) (straps : Straps) : Head :=
  let f := h.plt.fuses
  let h := { h with plt := { h.plt with inReset := false, started := true, straps := straps } }
  let h := ((h.wr PLT_STRAP_HEAD_ID straps.headId.toNat).wr PLT_STRAP_RECOV straps.recov.toNat).wr PLT_STRAP_SVCEN straps.svcEn.toNat
  let h := (h.wr PLT_RCAUSE_KIND h.plt.resetKind).wr PLT_RCAUSE_DUMPED h.plt.dumped.toNat
  let h := (h.wr DAY_KEYS_OEMSET ((f.oemHash.map (·.1)).foldl setBitN 0)).wr DAY_KEYS_OEMREV f.oemRevoked
  let h := (h.wr DAY_KEYS_DREV f.dorbeyrRevoked).wr DAY_STS_SECVER f.secver
  (h.wr (UMB_SERIAL_SERIAL.nth 0) (f.serial.toNat % 2 ^ 64)).wr (UMB_SERIAL_SERIAL.nth 1) (f.serial.toNat / 2 ^ 64)

/-- Umbra's start (R458 to R460): failed slots, the random source, the device storage key and the context key. -/
def Head.startUmbra (h : Head) (t : StartTests) : Head :=
  let h := t.failedSlots.foldl (fun (h : Head) s => if h.slotFailed s.val then h else h.failSlot s.val) h
  let h := if t.rngOk then h else h.rngFail 0
  let h := if h.slotFailed (h.roleSlot 6) then h
    else h.loadSlot (h.roleSlot 6) { key := h.dsk, salt := [], kind := 1, use := 0, keyid := 0 }
  let h := if t.rngOk = false ∨ h.slotFailed (h.roleSlot 2) then h
    else
      let (k, h) := h.drawBytes 36
      h.loadSlot (h.roleSlot 2) { key := k.take 32, salt := k.drop 32, kind := 2, use := 0, keyid := 0 }
  h.umbSts

/-- Step 1 of R485: straps, fuses, retirements on record, Umbra's tests, the flash devices, the core voltage (R526). -/
def Head.startHardware (h : Head) (straps : Straps) (t : StartTests) : Head :=
  let h := h.latchFuses straps
  let h := h.retiredLog.foldl Head.applyRetirement h
  let h := h.startUmbra t
  let h := h.wr DAY_STS_FLDEVOK (t.flash0.toNat + 2 * t.flash1.toNat)
  let h := if t.flash0 then h else h.post 0 0x0008 2 0 0 0 0
  let h := if t.flash1 then h else h.post 0 0x0008 2 1 0 0 0
  let h := t.failedEngines.foldl (fun (h : Head) x => h.failEngine x.1 x.2 0) h
  h.emit (.pin (.pmbus 0x40 h.plt.fuses.vcore))

/-- The patch and policy block (R490): the first copy that passes; without one the ROM runs on its defaults and posts what it found, which
the spec does not encode: free values. -/
def Head.startPatch (h : Head) (t : StartTests) : Head :=
  let a := if t.flash0 then t.patch0 else none
  let b := if t.flash1 then t.patch1 else none
  match a <|> b with
  | some m => { h with plt := { h.plt with patchMask := m.toNat } }
  | none =>
    let (x, h) := h.draw
    let (y, h) := h.draw
    (h.wr DAY_STS_PATCHDEF 1).post 0 0x0009 1 x.toNat y.toNat 0 0

/-- RESET_RELEASE (R485, steps 1 and 2): nothing while an alarm holds the head, or when the head has started already. -/
def Head.resetRelease (h : Head) (straps : Straps) (t : StartTests) : Head :=
  if h.umb.holding ∨ h.plt.started then h
  else
    let h := ((h.startHardware straps t).startPatch t).chooseSlot
    let slot := if h.is DAY_STS_RECOVERY then 2 else h.rd DAY_STS_SLOT
    h.post 0 0x0001 1 h.plt.resetKind h.plt.dumped.toNat slot h.plt.bootVersion

/-- RESET_RELEASE (R485). -/
def execResetRelease (straps : Straps) (tests : StartTests) (s : State) : Host.Outcome State Fault Refusal :=
  s.applyAlways (fun h => h.resetRelease straps tests)

/-! ### Boot-flash and set operations (R487, R490, R492, R498) -/

/-- A write of DAY_CMD: ignored with CFGERR while an operation runs (R512). -/
def Head.dayGo (h : Head) (op dev idx : Nat) : Head :=
  if h.is DAY_CMD_BUSY then h.wr DAY_ERR_CFGERR 1
  else
    let o : DayOp := { op := op, dev := dev, idx := idx, fl := h.rd DAY_FLADDR_ADDR, mem := h.rd DAY_MEMADDR_ADDR, len := h.rd DAY_LEN_LEN }
    { (h.wr DAY_CMD_BUSY 1) with plt := { h.plt with dayOp := some o } }

/-- A range of the flash has been programmed or erased: the slots it meets are no longer verified (R498), and a new generation of the
configuration record folds the log. -/
def Head.flashChanged (h : Head) (a n : Nat) : Head :=
  let meets (slot : Nat) : Bool := decide (a < slotBase slot + slotSize) && decide (slotBase slot < a + n)
  let h := if meets 0 then h.wr DAY_STS_VERIFIEDA 0 else h
  (if meets 1 then h.wr DAY_STS_VERIFIEDB 0 else h).foldLog

/-- READ, PROGRAM and ERASE are given operands in range. -/
def Head.dayRangeOk (h : Head) (o : DayOp) : Bool :=
  decide (o.dev ≤ 1) && decide (1 ≤ o.len) && decide (o.fl + o.len ≤ 2 ^ 29)
    && (if o.op = 3 then o.fl % 65536 = 0 else h.inMemory o.mem o.len)

/-- READ, PROGRAM or ERASE: what it does where it does not fail, and what a failed PROGRAM or ERASE leaves, which is free. -/
def Head.dayFlash (h : Head) (o : DayOp) (failed : Bool) : Nat × Head :=
  if h.dayRangeOk o = false then (9, h)
  else if o.op = 1 then
    (if failed then (1, h.flashFault o.dev o.fl 1) else (0, h.put o.mem (h.flashBytes o.dev o.fl o.len)))
  else
    let n := if o.op = 3 then roundUp o.len 65536 else o.len
    if failed then
      let (junk, h) := h.drawBytes n
      let h := ((h.flashErase o.dev o.fl n).flashProgram o.dev o.fl junk).flashFault o.dev o.fl o.op
      (1, h.flashChanged o.fl n)
    else if o.op = 2 then (0, (h.flashProgram o.dev o.fl (h.bytes o.mem n)).flashChanged o.fl n)
    else (0, (h.flashErase o.dev o.fl n).flashChanged o.fl n)

/-- A slot has passed VERIFY (R498). -/
def Head.verified (h : Head) (slot : Nat) : Bool := if slot = 0 then h.is DAY_STS_VERIFIEDA else h.is DAY_STS_VERIFIEDB

/-- ACTIVATE (R498): a TRIAL record for the slot not booted. -/
def Head.dayActivate (h : Head) : Nat × Head :=
  let slot := 1 - h.rd DAY_STS_SLOT
  if h.is DAY_STS_TRIAL ∨ h.verified slot = false then (2, h)
  else
    let version := setVersion (h.slotRead slot (if h.flashOk 0 then 0 else 1))
    let (seq, h) := h.writeAct slot 1 version
    (0, h.post 0 0x0003 0 slot seq version 0)

/-- VERIFY of a slot (R494, R498): on every good device. -/
def Head.dayVerifySlot (h : Head) (slot : Nat) : Nat × Head :=
  let devs := [0, 1].filter h.flashOk
  match devs.findSome? (fun d => h.checkSet (h.slotRead slot d)) with
  | some r => (r.1 + 2, h)
  | none =>
    if devs = [] then (1, h)
    else (0, if slot = 0 then h.wr DAY_STS_VERIFIEDA 1 else h.wr DAY_STS_VERIFIEDB 1)

/-- VERIFY of the set in Billow (R501): in recovery one that passes is booted as a trial of neither slot, and one that fails returns the
head to recovery. -/
def Head.dayVerifyBillow (h : Head) : Nat × Head :=
  match h.checkSet h.billowRead with
  | some r => (r.1 + 2, if h.is DAY_STS_RECOVERY then (h.reject 2 0 r).enterRecovery else h)
  | none => (0, if h.is DAY_STS_RECOVERY then h.bootSet .billow h.billowRead true else h)

/-- FUSEKEY (R492): refused on an index already fused. -/
def Head.dayFuse (h : Head) (o : DayOp) : Nat × Head :=
  let f := h.plt.fuses
  if h.inMemory o.mem 48 = false then (9, h)
  else if (Tbl.find f.oemHash o.idx).isSome then (2, h)
  else
    let h := { h with plt := { h.plt with fuses := { f with oemHash := Tbl.put f.oemHash o.idx (h.bytes o.mem 48) } } }
    (0, h.wrBit DAY_KEYS_OEMSET o.idx true)

/-- REVOKE (R492): refused on an index not fused. -/
def Head.dayRevoke (h : Head) (o : DayOp) : Nat × Head :=
  let f := h.plt.fuses
  if (Tbl.find f.oemHash o.idx).isNone then (2, h)
  else
    let h := { h with plt := { h.plt with fuses := { f with oemRevoked := setBitN f.oemRevoked o.idx } } }
    (0, h.wrBit DAY_KEYS_OEMREV o.idx true)

/-- What an operation does, with its status; `fail`: the device on which it failed. -/
def Head.dayDo (h : Head) (o : DayOp) (fail : Option Nat) : Nat × Head :=
  if o.op = 1 ∨ o.op = 2 ∨ o.op = 3 then h.dayFlash o (decide (fail = some o.dev))
  else
    match fail with
    | some d => if o.op = 4 ∨ (o.op = 5 ∧ o.dev ≤ 1) then (1, h.flashFault d 0 o.op) else (9, h)
    | none =>
      if o.op = 4 then h.dayActivate
      else if o.op = 5 then
        (if o.dev ≤ 1 then h.dayVerifySlot o.dev else if o.dev = 2 then h.dayVerifyBillow else (9, h))
      else if o.op = 6 then h.dayFuse o
      else if o.op = 7 then h.dayRevoke o
      else (9, h)

/-- DAY_CMD_COMPLETE: the running operation takes its effect, its status shows and BUSY falls. -/
def Head.dayComplete (h : Head) (fail : Option Nat) : Head :=
  match h.plt.dayOp with
  | none => h
  | some o =>
    let h := { (h.wr DAY_CMD_BUSY 0) with plt := { h.plt with dayOp := none } }
    let (st, h) := h.dayDo o fail
    h.wr DAY_CMD_STATUS st

/-- DAY_CMD_COMPLETE (R487, R498). -/
def execDayCmdComplete (fail : Option (Fin 2)) (s : State) : Host.Outcome State Fault Refusal :=
  s.apply (fun h => h.dayComplete (fail.map (fun (d : Fin 2) => d.val)))

/-! ### Confirmation (R495, R499) -/

/-- SECVER_RAISED (R495). -/
def Head.raiseSecver (h : Head) : Head :=
  let old := h.plt.fuses.secver
  let new := h.plt.bootSecver
  if h.is DAY_CTL_BURN ∧ old < new then
    (({ h with plt := { h.plt with fuses := { h.plt.fuses with secver := new } } }).wr DAY_STS_SECVER new).post 0 0x000C 1 old new
      h.plt.bootVersion 0
  else h

/-- DAY_CONFIRM.GO (R499): ignored with CFGERR outside a trial; a set booted from Billow is confirmed without a record (R501). -/
def Head.dayConfirm (h : Head) : Head :=
  if h.is DAY_STS_TRIAL = false then h.wr DAY_ERR_CFGERR 1
  else
    let billow : Bool := decide (h.plt.bootSource = .billow)
    let slot := h.rd DAY_STS_SLOT
    let (seq, h) := if billow then (0, h) else h.writeAct slot 3 h.plt.bootVersion
    let h := (h.wr DAY_STS_TRIAL 0).wr DAY_WINLEFT_EPOCHS 0
    let h := ({ h with plt := { h.plt with windowOpen := false } }).raiseSecver
    h.post 0 0x0004 0 (if billow then 2 else slot) seq h.plt.bootVersion h.plt.fuses.secver

/-! ### Alarms and test entry (R472, R476) -/

/-- ALARM (R472): every slot is zeroed, the latch set and the event posted, and the head is held in reset. -/
def Head.alarm (h : Head) (sources : Nat) : Head :=
  let h := h.zeroSlots
  let h := ({ h with umb := { h.umb with latch := true, lastAlarm := sources } }).post 11 0x0B01 3 sources h.mer.tick 0 0
  let h := h.afterReset 5 false
  ({ h with umb := { h.umb with holding := true } }).wr UMB_ALARM_ACTIVE sources

/-- ALARM_RELEASE (R472): 10 ms without an active source; RESET_RELEASE may follow. -/
def Head.alarmRelease (h : Head) : Head := ({ h with umb := { h.umb with holding := false } }).wr UMB_ALARM_ACTIVE 0

/-- The sources that raise an alarm: while PORST_N is low a supply outside its limits raises none (R525). -/
def Head.armed (h : Head) (sources : BitVec 5) : BitVec 5 :=
  if h.plt.inReset ∧ h.plt.resetKind = 0 then sources &&& 0b11110#5 else sources

/-- ALARM (R472, R525). -/
def execAlarm (sources : BitVec 5) (s : State) : Host.Outcome State Fault Refusal :=
  s.applyAlways (fun h => if h.armed sources = 0 then h else h.alarm (h.armed sources).toNat)

/-- ALARM_RELEASE (R472). -/
def execAlarmRelease (s : State) : Host.Outcome State Fault Refusal := s.applyAlways Head.alarmRelease

/-- TESTENTRY (R466, R476): a Dorbeyr signature block over the purpose-3 message. -/
def Head.umbTestEntry (h : Head) (o : Origin) (l : Level) : Head :=
  let b := h.bytes (h.rd UMB_ADDR_ADDR * 8) 7680
  let good := leAt b 5 1 = 0 && h.sigOk b (h.challengeMsg 3)
  let st := firstStatus [(l ≠ .v || h.umbAddrOk o l 7680 false = false, 1), (h.plt.fuses.retired, 9),
    (h.plt.fuses.ownHash.isNone, 10), (h.umb.nonce.isNone, 2), (! good, 3)]
  let h := if st = 0 then
      let h := { h with umb := { h.umb with drsDamaged := true, latch := true }, plt := { h.plt with fuses := { h.plt.fuses with retired := true } } }
      ((h.zeroSlots).umbSts).post 11 0x0B09 3 0 0 0 0
    else if st = 3 then h.credFail 9 else h
  h.consumeNonce.umbStart st

/-- UMB_CMD_COMPLETE (R466). -/
def execUmbCmdComplete (s : State) : Host.Outcome State Fault Refusal := s.apply Head.umbComplete

/-- RNG_HEALTH_FAIL (R460). -/
def execRngHealthFail (test : Word) (s : State) : Host.Outcome State Fault Refusal := s.apply (fun h => h.rngFail test.toNat)

/-- UMB_DG_DONE (R475). -/
def execUmbDgDone (unit : Fin 4) (s : State) : Host.Outcome State Fault Refusal := s.apply (fun h => h.dgDone unit)

/-! ### Throttling (R482) -/

/-- THROTTLE_CHANGE (R482): `tj` in eighths of a degree. -/
def Head.thermal (h : Head) (tj : BitVec 12) (sensor : Nat) : Head :=
  let h := (h.wr PLT_TEMP_TJ tj.toNat).wr PLT_TEMP_SENSOR sensor
  let t := tj.toInt
  let high : Int := 8 * (h.rd PLT_THERM_THROTTLE : Int)
  let low : Int := 8 * ((h.rd PLT_THERM_THROTTLE : Int) - (h.rd PLT_THERM_HYST : Int))
  let change (h : Head) (on : Bool) : Head :=
    ((h.wr PLT_THERM_ACTIVE on.toNat).post 0 0x000A 1 on.toNat tj.toNat sensor h.epoch).emit (.pin (.throttle on))
  if h.is PLT_THERM_ACTIVE = false ∧ high < t then change h true
  else if h.is PLT_THERM_ACTIVE ∧ t < low then change h false
  else h

/-- THERMAL_THROTTLE_CHANGE (R482). -/
def execThermalThrottleChange (tj : BitVec 12) (sensor : BitVec 8) (s : State) : Host.Outcome State Fault Refusal :=
  s.apply (fun h => h.thermal tj sensor.toNat)

/-! ### Afterglow and the service port (R504, R507, R511) -/

/-- AG_TOKEN_GAIN (R504): one token per 25,000,000 generated ticks since the release of reset. -/
def Head.tokenGain (h : Head) : Head :=
  if h.plt.tokenTicks + 25000000 ≤ h.mer.sinceReset then
    ({ h with plt := { h.plt with tokenTicks := h.plt.tokenTicks + 25000000 } }).agToken
  else h

/-- AG_TOKEN_GAIN (R504). -/
def execAgTokenGain (s : State) : Host.Outcome State Fault Refusal := s.apply Head.tokenGain

/-- A write of AG_POST (R507). -/
def Head.agPost (h : Head) (o : Origin) (l : Level) (v : Word) : Head :=
  let sev := bitsAt v.toNat 0 2
  let a := bitsAt v.toNat 5 43 * 32
  let allowed : Bool := bitsAt v.toNat 2 3 = 0 && h.inMemory a 32 && (l = .v || h.granted o a 32 .load) && ! (sev = 3 && l ≠ .v)
  if allowed then
    h.record 0xFF (0x8000 + bitsAt v.toNat 48 15) sev (h.load a 8) (h.load (a + 8) 8) (h.load (a + 16) 8) (h.load (a + 24) 8)
  else h.wr AG_ERR_CFGERR 1

/-- SVC_PERST (R511): the service port's own reset; its requests are not served while it is low. -/
def execSvcPerst (low : Bool) (s : State) : Host.Outcome State Fault Refusal :=
  s.apply (fun h => { h with plt := { h.plt with svcReset := low } })

end Sys2Proof.Machine
end

