-- ==== Sys2Proof/Machine/RawFlash.lean ====
section
/-! DEFINITION. The raw flash function of a module (spec/12_module_link.md, R307 to R327): what a module does for each
operation at the point at which it serializes it. -/
namespace Sys2Proof.Machine

/-! ### Statuses (R316) -/

/-- SUCCESS. -/
def stSuccess : Nat := 0
/-- INVALID. -/
def stInvalid : Nat := 1
/-- ERASED. -/
def stErased : Nat := 2
/-- UNCORRECTABLE. -/
def stUncorrectable : Nat := 3
/-- ORDER. -/
def stOrder : Nat := 4
/-- PROGRAM_FAIL. -/
def stProgramFail : Nat := 5
/-- ERASE_FAIL. -/
def stEraseFail : Nat := 6
/-- FENCED. -/
def stFenced : Nat := 7
/-- LEASE_MISMATCH. -/
def stMismatch : Nat := 8
/-- BAD_BLOCK. -/
def stBadBlock : Nat := 9
/-- FAILED. -/
def stFailed : Nat := 0xFE
/-- FATAL. -/
def stFatal : Nat := 0xFF

/-- What a module answers: its status, the data for DPTR and the seal for MPTR, and the module after. -/
structure ModAnswer where
  status : Nat
  data : List Byte
  sealRec : Rec64
  after : Module
  deriving DecidableEq, Repr

/-- An answer that changes nothing and transfers nothing. -/
def Module.plain (m : Module) (status : Nat) : ModAnswer := { status, data := [], sealRec := 0, after := m }

/-- The block at a physical block number, blank where none is kept. -/
def Module.block (m : Module) (p : Nat) : Block := Tbl.get Block.blank m.blocks p

/-- Replace a block. -/
def Module.setBlock (m : Module) (p : Nat) (b : Block) : Module := { m with blocks := Tbl.set Block.blank m.blocks p b }

/-- PBLK is beyond the block count or factory bad (R316, BAD_BLOCK). -/
def Module.badBlock (m : Module) (p : Nat) : Bool := m.nblk ≤ p || (m.block p).bad

/-- The fields R312 does not list for an operation must be zero; the entry as it reads with the listed ones blanked. -/
def unlistedZero (op : ModOp) (pblk slot level subop offset len dptr mptr lease hb : Bool) (flagMask : Nat) : Bool :=
  (pblk || op.pblk = 0) && (slot || op.slot = 0) && (level || op.level = 0) && (subop || op.subop = 0)
    && (offset || op.offset = 0) && (len || op.len = 0) && (dptr || op.dptr = 0) && (mptr || op.mptr = 0)
    && (lease || (op.gen = 0 && op.exph = 0 && op.newh = 0)) && (hb || op.hbval = 0) && op.rest = 0
    && op.flags.toNat &&& (255 - flagMask) = 0

/-- The lease word of a module as 64 bytes (R319). -/
def Module.leaseWord (m : Module) : List Byte :=
  let b := toBytes 56 (recOf [(0, 4, 0x45534145), (4, 1, 1), (5, 1, m.holder), (6, 1, m.fence), (8, 8, m.gen),
    (16, 8, m.hb0), (24, 8, m.hb1)])
  b ++ toBytes 8 (crc64 b).toNat

/-- The issuing port is fenced. -/
def Module.fenced (m : Module) (port : Bool) : Bool := bitAt m.fence port.toNat

/-- The range of a read entry is in order (R312): a multiple of 4,096, 4,096 to 262,144 bytes, within the strip. -/
def readRangeOk (op : ModOp) : Bool :=
  op.offset.toNat % 4096 = 0 && 4096 ≤ op.len.toNat && op.len.toNat ≤ 262144
    && op.offset.toNat + op.len.toNat ≤ 262144

/-- The bytes of a strip in a range; the strip is zero beyond the bytes kept. -/
def Strip.range (s : Strip) (off len : Nat) : List Byte :=
  let d := (s.data.drop off).take len
  d ++ List.replicate (len - d.length) 0

/-- A read of a strip range (R312, R314): an unprogrammed slot answers ERASED with zeros. -/
def Module.readAt (m : Module) (op : ModOp) : ModAnswer :=
  match (m.block op.pblk.toNat).strips[op.slot.toNat]? with
  | some s => { status := stSuccess, data := s.range op.offset.toNat op.len.toNat, sealRec := s.sealRec, after := m }
  | none => { status := stErased, data := List.replicate op.len.toNat 0, sealRec := 0, after := m }

/-- READ_PAGE (R312, R314, R320): fields before the fence. -/
def Module.readPage (m : Module) (port : Bool) (op : ModOp) : ModAnswer :=
  if unlistedZero op true true false false true true true true false false 0 = false ∨ readRangeOk op = false
      ∨ max m.spbf m.spb1 ≤ op.slot.toNat then m.plain stInvalid
  else if m.badBlock op.pblk.toNat then m.plain stBadBlock
  else if m.fenced port then m.plain stFenced
  else m.readAt op

/-- READ_RETRY (R312): a read at a retry level from 1 to 15. -/
def Module.readRetry (m : Module) (port : Bool) (op : ModOp) : ModAnswer :=
  if unlistedZero op true true true false true true true true false false 0 = false ∨ readRangeOk op = false
      ∨ max m.spbf m.spb1 ≤ op.slot.toNat ∨ op.level = 0 ∨ 15 < op.level.toNat then m.plain stInvalid
  else if m.badBlock op.pblk.toNat then m.plain stBadBlock
  else if m.fenced port then m.plain stFenced
  else m.readAt op

/-- PROGRAM_PAGE (R312, R313): in slot order, in one mode, up to the strip count of that mode; `data` and `sealRec` are what the
module transfers from DPTR and MPTR. -/
def Module.programPage (m : Module) (port : Bool) (op : ModOp) (data : List Byte) (sealRec : Rec64) : ModAnswer :=
  let oneBit := op.flags.getLsbD 0
  let b := m.block op.pblk.toNat
  if unlistedZero op true true false false false true true true false false 1 = false ∨ op.len.toNat ≠ 262144 then
    m.plain stInvalid
  else if m.badBlock op.pblk.toNat then m.plain stBadBlock
  else if m.fenced port then m.plain stFenced
  else if op.slot.toNat ≠ b.strips.length ∨ (b.strips ≠ [] ∧ b.oneBit ≠ oneBit)
      ∨ (if oneBit then m.spb1 else m.spbf) ≤ op.slot.toNat then m.plain stOrder
  else
    { status := stSuccess, data := [], sealRec := 0,
      after := m.setBlock op.pblk.toNat { b with oneBit := oneBit, strips := b.strips ++ [{ data := data, sealRec := sealRec }] } }

/-- ERASE_BLOCK (R312). -/
def Module.eraseBlock (m : Module) (port : Bool) (op : ModOp) : ModAnswer :=
  if unlistedZero op true false false false false false false false false false 0 = false then m.plain stInvalid
  else if m.badBlock op.pblk.toNat then m.plain stBadBlock
  else if m.fenced port then m.plain stFenced
  else
    let b := m.block op.pblk.toNat
    { status := stSuccess, data := [], sealRec := 0,
      after := m.setBlock op.pblk.toNat { b with oneBit := false, strips := [], erases := b.erases + 1 } }

/-- A 4,096-byte page with its CRC-64 in the last eight bytes (R323). -/
def sealedPage (fields : List (Nat × Nat × Nat)) : List Byte :=
  let b := toBytes 4088 (recOf fields)
  b ++ toBytes 8 (crc64 b).toNat

/-- The geometry page (R323). -/
def Module.geometryPage (m : Module) : List Byte :=
  sealedPage [(0, 4, 0x4F454746), (4, 1, 1), (8, 16, m.serial.toNat), (24, 4, m.nblk), (28, 2, m.spbf), (30, 2, m.spb1),
    (32, 4, m.progfd), (36, 4, m.prog1), (40, 4, m.readmb), (44, 4, m.holdms)]

/-- The status page (R323): good and bad blocks, the highest erase count, temperature and remaining life. -/
def Module.statusPage (m : Module) : List Byte :=
  let bad := (m.blocks.filter (fun e => e.2.bad)).length
  let top := m.blocks.foldl (fun a e => max a e.2.erases) 0
  sealedPage [(0, 4, 0x4F454746), (4, 1, 1), (8, 4, m.nblk - bad), (12, 4, bad), (16, 4, top), (20, 2, m.temp),
    (22, 2, m.life)]

/-- GET_STATUS (R312, R320): carried out also for a fenced port. -/
def Module.getStatus (m : Module) (op : ModOp) : ModAnswer :=
  if unlistedZero op false false false false false true true false false false 0 = false ∨ op.len.toNat ≠ 4096 then
    m.plain stInvalid
  else { status := stSuccess, data := m.statusPage, sealRec := 0, after := m }

/-- GET_GEOMETRY (R312, R320): carried out also for a fenced port. -/
def Module.getGeometry (m : Module) (op : ModOp) : ModAnswer :=
  if unlistedZero op false false false false false true true false false false 0 = false ∨ op.len.toNat ≠ 4096 then
    m.plain stInvalid
  else { status := stSuccess, data := m.geometryPage, sealRec := 0, after := m }

/-- The SOLE holder value naming a port (R319). -/
def soleOf (port : Bool) : Nat := if port then 3 else 2

/-- SET_FENCE (R321). With SELF it sets the issuing port's own fence; without, the other port's, for the sole holder only. -/
def Module.setFence (m : Module) (port : Bool) (op : ModOp) : ModAnswer :=
  let self := op.flags.getLsbD 1
  let clear := op.flags.getLsbD 2
  if unlistedZero op false false false false false false false false false false 6 = false ∨ (self ∧ clear)
      ∨ (self = false ∧ m.holder ≠ soleOf port) then m.plain stInvalid
  else if m.fenced port then m.plain stFenced
  else
    let bit := if self then port.toNat else (!port).toNat
    { status := stSuccess, data := [], sealRec := 0,
      after := { m with fence := if clear then clrBitN m.fence bit else setBitN m.fence bit } }

/-- A LEASE answer: the word as it stands after the operation (R320). -/
def Module.leaseAnswer (m : Module) (status : Nat) : ModAnswer :=
  { status, data := m.leaseWord, sealRec := 0, after := m }

/-- LEASE READ (R320). -/
def Module.leaseRead (m : Module) (op : ModOp) : ModAnswer :=
  if unlistedZero op false false false true false true true false true true 0 = false ∨ op.len.toNat ≠ 64 then
    m.plain stInvalid
  else m.leaseAnswer stSuccess

/-- LEASE HEARTBEAT (R320): HBn takes HBVAL for the issuing port. -/
def Module.leaseHeartbeat (m : Module) (port : Bool) (op : ModOp) : ModAnswer :=
  if unlistedZero op false false false true false true true false true true 0 = false ∨ op.len.toNat ≠ 64 then
    m.plain stInvalid
  else (if port then { m with hb1 := op.hbval.toNat } else { m with hb0 := op.hbval.toNat }).leaseAnswer stSuccess

/-- LEASE ACQUIRE (R320): GEN and HOLDER are compared and the holder changed as one action. A NEWH that is no holder value,
or that names the other port as SOLE, is INVALID. -/
def Module.leaseAcquire (m : Module) (port : Bool) (op : ModOp) : ModAnswer :=
  let newh := op.newh.toNat
  if unlistedZero op false false false true false true true false true true 0 = false ∨ op.len.toNat ≠ 64 ∨ 3 < newh
      ∨ 3 < op.exph.toNat ∨ newh = soleOf (!port) then m.plain stInvalid
  else if m.fenced port then m.plain stFenced
  else if op.gen.toNat = m.gen ∧ op.exph.toNat = m.holder then
    { m with holder := newh, gen := m.gen + 1,
             fence := if newh = soleOf port then 2 ^ (!port).toNat else 0 }.leaseAnswer stSuccess
  else m.leaseAnswer stMismatch

end Sys2Proof.Machine
end

