-- ==== Sys2Proof/Machine/ModLink.lean ====
section
/-! DEFINITION. The module link: links and identity, lease words, the end of every module operation, and the raw flash function as
a module carries it out (spec/12_module_link.md, R304 to R329; spec/10_redundancy.md, R261). -/
namespace Sys2Proof.Machine
open Reg

/-! ### The module record (R323 to R325) -/

/-- The first 128 bytes of a module record. -/
def Head.moduleRecord (h : Head) (p : Nat) : List Byte :=
  let x := h.port p
  let b := toBytes 120 (recOf [(0, 4, 0x444F4D4D), (4, 1, 1), (5, 1, p), (6, 1, x.holder), (8, 8, h.pair.pool.toNat),
    (16, 16, x.serial.toNat), (32, 8, x.gen), (40, 8, h.epoch)])
  b ++ toBytes 8 (crc64 b).toNat

/-- The record goes to the next unprogrammed slot of row GEN mod 2; a row without one is erased first. -/
def Head.writeRecord (h : Head) (p : Nat) : Head :=
  let x := h.port p
  let row := x.gen % 2
  let pblk := h.physical p row
  let b := ((h.module p).map (fun (m : Module) => m.block pblk)).getD Block.blank
  let limit := ((h.module p).map (fun (m : Module) => m.spb1)).getD 0
  if b.strips ≠ [] ∧ (b.oneBit = false ∨ limit ≤ b.strips.length) then h.issue p 1 (eraseOp pblk) (.moduleRecord x.gen)
  else
    let d := h.moduleRecord p
    let seal_ := mkSeal 3 p 1 h.pair.pool.toNat (x.gen % 2 ^ 32) row 0 0 0 [] h.epoch d
    h.program p pblk b.strips.length true d seal_ (.moduleRecord x.gen)

/-- A record of this port is being written. -/
def Head.recordBusy (h : Head) (p : Nat) : Bool := (h.port p).outstanding.any (fun e => match e.2.purpose with
  | .moduleRecord _ => true
  | _ => false)

/-- MODULE_RECORD_WRITE (R325): a lease word newer than the newest record is recorded by the head that R325 names; so is the acceptance of
a replacement, by head 0 also while nobody holds the module. -/
def Head.recordCheck (h : Head) (p : Nat) : Head :=
  let x := h.port p
  let mine : Bool := (h.headId = 0 && (x.holder = 1 || (x.holder = 0 && x.recordOwed))) || x.holder = h.ownSole
  if h.pair.pool ≠ 0 ∧ mine ∧ (x.recordGen < x.gen ∨ x.recordOwed) ∧ h.recordBusy p = false then h.writeRecord p else h

/-! ### Identity (R326) -/

/-- IDENTITY_CHANGED (R326): causes 0 serial, 1 pool, 2 position, 3 lease lost. The module is FAILED under R261. -/
def Head.identityChanged (h : Head) (p cause held found : Nat) : Head :=
  let h := (h.wr ML_ERR_IDENT 1).post 8 0x0808 2 p cause held found
  h.modFailed p (if cause = 3 then 3 else 2)

/-- How what a module reports differs from what is held for its position, none where it does not; a module without a record differs where
one of this pool was written or read there. -/
def Head.identityCause (h : Head) (p : Nat) (t : LinkTrained) : Option Nat :=
  if (Tbl.find h.fb.modIds p).any (· ≠ t.part.serial) then some 0
  else if h.pair.pool ≠ 0 ∧ t.pool ≠ h.pair.pool ∧ (t.pool ≠ 0 ∨ (h.port p).pool = h.pair.pool) then some 1
  else if t.pool ≠ 0 ∧ t.posn.toNat ≠ p then some 2
  else if t.leaseGen.toNat < t.recordGen.toNat then some 3
  else none

/-! ### Lease words (R319, R405, R410, R411) -/

/-- A lease word as it is returned: holder, fences, generation and heartbeats; none where it fails its checks. -/
def parseLease (b : List Byte) : Option (Nat × Nat × Nat × Nat × Nat) :=
  let v := ofBytes b
  if b.length = 64 ∧ recAt v 0 4 = 0x45534145 ∧ recAt v 4 1 = 1 ∧ recAt v 5 1 < 4 ∧ recAt v 56 8 = (crc64 (b.take 56)).toNat then
    some (recAt v 5 1, recAt v 6 1, recAt v 8 8, recAt v 16 8, recAt v 24 8)
  else none

/-- This head's port of a module is fenced: it no longer reaches the module (R410). -/
def Head.portFenced (h : Head) (p : Nat) : Head :=
  if h.is (ML_P_STS_FENCED.nth p) then h
  else
    let h := (h.wr (ML_P_STS_FENCED.nth p) 1).wr (PAR_MOD_REACH.nth p) 0
    h.post 8 0x0807 2 p (h.port p).gen (h.port p).holder h.epoch

/-- ENTER_FENCED (R411): a head in PAIRED or KEEPER learns from a module that it has lost it. A keeper does not count the modules it
has not held since it took over. -/
def Head.lostTo (h : Head) (p : Nat) : Head :=
  if h.role = rPaired ∨ (h.role = rKeeper ∧ h.pair.keeperOf.contains p = false) then h.loseFence none else h

/-- A joiner whose port, which had been free, is fenced: its keeper has abandoned the join (R414), and it enters FENCED. `before` is the
head as it stood before. -/
def Head.refenced (h before : Head) (p : Nat) : Head :=
  let x := before.port p
  if h.role = rJoining ∧ x.leaseKnown ∧ bitAt x.fence h.headId = false ∧ before.is (ML_P_STS_FENCED.nth p) = false
      ∧ h.is (ML_P_STS_FENCED.nth p) then h.enterFenced none
  else h

/-- A lease word has come back: what the port shows of it, and what follows from a change. -/
def Head.leaseSeen (h : Head) (p : Nat) (w : Nat × Nat × Nat × Nat × Nat) : Head :=
  let (holder, fence, gen, hb0, hb1) := w
  let x := h.port p
  let old := x.holder
  let fresh := x.leaseKnown = false
  let h := h.setPort p { x with leaseKnown := true, holder := holder, fence := fence, gen := gen, hb0 := hb0, hb1 := hb1 }
  let h := h.wr (ML_P_STS_HOLDER.nth p) holder
  let h := if fresh = false ∧ old ≠ holder then h.post 8 0x0806 1 p old holder gen else h
  let h := if bitAt fence h.headId then h.portFenced p
    else if h.is (ML_P_STS_FENCED.nth p) then (h.wr (ML_P_STS_FENCED.nth p) 0).modReached p else h
  let h := if holder = h.ownSole then { h with pair := { h.pair with keeperOf := h.pair.keeperOf.filter (· ≠ p) } } else h
  let h := h.showTwinSole
  let h := if gen < x.recordGen ∧ h.modState p ≠ mFailed ∧ h.modState p ≠ mNone then h.identityChanged p 3 x.recordGen gen else h
  if holder = h.twinSole then h.lostTo p else h.recordCheck p

/-! ### The end of operations -/

/-- A strip's program ends without an answer: the position is missing for the stripe while that leaves at least the margin of R260,
and the stripe is re-placed otherwise. -/
def Head.stripLost (h : Head) (s p : Nat) : Head :=
  match h.stripe s with
  | none => h
  | some st =>
    if st.skip.length + 1 < (h.geomOf (stripeBand s)).2 then
      let h := h.markMissing s [p]
      let st := { st with skip := st.skip ++ [p], todo := st.todo.filter (· ≠ p) }
      if st.todo = [] then h.stripeDurable s st else h.setStripe s st
    else h.stripDone s p false

/-- An operation of a port ends unreadable or failed, its module out of reach (R318, R261). -/
def Head.opLost (h : Head) (p : Nat) (o : Outstanding) : Head :=
  match o.purpose with
  | .software q n => h.swComplete p q n (swCompletion o.op.opc.toNat n 0xFF 0 0 0)
  | .strip s q => ((h.stripLost s q).modSettle).ckptAdvance
  | .erase b q => (h.eraseLost b q).modSettle
  | .dumpUnit c n => h.dumpUnitDone c n false
  | .dumpRow _ => h.dumpReady
  | .bid => h.bidNote p 3
  | .target b q => h.setHole b q (fun e => { e with eowed := true })
  | _ => h

/-- Every outstanding operation of a port ends, and its link is down at this head. `cause` is that of MODULE_ABSENT. -/
def Head.dropPort (h : Head) (p cause : Nat) : Head :=
  let ops := (h.port p).outstanding
  let h := h.setPort p { h.port p with outstanding := [] }
  let h := ((h.wr (ML_P_STS_LINKUP.nth p) 0).wr (ML_P_STS_SPEED.nth p) 0).wr (ML_P_STS_X1.nth p) 0
  let h := h.modAbsent p cause
  ops.foldl (fun (h : Head) e => h.opLost p e.2) h

/-- LINK_LOST (R261, R329). -/
def Head.linkLost (h : Head) (p aer : Nat) : Head :=
  if h.is (ML_P_STS_LINKUP.nth p) = false then h
  else (h.post 8 0x0802 1 p aer (h.port p).outstanding.length h.epoch).dropPort p 0

/-- OP_TIMEOUT (R318): the function is reset, and the link trains anew. -/
def Head.opTimeout (h : Head) (p cid : Nat) : Head :=
  match Tbl.find (h.port p).outstanding cid with
  | none => h
  | some o =>
    let h := (h.wr ML_ERR_TIMEOUT 1).bump (ML_P_CNT_TIMEOUTS.nth p) 1
    ((h.post 8 0x0803 2 p o.op.opc.toNat o.op.pblk.toNat o.op.slot.toNat).emit (.moduleReset p)).dropPort p 1

/-- DMA_VIOLATION (R308): the link is dropped. -/
def Head.dmaViolation (h : Head) (p addr len cid : Nat) : Head :=
  ((h.wr ML_ERR_DMAVIOL 1).post 8 0x0804 2 p addr len cid).dropPort p 0

/-- MODULE_DMA_WRITE (R308): a write within the ranges of software's operations lands; any other is a violation. The completion rings
and the buffers of hardware queues lie in the controller, where no address names them. -/
def Head.moduleDma (h : Head) (p a : Nat) (b : List Byte) : Head :=
  let within (base len : Nat) : Bool := base ≠ 0 && decide (base ≤ a) && decide (a + b.length ≤ base + len)
  let ok := (h.port p).outstanding.any (fun e => match e.2.purpose with
    | .software .. => within e.2.op.dptr.toNat e.2.op.len.toNat || within e.2.op.mptr.toNat 64
    | _ => false)
  if h.is (ML_P_STS_LINKUP.nth p) = false then h else if ok then h.put a b else h.dmaViolation p a b.length 0

/-- A read of patrol has ended (R317): another level after UNCORRECTABLE, else what patrol sees. -/
def Head.patrolRead (h : Head) (p s q : Nat) (op : ModOp) (status corrmax bytes : Nat) : Head :=
  let unreadable (h : Head) : Head := (h.bump (ML_P_CNT_UNREAD.nth p) 1).patrolled s q none
  if status = stSuccess then
    if bytes = op.len.toNat then h.patrolled s q (some corrmax) else unreadable (h.bump (ML_P_CNT_LENERR.nth p) 1)
  else if status = stUncorrectable ∧ op.level.toNat < h.rd ML_CTL_RETRYMAX then
    ((h.bump (ML_P_CNT_RETRIES.nth p) 1).issue p 1 { op with opc := 2, level := op.level + 1 } (.patrol s q)).chargePort bPatrol p
      op.len.toNat
  else if status = stUncorrectable ∨ status = stErased then unreadable h
  else h

/-- The lease operations of formation, a bid and a keeper go on with the word that came back (R402, R406, R408). -/
def Head.leaseNext (h : Head) (p : Nat) (o : Outstanding) (ok word : Bool) : Head :=
  match o.purpose with
  | .heartbeat => if word then h.aliveNote p else h
  | .leaseRead => if word then (h.formWant p).keeperWant p else h
  | .form => if word then h.formWant p else h
  | .keeper => if word then h.keeperWant p else h
  | .bid => h.bidAnswer p o.op.subop.toNat ok word
  | _ => h

/-- What the end of an operation is for. `status` is its status, which was not FAILED or FATAL. -/
def Head.opEnded (h : Head) (p : Nat) (o : Outstanding) (c : ModCpl) (status : Nat) : Head :=
  let ok : Bool := status = stSuccess
  match o.purpose with
  | .software q n =>
    let h := if ok ∨ status = stMismatch ∨ status = stErased then
        let h := if o.op.dptr = 0 then h else h.put o.op.dptr.toNat c.data
        if o.op.mptr = 0 then h else h.put o.op.mptr.toNat (toBytes 64 c.sealRec.toNat)
      else h
    h.swComplete p q n (swCompletion c.cid.toNat n status c.corrmax.toNat c.level.toNat c.bytes.toNat)
  | .strip s q => ((h.stripDone s q ok).modSettle).ckptAdvance
  | .erase b q => (if ok ∨ status = stEraseFail then h.erased b q p ok else h.eraseLost b q).modSettle
  | .patrol s q => h.patrolRead p s q o.op status c.corrmax.toNat c.bytes.toNat
  | .dumpUnit x n => h.dumpUnitDone x n ok
  | .dumpRow row => (if ok ∨ status = stEraseFail then h.dumpRowErased p row ok else h.dumpReady).joinedCheck
  | .rebuild s q => if ok ∨ status = stProgramFail ∨ status = stOrder then h.rebuilt s q p ok else h
  | .target b q =>
    (if ok ∨ status = stEraseFail then h.targetErased b q p ok else h.setHole b q (fun e => { e with eowed := true })).modSettle
  | .moduleRecord gen =>
    if ok = false then h
    else if o.op.opc = 4 then h.recordCheck p
    else (h.setPort p { h.port p with recordGen := if (h.port p).recordOwed then gen else max gen (h.port p).recordGen,
                                                 pool := h.pair.pool, posn := p, recordOwed := false }).recordCheck p
  | _ => h

/-- MODULE_COMPLETION (R316): a completion is matched with its operation, the lease word it brings is noted, and its status acted
on. -/
def Head.modCompletion (h : Head) (p : Nat) (c : ModCpl) : Head :=
  if h.is (ML_P_STS_LINKUP.nth p) = false then h
  else match Tbl.find (h.port p).outstanding c.cid.toNat with
  | none => h.dmaViolation p 0 0 c.cid.toNat
  | some o =>
    if o.op.len.toNat < c.data.length then h.dmaViolation p o.op.dptr.toNat c.data.length c.cid.toNat
    else
      let status := c.status.toNat
      let h := h.setPort p { h.port p with outstanding := Tbl.del (h.port p).outstanding c.cid.toNat }
      let word := if o.op.opc = 8 ∧ (status = stSuccess ∨ status = stMismatch) then parseLease c.data else none
      let seen := match word with
        | some w => h.leaseSeen p w
        | none => h
      let h := seen.refenced h p
      if status = stFailed then (h.modFailed p 3).opLost p o
      else if status ≤ stBadBlock then
        let h := if status = stInvalid ∨ status = stBadBlock then h.wr ML_ERR_PROTO 1 else h
        let h := if status = stFenced then ((h.portFenced p).refenced h p).lostTo p else h
        (h.opEnded p o c status).leaseNext p o (status = stSuccess) word.isSome
      else (h.opLost p o).dropPort p 2

/-! ### Links (R304 to R306) -/

/-- ML_PERST_RELEASE (R305). -/
def Head.perstRelease (h : Head) (p : Nat) : Head :=
  if h.rd (ML_P_STS_STATE.nth p) ≠ uStarting ∨ (h.port p).perstHeld = false then h
  else (h.setPort p { h.port p with perstHeld := false }).emit (.pin (.perst p true))

/-- A module as it is first seen: its geometry, the lease word it reports, nothing programmed. -/
def moduleOf (t : LinkTrained) : Module :=
  { serial := t.part.serial, nblk := t.part.nblk.toNat, spbf := t.part.spbf.toNat, spb1 := t.part.spb1.toNat,
    progfd := t.part.progfd.toNat, prog1 := t.part.prog1.toNat, readmb := t.part.readmb.toNat, holdms := t.part.holdms.toNat,
    temp := 0, life := 0, holder := t.holder, fence := 0, gen := t.leaseGen.toNat, hb0 := 0, hb1 := 0, blocks := [],
    failed := t.failed, fatal := false }

/-- The module behind a trained link with the identity it reports: its state, what the position holds of it, and its lease word. -/
def Head.moduleFound (h : Head) (p : Nat) (t : LinkTrained) : Head :=
  let h := if (h.module p).any (fun (m : Module) => m.serial = t.part.serial) then h
    else { h with modules := Tbl.put h.modules p (moduleOf t) }
  let cause := if h.modState p = mFailed then none else h.identityCause p t
  let held := (h.port p).gen
  let h := h.setPort p { h.port p with serial := t.part.serial, pool := t.pool, posn := t.posn.toNat,
                                       recordGen := t.recordGen.toNat, leaseKnown := false }
  let h := h.showSpares p
  match cause with
  | some c => h.identityChanged p c (if c = 3 then t.recordGen.toNat else held) t.leaseGen.toNat
  | none =>
    let h := if h.pair.pool = 0 then { h with pair := { h.pair with pool := t.pool } } else h
    let h := if (Tbl.find h.fb.modIds p).isSome then h
      else { h with fb := { h.fb with modIds := Tbl.put h.fb.modIds p t.part.serial } }
    let h := if t.failed then (h.modReached p).modFailed p 3 else h.modReached p
    h.learnLease p

/-- PCIE_LINK_TRAINED (R305, R306): a link of a port that is in use has trained. The width of LINK_DEGRADED and the identifiers of
MODULE_UNKNOWN: assumption log 75, DESIGN CHOICE. -/
def Head.linkTrained (h : Head) (p : Nat) (t : LinkTrained) : Head :=
  let st := h.rd (ML_P_STS_STATE.nth p)
  if (st ≠ uStarting ∧ st ≠ uOn) ∨ (h.port p).perstHeld ∨ h.is (ML_P_STS_LINKUP.nth p) then h
  else
    let h := if t.speed.val < 6 ∨ t.x1 then h.post 8 0x0801 1 p t.speed (if t.x1 then 1 else 2) 0 else h
    if t.classCode ≠ 0x0180D9 then h.post 8 0x0805 1 p t.classCode.toNat t.ids.toNat 0
    else
      let h := ((h.wr (ML_P_STS_LINKUP.nth p) 1).wr (ML_P_STS_SPEED.nth p) t.speed).wr (ML_P_STS_X1.nth p) t.x1.toNat
      h.moduleFound p t

/-- LINK_TRAIN_TIMEOUT (R305): the module is not reached at this head. -/
def Head.trainTimeout (h : Head) (p : Nat) : Head :=
  if h.is (ML_P_STS_LINKUP.nth p) ∨ (h.port p).perstHeld then h else h.modAbsent p 0

/-- A port stops (R306): loss of reach, at once. -/
def Head.portHalt (h : Head) (p : Nat) : Head := h.modAbsent p 3

/-- A port has stopped: nothing is outstanding, the link is dropped and the module held in reset. -/
def Head.portStopped (h : Head) (p : Nat) : Head :=
  let h := ((h.wr (ML_P_STS_LINKUP.nth p) 0).wr (ML_P_STS_SPEED.nth p) 0).wr (ML_P_STS_X1.nth p) 0
  (h.setPort p { h.port p with perstHeld := true, leaseKnown := false }).emit (.pin (.perst p false))

/-- ML_PERST_RELEASE (R305). -/
def execMlPerstRelease (port : Fin 32) (s : State) : Host.Outcome State Fault Refusal := s.applyPort (fun h => h.perstRelease port)

/-- PCIE_LINK_TRAINED (R305, R306). -/
def execPcieLinkTrained (port : Fin 32) (t : LinkTrained) (s : State) : Host.Outcome State Fault Refusal :=
  s.applyPort (fun h => h.linkTrained port t)

/-- LINK_TRAIN_TIMEOUT (R305). -/
def execLinkTrainTimeout (port : Fin 32) (s : State) : Host.Outcome State Fault Refusal := s.applyPort (fun h => h.trainTimeout port)

/-- LINK_LOST (R261). -/
def execLinkLost (port : Fin 32) (aer : BitVec 32) (s : State) : Host.Outcome State Fault Refusal :=
  s.applyPort (fun h => h.linkLost port aer.toNat)

/-- MODULE_COMPLETION (R316). -/
def execModuleCompletion (port : Fin 32) (c : ModCpl) (s : State) : Host.Outcome State Fault Refusal :=
  s.applyPort (fun h => h.modCompletion port c)

/-- OP_TIMEOUT (R318). -/
def execOpTimeout (port : Fin 32) (cid : BitVec 16) (s : State) : Host.Outcome State Fault Refusal :=
  s.applyPort (fun h => h.opTimeout port cid.toNat)

/-- MODULE_DMA_WRITE (R308). -/
def execModuleDmaWrite (port : Fin 32) (addr : Word) (data : List Byte) (s : State) : Host.Outcome State Fault Refusal :=
  s.applyPort (fun h => h.moduleDma port addr.toNat data)

/-! ### The module's side (R312 to R322) -/

/-- A module carries out an operation of a port: an entry of another operation than the row's is INVALID, a module that has declared
itself failed answers FAILED and one that can do nothing more FATAL; its answer goes to the port. A module that was never seen is not
there. -/
def Head.moduleDoes (h : Head) (j : Nat) (port : Bool) (op : ModOp) (opc : Nat) (sub : Option Nat) (f : Module → ModAnswer) : Head :=
  match h.module j with
  | none => h
  | some m =>
    let a := if m.fatal then m.plain stFatal else if m.failed then m.plain stFailed
      else if op.opc.toNat ≠ opc ∨ sub.any (· ≠ op.subop.toNat) then m.plain stInvalid else f m
    ({ h with modules := Tbl.put h.modules j a.after }).emit (.moduleReply j port a.status a.data a.sealRec)

/-- READ_PAGE (R312, R314). -/
def execReadPage (module : Fin 32) (port : Bool) (op : ModOp) (s : State) : Host.Outcome State Fault Refusal :=
  s.applyAlways (fun h => h.moduleDoes module port op 1 none (fun m => m.readPage port op))

/-- READ_RETRY (R312). -/
def execReadRetry (module : Fin 32) (port : Bool) (op : ModOp) (s : State) : Host.Outcome State Fault Refusal :=
  s.applyAlways (fun h => h.moduleDoes module port op 2 none (fun m => m.readRetry port op))

/-- PROGRAM_PAGE (R312, R313): `data` and `sealRec` are what the module transfers from DPTR and MPTR. -/
def execProgramPage (module : Fin 32) (port : Bool) (op : ModOp) (data : List Byte) (sealRec : Rec64) (s : State) :
    Host.Outcome State Fault Refusal :=
  s.applyAlways (fun h => h.moduleDoes module port op 3 none (fun m => m.programPage port op data sealRec))

/-- ERASE_BLOCK (R312). -/
def execEraseBlock (module : Fin 32) (port : Bool) (op : ModOp) (s : State) : Host.Outcome State Fault Refusal :=
  s.applyAlways (fun h => h.moduleDoes module port op 4 none (fun m => m.eraseBlock port op))

/-- GET_STATUS (R312, R323). -/
def execGetStatus (module : Fin 32) (port : Bool) (op : ModOp) (s : State) : Host.Outcome State Fault Refusal :=
  s.applyAlways (fun h => h.moduleDoes module port op 5 none (fun m => m.getStatus op))

/-- GET_GEOMETRY (R312, R323). -/
def execGetGeometry (module : Fin 32) (port : Bool) (op : ModOp) (s : State) : Host.Outcome State Fault Refusal :=
  s.applyAlways (fun h => h.moduleDoes module port op 6 none (fun m => m.getGeometry op))

/-- SET_FENCE (R321). -/
def execSetFence (module : Fin 32) (port : Bool) (op : ModOp) (s : State) : Host.Outcome State Fault Refusal :=
  s.applyAlways (fun h => h.moduleDoes module port op 7 none (fun m => m.setFence port op))

/-- LEASE READ (R320). -/
def execLeaseRead (module : Fin 32) (port : Bool) (op : ModOp) (s : State) : Host.Outcome State Fault Refusal :=
  s.applyAlways (fun h => h.moduleDoes module port op 8 (some 0) (fun m => m.leaseRead op))

/-- LEASE HEARTBEAT (R320). -/
def execLeaseHeartbeat (module : Fin 32) (port : Bool) (op : ModOp) (s : State) : Host.Outcome State Fault Refusal :=
  s.applyAlways (fun h => h.moduleDoes module port op 8 (some 1) (fun m => m.leaseHeartbeat port op))

/-- LEASE ACQUIRE (R320). -/
def execLeaseAcquire (module : Fin 32) (port : Bool) (op : ModOp) (s : State) : Host.Outcome State Fault Refusal :=
  s.applyAlways (fun h => h.moduleDoes module port op 8 (some 2) (fun m => m.leaseAcquire port op))

end Sys2Proof.Machine
end

