-- ==== Sys2Proof/Machine/Twin.lean ====
section
/-! DEFINITION. The commands of the twin link: CHRT packets and timers, heartbeats, control messages and send queues
(spec/14_sundog_and_rdma.md; spec/15_twin_operation.md; spec/03_commit_and_determinism.md, R56 to R74). -/
namespace Sys2Proof.Machine
open Reg

/-! ### Control messages (R384, R401) -/

/-- A packet authenticated under the link key: the link has formed at the twin too, and no more key frames go (R470). -/
def Head.authentic (h : Head) : Head :=
  if h.is SD_STS_LINKUP then { h with sd := { h.sd with linkFormed := true } } else h

/-- A control message of `n` bytes on hardware connection `c`: ignored once the twin has been declared failed (R411). -/
def State.control (s : State) (c n : Nat) (f : Head → Head) : Host.Outcome State Fault Refusal :=
  s.apply (fun h => if h.pair.deaf then h else h.authentic.controlIn c n f)

/-- SEAL_SEND (R56). -/
def execSealSend (s : State) : Host.Outcome State Fault Refusal := s.apply Head.sealSend

/-- SEAL (R57). -/
def execSealReceive (e n commands : Nat) (crc : BitVec 32) (asvMax ea : Nat) (d : Dig) (s : State) :
    Host.Outcome State Fault Refusal :=
  s.control 0 64 (fun h => h.sealIn { n := n, commands := commands, crc := crc, asvMax := asvMax, ea := ea, d := d } e)

/-- SEAL_ACK_SEND (R57). -/
def execSealAckSend (e : Nat) (s : State) : Host.Outcome State Fault Refusal := s.apply (fun h => h.sealAckSend e)

/-- SEAL_ACK (R59). -/
def execSealAckReceive (e : Nat) (s : State) : Host.Outcome State Fault Refusal := s.control 0 64 (fun h => h.sealAckIn e)

/-- SEAL_NAK (R58): the eighth for one epoch fails the link. -/
def execSealNakReceive (e : Nat) (s : State) : Host.Outcome State Fault Refusal :=
  s.control 0 64 (fun h =>
    let (eighth, h) := h.sealNakIn e
    if eighth then h.failLink 1 0 else h)

/-- COMMIT_NOTE (R61). -/
def execCommitNoteReceive (e : Nat) (s : State) : Host.Outcome State Fault Refusal := s.control 0 64 (fun h => h.noteIn e)

/-- RERUN (R74): a twin that yields becomes suspect (R404). -/
def execRerunReceive (ea : Nat) (agrees : Bool) (s : State) : Host.Outcome State Fault Refusal :=
  s.control 0 64 (fun h =>
    let (yields, h) := h.rerunIn ea agrees
    if yields then h.suspect 4 else h)

/-- SEAL_LATE (R68). -/
def execSealLate (s : State) : Host.Outcome State Fault Refusal := s.apply Head.sealLate

/-- EPOCH_COMMIT (R60). -/
def execEpochCommit (s : State) : Host.Outcome State Fault Refusal := s.apply Head.commitNext

/-- APPLY_EPOCH (R69). -/
def execApplyEpoch (s : State) : Host.Outcome State Fault Refusal := s.apply Head.applyNext

/-- INTENTS (R384): 1 to 64 records. -/
def execIntentsReceive (recs : List Rec64) (s : State) : Host.Outcome State Fault Refusal :=
  s.control 1 (64 * recs.length) (fun h => h.intentsIn recs)

/-- DESCRIPTOR (R33): the command bears its stamp; the descriptors of an epoch are counted. -/
def execDescriptorReceive (stamp cseq nsid ctrl cid opc cset len : Nat) (s : State) : Host.Outcome State Fault Refusal :=
  s.control 1 64 (fun h =>
    let x := h.epochSt stamp
    if [cseq, nsid, ctrl, cid, opc, cset, len].any (fun v => decide (2 ^ 64 ≤ v)) then h
    else h.setEpochSt stamp { x with descs := x.descs + 1 })

/-- BAND_NOTE (R219). -/
def execBandNoteReceive (band pblk : Nat) (entry : Word) (pos epoch : Nat) (s : State) : Host.Outcome State Fault Refusal :=
  s.control 0 64 (fun h =>
    if 2 ^ 64 ≤ epoch ∨ h.bandCount ≤ band then h else (h.bandNoteIn band pblk entry.toNat pos).modSettle)

/-- STRIPE_DONE (R222). -/
def execStripeDoneReceive (stripe last : Nat) (s : State) : Host.Outcome State Fault Refusal :=
  s.control 0 64 (fun h => h.stripeDoneIn stripe last)

/-- BAND_GIVE (R217). -/
def execBandGiveReceive (bands : List Nat) (s : State) : Host.Outcome State Fault Refusal :=
  s.control 0 64 (fun h => h.giveIn bands)

/-- FLOOR (R219). -/
def execFloorReceive (e : Nat) (s : State) : Host.Outcome State Fault Refusal := s.control 0 64 (fun h => h.floorIn e)

/-- The pool identity that the twin's module reports, where this head knows none (assumption log 22, DESIGN CHOICE). -/
def Head.learnPool (h : Head) (pool : Word) : Head :=
  if h.pair.pool = 0 then { h with pair := { h.pair with pool := pool } } else h

/-- MOD_NOTE (R262, R283). -/
def execModNoteReceive (pos state posn : Nat) (pool : Word) (serial : BitVec 128) (epoch : Nat) (s : State) :
    Host.Outcome State Fault Refusal :=
  s.control 0 64 (fun h =>
    if 256 ≤ posn then h
    else
      let h := h.learnPool pool
      let h := if h.modState pos = mFailed ∧ state = mReplacing ∧ pos < 32 then
          { h with fb := { h.fb with modIds := Tbl.put h.fb.modIds pos serial } } else h
      h.modNoteIn pos state epoch)

/-- HOLE_NOTE (R264). -/
def execHoleNoteReceive (band : Nat) (entry : BitVec 128) (epoch : Nat) (s : State) : Host.Outcome State Fault Refusal :=
  s.control 0 64 (fun h => if 2 ^ 64 ≤ epoch then h else h.holeNoteIn band entry.toNat)

/-- LOST_NOTE (R272). -/
def execLostNoteReceive (stripe : Nat) (mask : BitVec 32) (epoch : Nat) (s : State) : Host.Outcome State Fault Refusal :=
  s.control 0 64 (fun h => h.enterLost stripe mask.toNat epoch)

/-- EVENT (R395): POWER_FAIL makes the twin suspect (R404). -/
def execTwinEventReceive (code side about epoch p0 p1 p2 : Nat) (s : State) : Host.Outcome State Fault Refusal :=
  s.control 0 64 (fun h =>
    let h := h.eventIn code side about epoch p0 p1 p2
    if code = 0x0006 then h.suspect 2 else h)

/-- A control SEND with an unknown MTYPE or the wrong length (R384). -/
def execControlSendUnknown (conn : Fin 2) (len : BitVec 16) (s : State) : Host.Outcome State Fault Refusal :=
  s.apply (fun h => if h.pair.deaf then h else h.authentic.controlUnknown conn len.toNat)

/-- HELLO (R401). -/
def execHelloReceive (headId role log jsize asvMax asvCur : Nat) (pool : Word) (last applied : Nat) (d : Dig) (s : State) :
    Host.Outcome State Fault Refusal :=
  s.control 0 64 (fun h => if 2 ^ 64 ≤ last then h else h.helloIn headId role log jsize asvMax asvCur pool applied d)

/-- JOIN_AT (R402, R413). -/
def execJoinAtReceive (e : Nat) (join : Bool) (s : State) : Host.Outcome State Fault Refusal :=
  s.control 0 64 (fun h => if join then h.joinAtIn e else h.formAt e)

/-- FORMED (R402). -/
def execFormedReceive (p : Nat) (s : State) : Host.Outcome State Fault Refusal := s.control 0 64 (fun h => h.formedIn p)

/-- CLOCK (R401, R43), taken in every role. -/
def execClockReceive (e0 t0 : Nat) (origin : Word) (cur next at_ : Nat) (s : State) : Host.Outcome State Fault Refusal :=
  s.control 0 64 (fun h =>
    { h with sd := { h.sd with clock := some { e0 := e0, t0 := t0, origin := origin, cur := cur, next := next, at_ := at_ } } })

/-- JOIN_OFFER (R413). -/
def execJoinOfferReceive (cut root last : Nat) (s : State) : Host.Outcome State Fault Refusal :=
  s.control 0 64 (fun h => h.offerIn cut root last)

/-- JOIN_READY (R413). -/
def execJoinReadyReceive (a : Nat) (d : Dig) (s : State) : Host.Outcome State Fault Refusal := s.control 0 64 (fun h => h.readyIn a d)

/-- LEAVE (R416). -/
def execLeaveReceive (l : Nat) (s : State) : Host.Outcome State Fault Refusal := s.control 0 64 (fun h => h.leaveIn l)

/-! ### CHRT packets and timers (R366 to R380, R391 to R396) -/

/-- A packet of a hardware connection of a twin declared failed is ignored (R411); the first that authenticates ends link formation
(R470). -/
def Head.packet (h : Head) (p : ChrtPkt) (f : Head → Head) : Head :=
  if p.conn.val < 16 ∧ h.pair.deaf then h
  else f (if p.conn.val < 16 ∧ p.frameOk ∧ p.verOk ∧ p.tagOk then h.authentic else h)

/-- CHRT WRITE (R377). -/
def execChrtWrite (p : ChrtPkt) (s : State) : Host.Outcome State Fault Refusal := s.apply (fun h => h.packet p (fun h => h.chrtWrite p))

/-- CHRT READ_REQ (R391). -/
def execChrtReadReq (p : ChrtPkt) (s : State) : Host.Outcome State Fault Refusal :=
  s.apply (fun h => h.packet p (fun h => h.chrtReadReq p))

/-- CHRT READ_RESP (R368). -/
def execChrtReadResp (p : ChrtPkt) (s : State) : Host.Outcome State Fault Refusal :=
  s.apply (fun h => h.packet p (fun h => h.chrtReadResp p))

/-- A SEND on a software connection (R390); one on a hardware connection is a control message. -/
def execSoftwareSendReceive (p : ChrtPkt) (s : State) : Host.Outcome State Fault Refusal :=
  s.apply (fun h => if p.conn.val < 16 then h else h.softSend p)

/-- ACK (R379). -/
def execChrtAck (conn : Fin 1024) (apsn : BitVec 32) (s : State) : Host.Outcome State Fault Refusal :=
  s.apply (fun h => h.acked conn apsn.toNat)

/-- The outcome of a retry: exhausted retries of a hardware connection fail the link (R380). -/
def Head.afterRetry (x : Bool × Head) (conn : Nat) : Head := if x.1 then x.2.failLink 1 conn else x.2

/-- A NAK that asks for retransmission from its APSN (R379). -/
def Head.nakRetry (h : Head) (c apsn : Nat) : Head :=
  let h := if (h.conn c).state = 1 then h.bump SD_CNT_NAKS 1 else h
  Head.afterRetry (h.retry c false (some apsn)) c

/-- NAK SEQ (R379). -/
def execChrtNakSeq (conn : Fin 1024) (apsn : BitVec 32) (s : State) : Host.Outcome State Fault Refusal :=
  s.apply (fun h => h.nakRetry conn apsn.toNat)

/-- NAK LENGTH (R379). -/
def execChrtNakLength (conn : Fin 1024) (apsn : BitVec 32) (s : State) : Host.Outcome State Fault Refusal :=
  s.apply (fun h => h.nakRetry conn apsn.toNat)

/-- NAK RNR (R379). -/
def execChrtNakRnr (conn : Fin 1024) (apsn : BitVec 32) (s : State) : Host.Outcome State Fault Refusal :=
  s.apply (fun h => h.nakRnr conn apsn.toNat)

/-- A NAK that puts the connection in the error state (R394). -/
def Head.nakFatal (h : Head) (c apsn status : Nat) : Head :=
  if (h.conn c).state ≠ 1 then h
  else
    let key := match (h.conn c).out.head?.map (·.body) with
      | some (.write _ k _) => k
      | some (.read _ k _ _) => k
      | _ => 0
    (h.bump SD_CNT_NAKS 1).connError c status apsn key

/-- NAK REMOTE_ACCESS (R394). -/
def execChrtNakRemoteAccess (conn : Fin 1024) (apsn : BitVec 32) (s : State) : Host.Outcome State Fault Refusal :=
  s.apply (fun h => h.nakFatal conn apsn.toNat 2)

/-- NAK INVALID (R394). -/
def execChrtNakInvalid (conn : Fin 1024) (apsn : BitVec 32) (s : State) : Host.Outcome State Fault Refusal :=
  s.apply (fun h => h.nakFatal conn apsn.toNat 4)

/-- CREDIT (R373, R374): over Sundog for the four virtual channels, or on a UDP connection. -/
def execChrtCredit (conn : Option (Fin 1024)) (grants : Vector (BitVec 32) 4) (s : State) : Host.Outcome State Fault Refusal :=
  s.apply (fun h =>
    if conn.isNone ∧ (h.pair.deaf ∨ h.is SD_STS_LINKUP = false) then h
    else h.creditIn (conn.map (·.val)) (grants.toList.map (·.toNat)))

/-- CNP on a UDP connection (R396). -/
def execChrtCnp (conn : Fin 1024) (s : State) : Host.Outcome State Fault Refusal := s.apply (fun h => h.connCnp conn)

/-- No ACK within the wait (R379). -/
def execChrtRetransmitTimeout (conn : Fin 1024) (s : State) : Host.Outcome State Fault Refusal :=
  s.apply (fun h => Head.afterRetry (h.retry conn true none) conn)

/-- A microsecond with placed but unacknowledged packets (R376). -/
def execChrtAckTimer (conn : Fin 1024) (s : State) : Host.Outcome State Fault Refusal :=
  s.apply (fun h => if (h.conn conn).state = 1 ∧ 0 < (h.conn conn).unacked then h.sendAck conn else h)

/-- The wait after NAK RNR ends (R379). -/
def execChrtRnrDelayExpiry (conn : Fin 1024) (s : State) : Host.Outcome State Fault Refusal := s.apply (fun h => h.rnrExpired conn)

/-- A UDP connection whose sub-port has been down for 1 s (R396). -/
def execUdpLinkDownTimeout (conn : Fin 1024) (s : State) : Host.Outcome State Fault Refusal :=
  s.apply (fun h =>
    let x := h.conn conn
    if x.udp ∧ bitAt (h.rd (FE_P_STS_SUBUP.nth (x.sub / 4))) (x.sub % 4) = false then h.connError conn 6 0 0 else h)

/-! ### Send queues (R387 to R389) -/

/-- NOP. -/
def execSqNop (conn : Fin 1024) (s : State) : Host.Outcome State Fault Refusal := s.apply (fun h => h.sqBegin conn 0)

/-- SEND. -/
def execSqSend (conn : Fin 1024) (s : State) : Host.Outcome State Fault Refusal := s.apply (fun h => h.sqBegin conn 1)

/-- WRITE. -/
def execSqWrite (conn : Fin 1024) (s : State) : Host.Outcome State Fault Refusal := s.apply (fun h => h.sqBegin conn 2)

/-- READ. -/
def execSqRead (conn : Fin 1024) (s : State) : Host.Outcome State Fault Refusal := s.apply (fun h => h.sqBegin conn 3)

/-- MR_REVOKE_DRAIN (R393). -/
def execMrRevokeDrain (s : State) : Host.Outcome State Fault Refusal := s.apply Head.mrDrain

/-! ### Lane groups, link formation and heartbeats (R363, R364, R381 to R383, R403, R470) -/

/-- A group loses signal, lock or FEC integrity (R363): one that is in use fails. -/
def execSdSignalLoss (group : Fin 6) (s : State) : Host.Outcome State Fault Refusal :=
  s.apply (fun h => if h.is (SD_G_CTL_EN.nth group) then h.failGroup group 0 else h)

/-- A group not trained within 100 ms of STARTING (R363). -/
def execGroupTrainTimeout (group : Fin 6) (s : State) : Host.Outcome State Fault Refusal :=
  s.apply (fun h => if h.rd (SD_G_STS_STATE.nth group) = uStarting then h.failGroup group 4 else h)

/-- A group misses a heartbeat (R383). -/
def execGroupHeartbeatMiss (group : Fin 6) (s : State) : Host.Outcome State Fault Refusal := s.apply (fun h => h.groupMiss group)

/-- No group active at both heads for 1 ms (R364). -/
def execLinkNoGroupTimeout (s : State) : Host.Outcome State Fault Refusal :=
  s.apply (fun h => if h.bothActive = [] then h.failLink 0 0 else h)

/-- LINK_KEY_FRAME_SEND (R470). -/
def execLinkKeyFrameSend (s : State) : Host.Outcome State Fault Refusal := s.apply Head.keyFrameSend

/-- LINK_KEY_FRAME_RECEIVE (R470). -/
def execLinkKeyFrameReceive (f : LinkKeyFrame) (s : State) : Host.Outcome State Fault Refusal := s.apply (fun h => h.keyFrameIn f)

/-- HEARTBEAT_SEND (R381, R322). -/
def execHeartbeatSend (s : State) : Host.Outcome State Fault Refusal := s.apply Head.heartbeatSend

/-- HEARTBEAT_RECEIVE (R382). Without a link key none passes its check (R369, R370). -/
def execHeartbeatReceive (group : Fin 6) (hb : Heartbeat) (s : State) : Host.Outcome State Fault Refusal :=
  s.apply (fun h => if (h.roleKey 3).isNone then h else h.authentic.heartbeatIn group hb)

/-- PAIR_HEARTBEAT_MISS (R403). -/
def execPairHeartbeatMiss (s : State) : Host.Outcome State Fault Refusal := s.apply Head.pairMiss

/-! ### Joining and leaving (R413 to R416) -/

/-- JOIN_COPY (R413). -/
def execJoinCopy (off : Nat) (span : List Byte) (data : List (Nat × List Byte)) (s : State) : Host.Outcome State Fault Refusal :=
  s.apply (fun h => h.joinCopy off span data)

/-- JOIN_BACKPRESSURE_TIMEOUT (R414). -/
def execJoinBackpressureTimeout (s : State) : Host.Outcome State Fault Refusal := s.apply Head.joinTimeout

/-- LEAVE_SEND (R416). -/
def execLeaveSend (s : State) : Host.Outcome State Fault Refusal := s.apply Head.leaveSend

end Sys2Proof.Machine
end

