-- ==== Sys2Proof/Machine/Life.lean ====
section
/-! DEFINITION. What the start and the stop of each kind of unit do (spec/18_platform.md, R480, R481; the owning chapters: R101,
R145, R305, R306, R331, R354, R362, R443, R452). -/
namespace Sys2Proof.Machine
open Reg

/-- The start steps of a unit begin: a front port takes the lane map of its split (R331), a Veil cache is invalidated (R452), and a
cluster without an active engine fails (R102). -/
def Head.unitBegin (h : Head) (u : UnitId) : Head :=
  match u with
  | .frontPort n => h.wr (FE_P_LANE_MAP.nth n) (defaultMap (h.split n))
  | .cluster n => if h.rd (CORE_CL_STS_ACTIVE.nth n) = 0 then (h.unitFailed u).1 else h
  | .veilCache n => h.veilStart n
  | _ => h

/-- The stop steps of a unit begin: the sub-ports of a front port go down, a module port is loss of reach (R306), and a lane group
leaves the active set (R363). -/
def Head.unitHalt (h : Head) (u : UnitId) : Head :=
  match u with
  | .frontPort n => h.showSubs n
  | .modulePort p => h.portHalt p
  | .laneGroup g => h.dropGroup g none
  | _ => h

/-- The machine's answer is carried out. -/
def Head.unitAct (h : Head) (u : UnitId) : UnitAct → Head
  | .nothing => h
  | .begin => h.unitBegin u
  | .halt => h.unitHalt u

/-- A write of 1 to EN is refused: a front port without its pools (R443); a retired lane group or accelerator, which does not return
to service (R23). -/
def Head.unitRefused (h : Head) (u : UnitId) : Bool :=
  match u with
  | .frontPort _ => ! h.poolsReady
  | .laneGroup g => h.is (SD_G_STS_FAILED.nth g)
  | .accelerator c a => bitAt (h.rd (ACC_CL_STS_FAILED.nth c)) a
  | _ => false

/-- Once an accelerator is no longer ON or STARTING, a job that waited for it goes to another cluster's (R145). -/
def Head.unitMoved (h : Head) (u : UnitId) : Head :=
  match u with
  | .accelerator _ _ => h.placeJobs
  | _ => h

/-- A write of a unit's EN (R480). -/
def Head.unitEnSet (h : Head) (u : UnitId) (v : Bool) : Head :=
  match u with
  | .controller c => h.ctlEnable c v
  | _ =>
    if v ∧ h.unitRefused u then
      (match u with
        | .frontPort _ => h.wr FE_ERR_CFGERR 1
        | _ => h)
    else
      let (h, act) := h.unitWrite u v
      (h.unitAct u act).unitMoved u

/-- A unit has reached ON: sub-ports come up, a lane group is trained and becomes active or a spare (R362), jobs that waited for an
accelerator are placed (R145). -/
def Head.unitOn (h : Head) (u : UnitId) : Head :=
  match u with
  | .frontPort n => h.showSubs n
  | .laneGroup g => (h.wr (SD_G_STS_TRAINED.nth g) 1).groupOn g
  | .accelerator _ _ => h.placeJobs
  | _ => h

/-- The start steps of a unit may be complete: a module port has released its module's reset (R305). -/
def Head.startReady (h : Head) (u : UnitId) : Bool :=
  match u with
  | .modulePort p => ! (h.port p).perstHeld
  | _ => true

/-- UNIT_START_COMPLETE (R480). -/
def Head.unitStartComplete (h : Head) (u : UnitId) : Head :=
  match u with
  | .controller c => h.ctlStarted c
  | _ => if h.unitState u = uStarting ∧ h.startReady u then (h.unitStarted u).unitOn u else h

/-- Every context of a cluster is idle (R101). -/
def Head.clusterIdle (h : Head) (n : Nat) : Bool :=
  h.ctxs.all (fun e => ! (isStream e.1 && ctxCluster e.1 = n) || e.2.run = .idle || e.2.run = .reset)

/-- No job runs on an accelerator (R145). -/
def Head.accIdle (h : Head) (c a : Nat) : Bool := h.jobs.all (fun e => e.2.ended.isSome || e.2.accel ≠ some (c, a))

/-- The stop steps of a unit may be complete: a module port has nothing outstanding (R306), a cluster and an accelerator are idle. -/
def Head.stopReady (h : Head) (u : UnitId) : Bool :=
  match u with
  | .modulePort p => (h.port p).outstanding = []
  | .cluster n => h.clusterIdle n
  | .accelerator c a => h.accIdle c a
  | _ => true

/-- What the end of a unit's stop leaves: no lane up, the module held in reset, no group trained, every Veil entry clean and invalid. -/
def Head.unitQuit (h : Head) (u : UnitId) : Head :=
  match u with
  | .frontPort n => h.wr (FE_P_STS_LANEUP.nth n) 0
  | .modulePort p => h.portStopped p
  | .laneGroup g => h.wr (SD_G_STS_TRAINED.nth g) 0
  | .veilCache n => h.veilStop n
  | _ => h

/-- UNIT_STOP_COMPLETE (R480). -/
def Head.unitStopComplete (h : Head) (u : UnitId) : Head :=
  match u with
  | .controller c => h.ctlStopped c
  | _ =>
    if h.unitState u = uStopping ∧ h.stopReady u then
      let (h, act) := (h.unitQuit u).unitStopped u
      (h.unitAct u act).unitMoved u
    else h

/-- UNIT_START_COMPLETE (R480). -/
def execUnitStartComplete (unit : UnitId) (s : State) : Host.Outcome State Fault Refusal :=
  s.apply (fun h => h.unitStartComplete unit)

/-- UNIT_STOP_COMPLETE (R480). -/
def execUnitStopComplete (unit : UnitId) (s : State) : Host.Outcome State Fault Refusal :=
  s.applyPort (fun h => h.unitStopComplete unit)

end Sys2Proof.Machine
end

