-- ==== Sys2Proof/Machine/Access.lean ====
section
/-! DEFINITION. Register accesses (spec/00_scope.md, R3 to R8; spec/01_architecture.md, R11; the sections "Registers" of the
chapters): who reaches which register, what a read returns, and what a plain write of a register does. What a write starts stands in
Writes.lean. -/
namespace Sys2Proof.Machine
open Reg

/-! ### Who reaches what (R3, R7, R8, R11, R120) -/

/-- The self window, of which every control core has its own copy. -/
def inSelf (a : Nat) : Bool := 0x103000000 ≤ a && a < 0x103000100

/-- The fields of the register at an address, each with the field of the map that it is an element of. -/
def fieldsAt (o : Origin) (a : Nat) : List (Field × Field) :=
  if a < regBase ∨ billowBase ≤ a then []
  else
    let fs := (block ((a - regBase) / 2 ^ 24)).flatMap (fun (f : Field) => (f.covering a).map (fun (e : Field) => (f, e)))
    if inSelf a then
      (match o with
        | .core n => fs.map (fun (p : Field × Field) => (p.1, p.2.ofCore n.val))
        | _ => [])
    else fs

/-- The level at which an access is made (R8, R511): an engine is at C, the service port at S; in recovery the service port starts VERIFY
through DAY_CMD (R501). -/
def Head.accessLevel (h : Head) (x : Access) (a : Nat) : Level :=
  match x.origin with
  | .core _ => x.level
  | .engine .. => .c
  | .service => if h.is DAY_STS_RECOVERY ∧ a = DAY_CMD_OP.addr then .v else .s

/-- The level reaches the register (R7, R11): the least privileged level of its fields; with no register there, V. -/
def levelReaches (l : Level) (fs : List (Field × Field)) : Bool :=
  if fs = [] then decide (l = .v) else fs.any (fun p => l.reaches p.1.level)

/-- An access that is turned away (R3, R8, R120), with its answer. The level is checked first, then alignment, then width. -/
def Head.turnedAway (h : Head) (x : Access) (a : Nat) : Option BusReply :=
  let r := a / 8 * 8
  let service : Bool := x.origin = .service
  if levelReaches (h.accessLevel x r) (fieldsAt x.origin r) = false then some (if service then .abort else .exception excPriv)
  else if (if service then a % 8 ≠ 0 else a % x.size.val ≠ 0) then some (if service then .busError else .exception excAlign)
  else if x.size ≠ 8 then some (if service then .busError else .exception excBusErr)
  else none

/-- The service port's requests are served (R511). -/
def Head.served (h : Head) (o : Origin) : Bool :=
  match o with
  | .service => h.is PLT_STRAP_SVCEN && ! h.plt.svcReset
  | _ => true

/-! ### Reads (R5, R8) -/

/-- Fields that are computed when they are read: the watchdog's remainder (R500), the free log entries (R489), the slot query of
Umbra, and the digest units' test flag. -/
def Head.computed (h : Head) (f : Field) : Option Nat :=
  let slot := h.rd UMB_SLOTQ_SLOT
  let key := h.slotKey slot
  if f = PLT_WDOG_REMAIN then
    some (if h.is PLT_WDOG_EN then ((h.plt.wdogStart + h.rd PLT_WDOG_PERIOD * 25000) - h.mer.sinceReset) / 25000 else 0)
  else if f = DAY_STS_LOGFREE then some h.logFree
  else if f = UMB_SLOTINFO_STATE then some (if h.slotFailed slot then 2 else if key.isSome then 1 else 0)
  else if f = UMB_SLOTINFO_KIND then some ((key.map (·.kind)).getD 0)
  else if f = UMB_SLOTINFO_USE then some ((key.map (·.use)).getD 0)
  else if f = UMB_KEYID_KEYID then some ((key.map (·.keyid)).getD 0)
  else none

/-- A field is read: WO reads zero, RC is cleared (R5), and UMB_RAND draws fresh bits, or zero once the source has failed (R460). -/
def Head.readField (h : Head) (p : Field × Field) : Nat × Head :=
  if p.1 = UMB_RAND_VALUE then
    (if h.is UMB_STS_RNGOK then let (w, h) := h.draw; (w.toNat, h) else (0, h))
  else
    match p.2.acc with
    | .wo => (0, h)
    | .rc => (h.rd p.2, h.wr p.2 0)
    | _ => ((h.computed p.1).getD (h.rd p.2), h)

/-- The reachable fields of a register are read together; the others read as zero (R8). -/
def Head.readFields (h : Head) (l : Level) : List (Field × Field) → Nat × Head
  | [] => (0, h)
  | p :: t =>
    if l.reaches p.1.level then
      let (v, h) := h.readField p
      let (w, h) := h.readFields l t
      (v * 2 ^ p.2.lo + w, h)
    else h.readFields l t

/-- What a read of a register brings about: the latches of MER_EPOCH (R49) and CMT_APPLIED (R83), and registers that show a count. -/
def Head.beforeRead (h : Head) (a : Nat) : Head :=
  if a = MER_EPOCH_EPOCH.addr then h.latchEpoch
  else if a = CMT_APPLIED_EPOCH.addr then
    (List.range 4).foldl (fun (h : Head) i => h.wr (CMT_DIGEST_D.nth i) (h.cmt.digest.toNat / 2 ^ (64 * i))) h
  else if a = FE_STS_NOTREADY.addr ∨ a = FE_ADMIT_MAX.addr then h.showGates
  else if a = CX_FREE_COUNT.addr ∨ a = CX_LIVE_COUNT.addr then h.showIds
  else h

/-- A register read that is not turned away. -/
def Head.readRegister (h : Head) (x : Access) (a : Nat) : Word × Head :=
  let (v, h) := (h.beforeRead a).readFields (h.accessLevel x a) (fieldsAt x.origin a)
  (BitVec.ofNat 64 v, h)

/-- A register read (R3, R8). -/
def Head.busRead (h : Head) (x : Access) (a : Nat) : BusReply × Head :=
  match h.turnedAway x a with
  | some r => (r, h)
  | none => let (v, h) := h.readRegister x a; (.value v, h)

/-! ### The ranges stated for fields -/

/-- The lowest and the highest value a write may give a field. -/
def ranges : List (Field × Nat × Nat) := [
  (PLT_WDOG_PERIOD, 100, 60000), (PLT_THERM_THROTTLE, 85, 120), (PLT_THERM_HYST, 1, 15), (DAY_CTL_WINDOW, 60, 3600),
  (DAY_LEN_LEN, 1, 2 ^ 28 - 1), (OBS_CTL_EPLOG, 0, 24),
  (FE_CTL_ACKTO, 4, 1000), (FE_ADMIT_MAX, 1024, 262144), (FE_CC_CNPINT, 1, 255), (FE_CC_RAI, 1, 65535),
  (FE_CC_RECOVER, 1, 65535), (FE_CC_MINRATE, 1, 4000), (FE_PTP_ENCAP, 0, 2), (FE_P_CTL_MAXFRAME, 1518, 9216),
  (FE_P_CTL_PMTU, 1, 3),
  (MER_CTL_SLEW, 1, 100), (MER_CTL_PTPWIN, 1, 255), (MER_HOLDMAX_HOLDMAX, 25000000, 250000000), (CMT_CTL_LAGMAX, 8, 256),
  (CMT_CTL_SEALMAX, 1, 255), (CMT_CTL_JLOW, 64, 4096), (CMT_JSIZE_GIB, 2, 16),
  (CORE_RTROWS_ROWS, 1, 16384)]

/-- The ranges of the other chapters. -/
def rangesMore : List (Field × Nat × Nat) := [
  (CX_CTL_LOG, 24, 34), (CX_IDLOW_IDLOW, 65536, 16777215),
  (FB_CTL_HEADBP, 10, 1000), (FB_CTL_FGBP, 0, 4000), (FB_CTL_BGBP, 0, 4000), (FB_CTL_CLOSEMAX, 16, 4095), (FB_CTL_FGMIN, 16, 65535),
  (FB_GEOM0_MODS, 3, 32), (FB_GEOM0_SPBF, 4, 128), (FB_GEOM0_SPB1, 1, 128), (FB_GEOM1_ROWS, 1, 2 ^ 24 - 1), (FB_MPSIZE_GIB, 8, 4096),
  (FB_GC_BGMAX, 1, 10000), (FB_GC_WEARGAP, 50, 65535), (FB_PATROL_DAYS, 1, 90), (FB_PATROL_THRESH, 1, 255), (FB_CKCTL_SWEEPLOG, 14, 20),
  (PAR_CTL_ABSENTS, 1, 3600),
  (ML_CTL_TREAD, 1, 4095), (ML_CTL_TPROG, 1, 4095), (ML_CTL_TERASE, 1, 4095),
  (SD_CTL_RTO0, 2, 63), (SD_CTL_RTOMAX, 64, 1000), (SD_CTL_UDPPORT, 1024, 65535), (SD_MRBASE_LOG, 4, 24), (SD_PAIR_CTL_HBSLACK, 25, 400),
  (MEM_CFG_DPC, 1, 2), (MEM_CFG_WBITS, 16, 17), (MEM_CTL_RATE, 0, 4), (MEM_PPRTHR_ROWCE, 1, 255), (BLW_POOL_CNT_COUNT, 0, 1048576)]

/-- A value lies within the range stated for a field. -/
def inRange (f : Field) (v : Nat) : Bool :=
  match (ranges ++ rangesMore).find? (fun r => r.1 = f) with
  | some r => decide (r.2.1 ≤ v) && decide (v ≤ r.2.2)
  | none => true

/-! ### Checks against the rest of the state -/

/-- The one write of an RWO field has been made (R5). -/
def Head.written (h : Head) (f : Field) : Bool := h.rwo.contains f.key

/-- The tables of R194, R218 and R264 in DRAM, with their start and size as far as the registers written tell it. -/
def Head.dramTables (h : Head) : List (Field × Nat × Nat) :=
  let log := h.rd CX_CTL_LOG
  let cx (n : Nat) : Nat := if log = 0 then 1 else 2 ^ (log + n)
  let t (f : Field) (size : Nat) : Field × Nat × Nat := (f, h.rd f * 2 ^ 30, max 1 size)
  [t CX_IDXBASE_BASE (cx 6), t CX_RECBASE_BASE (cx 7), t CX_OWNBASE_BASE (cx 5), t FB_BTBASE_BASE (32 * h.bandCount),
    t FB_RMBASE_BASE (128 * (h.rd FB_GEOM1_ROW0 + h.rd FB_GEOM1_ROWS)), t FB_MPBASE_BASE (h.rd FB_MPSIZE_GIB * 2 ^ 30), t PAR_HTBASE_BASE (16 * h.bandCount)]

/-- A table at a new base lies within installed DRAM (R195, R253, R284). -/
def Head.tableInDram (h : Head) (f : Field) (v : Nat) : Bool :=
  (h.dramTables).any (fun t => t.1 = f && h.inDram (v * 2 ^ 30) t.2.2)

/-- A table at a new base overlaps no other table and not the journal (R253, R284). -/
def Head.tableApart (h : Head) (f : Field) (v : Nat) : Bool :=
  let start := v * 2 ^ 30
  let size := (((h.dramTables).find? (fun t => t.1 = f)).map (fun t => t.2.2)).getD 1
  let apart (a n : Nat) : Bool := decide (start + size ≤ a) || decide (a + n ≤ start)
  (h.dramTables).all (fun t => t.1 = f || ! h.written t.1 || apart t.2.1 t.2.2)
    && (! (h.written CMT_JBASE_BASE && h.written CMT_JSIZE_GIB) || apart h.journal.1 h.journal.2)

/-- The journal's base, and with both written its whole range, lies within installed DRAM (R83). -/
def Head.journalOk (h : Head) (base gib : Nat) (both : Bool) : Bool :=
  if both then h.inDram base (gib * 2 ^ 30) else h.inDram base 1

/-- The checks of a field beyond its range, for the value `v` it would take from a whole register value `w`. -/
def Head.fieldCheck (h : Head) (f e : Field) (w v : Nat) : Bool :=
  if f = CMT_JBASE_BASE then v % 2 ^ 30 = 0 && h.journalOk v (h.rd CMT_JSIZE_GIB) (h.written CMT_JSIZE_GIB)
  else if f = CMT_JSIZE_GIB then ! h.written CMT_JBASE_BASE || h.journalOk (h.rd CMT_JBASE_BASE) v true
  else if f = CX_IDXBASE_BASE ∨ f = CX_RECBASE_BASE ∨ f = CX_OWNBASE_BASE then w % 2 ^ 30 = 0 && h.tableInDram f v
  else if f = FB_BTBASE_BASE ∨ f = FB_RMBASE_BASE ∨ f = FB_MPBASE_BASE ∨ f = PAR_HTBASE_BASE then
    w % 2 ^ 30 = 0 && h.tableInDram f v && h.tableApart f v
  else if f = FB_CTL_FGBP then decide (bitsAt w 0 10 < v)
  else if f = FB_CTL_BGBP then decide (bitsAt w 12 12 < v)
  else if f = FB_GEOM0_SPB1 then decide (v ≤ bitsAt w 8 8)
  else if f = FE_ANA_GRP then v = 15 || (decide (1 ≤ v) && decide (v ≤ 4))
  else if f = FE_P_CTL_PFC then decide (popN 8 v ≤ 2)
  else if f = ML_P_SWCQ_BASE then h.inMemory (v * 65536) 65536
  else if f = SD_CNBASE_BASE then w % 2 ^ 16 = 0 && h.inMemory (v * 2 ^ 16) 1
  else if f = SD_SWCQ_BASE then w % 2 ^ 20 = 0 && h.inMemory (v * 2 ^ 20) 1
  else if f = SD_MRBASE_BASE then bitsAt w 5 7 = 0 && h.inMemory (v * 4096) 1
  else if f = SD_EVRING_BASE then bitsAt w 8 6 = 0 && h.inMemory (v * 16384) 1
  else if f = MEM_CFG_CHANS then v = 8 || v = 12
  else if f = MEM_STIM_SET ∨ f = MEM_SDLY_SET then ! h.is MEM_STS_FCHGBUSY
  else if f = BLW_POOL_BASE_BASE then ! h.is BLW_CTL_LOCK && h.inMemory (v * 4096) 1
  else if f = BLW_POOL_CNT_COUNT then ! h.is BLW_CTL_LOCK
  else if f = BLW_POOL_RES_HOST then
    decide (bitsAt w 0 16 + bitsAt w 16 16 + bitsAt w 32 16 + bitsAt w 48 16
      ≤ h.rd { BLW_POOL_CNT_COUNT with addr := e.addr - 8 })
  else if f = OBS_SNAPLIST_ADDR then v = 0 || (decide (regBase ≤ v) && decide (v < billowBase))
  else true

/-! ### Plain writes -/

/-- A write of a register that is not turned away. -/
structure RegWrite where
  origin : Origin
  level : Level
  index : Nat
  value : Nat
  fields : List (Field × Field)
  deriving DecidableEq, Repr

/-- The value a write gives a field. -/
def RegWrite.val (x : RegWrite) (f : Field) : Nat := bitsAt x.value f.lo f.width

/-- The address of the register, or of the first register of an array of them. -/
def RegWrite.base (x : RegWrite) : Nat := ((x.fields.head?).map (fun p => p.1.addr)).getD 0

/-- The write reaches a field (R8). -/
def RegWrite.reaches (x : RegWrite) (f : Field) : Bool := x.level.reaches f.level

/-- The fields that a plain write changes. -/
def RegWrite.open_ (x : RegWrite) (skip : List Field) : List (Field × Field) :=
  x.fields.filter (fun (p : Field × Field) => x.reaches p.1 && ! skip.contains p.1)

/-- A write gives no field a value outside what is stated for it; a field that the write does not change is not looked at. -/
def Head.writeOk (h : Head) (x : RegWrite) (skip : List Field) : Bool :=
  (x.open_ skip).all (fun (p : Field × Field) =>
    match p.2.acc with
    | .rw => inRange p.1 (x.val p.2) && h.fieldCheck p.1 p.2 x.value (x.val p.2)
    | .rwo => h.written p.2 || (inRange p.1 (x.val p.2) && h.fieldCheck p.1 p.2 x.value (x.val p.2))
    | _ => true)

/-- One field takes its value (R5). -/
def Head.writeField (h : Head) (f : Field) (v : Nat) : Head :=
  match f.acc with
  | .rw => h.wr f v
  | .rwo => if h.written f then h else { (h.wr f v) with rwo := f.key :: h.rwo }
  | .w1c => h.wr f (h.rd f - (h.rd f &&& v))
  | .w1s => h.wr f (h.rd f ||| v)
  | _ => h

/-- The CFGERR flag of the prefix that a register address belongs to; OBS_, CORE_ and ACC_ have none. -/
def cfgErr (a : Nat) : Option Field :=
  let off := (a - regBase) % 2 ^ 24
  match (a - regBase) / 2 ^ 24 with
  | 0 => if off < 0x1000 then some PLT_ERR_CFGERR else if off < 0x2000 then some DAY_ERR_CFGERR
    else if off < 0x3000 then some AG_ERR_CFGERR else none
  | 1 => some FE_ERR_CFGERR
  | 2 => some (if off < 0x100 then MER_ERR_CFGERR else CMT_ERR_CFGERR)
  | 5 => some CX_ERR_CFGERR
  | 6 => some FB_ERR_CFGERR
  | 7 => some PAR_ERR_CFGERR
  | 8 => some ML_ERR_CFGERR
  | 9 => some (if off < 0x200 then SD_ERR_CFGERR else SD_PAIR_ERR_CFGERR)
  | 10 => some (if off < 0x1000 ∨ 0x4000 ≤ off then MEM_ERR_CFGERR else if off < 0x2000 then BLW_ERR_CFGERR else VEIL_ERR_CFGERR)
  | 11 => some UMB_ERR_CFGERR
  | _ => none

/-- A write was ignored: CFGERR of its prefix is set. -/
def Head.cfgErrAt (h : Head) (a : Nat) : Head :=
  match cfgErr a with
  | some f => h.wr f 1
  | none => h

/-- The fields of a write take their values. -/
def Head.writeFields (h : Head) (x : RegWrite) (skip : List Field) : Head :=
  (x.open_ skip).foldl (fun (h : Head) p => h.writeField p.2 (x.val p.2)) h

/-- A plain write and what follows it where it is not ignored: a write outside what is stated is ignored as a whole and sets CFGERR. -/
def Head.plainThen (h : Head) (x : RegWrite) (skip : List Field) (f : Head → Head) : Head :=
  if h.writeOk x skip then f (h.writeFields x skip) else h.cfgErrAt x.base

/-- A plain write. -/
def Head.plain (h : Head) (x : RegWrite) : Head := h.plainThen x [] id

end Sys2Proof.Machine
end

