-- ==== Sys2Proof/Machine/Writes.lean ====
section
/-! DEFINITION. What a write of each register starts, and the commands that are register accesses (spec/00_scope.md, R3 to R8; the
rules of the chapters named at each definition). -/
namespace Sys2Proof.Machine
open Reg

/-! ### What a write starts, by subsystem -/

/-- Platform, DAY_, AG_ and OBS_ registers (R483, R487, R499, R500, R507, R508). -/
def Head.writePlatform (h : Head) (x : RegWrite) : Head :=
  if x.base = PLT_RST_GO.addr then (if bitAt x.value 0 then h.softReset (bitAt x.value 1) else h)
  else if x.base = PLT_WDOG_PERIOD.addr then
    h.plainThen x [] (fun n =>
      if bitAt x.value 17 ∨ (h.is PLT_WDOG_EN = false ∧ n.is PLT_WDOG_EN) then n.wdogRestart else n)
  else if x.base = DAY_CMD_OP.addr then h.dayGo (bitsAt x.value 0 4) (bitsAt x.value 4 2) (bitsAt x.value 6 2)
  else if x.base = DAY_CONFIRM_GO.addr then (if bitAt x.value 0 then h.dayConfirm else h)
  else if x.base = AG_POST_POST.addr then h.agPost x.origin x.level (BitVec.ofNat 64 x.value)
  else if x.base = OBS_CTL_LANEEN.addr then h.plainThen x [] (fun n => if bitAt x.value 9 then n.agReplay else n)
  else h.plain x

/-- The control register of front port `p` (R331, R443): SPLIT changes only in OFF, SUBEN keeps the bits the split has, EN follows the
life-cycle. A refused SPLIT or EN leaves the other fields their effect. -/
def Head.writePort (h : Head) (p : Fin 8) (x : RegWrite) : Head :=
  h.plainThen x [FE_P_CTL_SPLIT, FE_P_CTL_SUBEN, FE_P_CTL_EN] (fun n =>
    let split := bitsAt x.value 1 2
    let n := if split = n.rd (FE_P_CTL_SPLIT.nth p) then n
      else if split = 3 ∨ n.unitState (.frontPort p) ≠ uOff then n.wr FE_ERR_CFGERR 1
      else n.wr (FE_P_CTL_SPLIT.nth p) split
    let n := n.wr (FE_P_CTL_SUBEN.nth p) (((subports (n.split p)).filter (bitAt (bitsAt x.value 4 4))).foldl setBitN 0)
    (n.showSubs p).unitEnSet (.frontPort p) (bitAt x.value 0))

/-- The front complex's registers (R331, R351, R354, R356). -/
def Head.writeFront (h : Head) (x : RegWrite) : Head :=
  if x.base = FE_ADMIT_MAX.addr then h.plainThen x [] Head.showGates
  else if x.base = FE_ANA_GRP.addr then h.plainThen x [] (fun n => n.anaReport h)
  else if x.base = FE_P_CTL_EN.addr then h.writePort (Fin.ofNat 8 x.index) x
  else if x.base = FE_C_CTL_EN.addr then
    let n := h.unitEnSet (.controller (Fin.ofNat 4096 x.index)) (bitAt x.value 0)
    if bitAt x.value 1 then n.ctlEnd x.index else n
  else h.plain x

/-- Once the journal is designated, its dump must fit the dump rows of a pool already known (R279); a pool named later is checked when it is
formed. -/
def Head.journalDesignated (h : Head) : Head :=
  if h.written CMT_JBASE_BASE ∧ h.written CMT_JSIZE_GIB ∧ h.mods ≠ 0 ∧ h.rd FB_GEOM1_ROWS ≠ 0 then h.dumpSpaceCheck else h

/-- Meridian's and the commit registers (R29, R39, R43, R48). -/
def Head.writeEpochs (h : Head) (x : RegWrite) : Head :=
  if x.base = MER_CTL_PRI0.addr then h.plainThen x [] Head.twinExit
  else if x.base = MER_EPLEN_CUR.addr then (if x.reaches MER_EPLEN_NEXT then h.writeEplenNext (bitsAt x.value 16 11) else h)
  else if x.base = MER_EPLEN_AT_AT.addr then h.writeEplenAt (bitsAt x.value 0 63)
  else if x.base = CMT_JBASE_BASE.addr ∨ x.base = CMT_JSIZE_GIB.addr then h.plainThen x [] Head.journalDesignated
  else if x.base = MER_SEED_SEED.addr then h.writeSeed (bitsAt x.value 0 63)
  else if x.base = MER_BUDA_GC.addr then h.writeBudget false (BitVec.ofNat 64 x.value)
  else if x.base = MER_BUDB_CKPT.addr then h.writeBudget true (BitVec.ofNat 64 x.value)
  else h.plain x

/-- CORE_DBELL (R98): DOORBELL becomes pending at each core named. -/
def Head.ringDoorbells (h : Head) (v : Nat) : Head := (bitsSet 32 v).foldl (fun (h : Head) c => h.raise c 1) h

/-- CORE_RELEASE (R485): ignored before the DRAM fill is complete; a released core runs at level V from the reset value of its program
counter. -/
def Head.releaseCores (h : Head) (v : Nat) : Head :=
  if h.is MEM_STS_FILLDONE = false then h
  else
    ((bitsSet 32 v).filter (fun c => c ≠ 0)).foldl (fun (h : Head) c =>
      let h := h.wrBit CORE_RELEASE_CORE (c - 1) true
      if (h.ctx c).run = .reset then h.setCtx c { h.ctx c with run := .running } else h) h

/-- The Terdan registers (R88, R98, R101, R485): the saved ST keeps the bits that ST has. -/
def Head.writeCores (h : Head) (x : RegWrite) : Head :=
  if x.base = CORE_EST_S_ST.addr ∨ x.base = CORE_EST_V_ST.addr then h.plain { x with value := bitsAt x.value 0 5 }
  else if x.base = CORE_DBELL_RING.addr then h.ringDoorbells x.value
  else if x.base = CORE_RELEASE_CORE.addr then h.releaseCores x.value
  else if x.base = CORE_CL_CTL_EN.addr then
    h.plainThen x [CORE_CL_CTL_EN] (fun n => n.unitEnSet (.cluster (Fin.ofNat 24 x.index)) (bitAt x.value 0))
  else h.plain x

/-- The accelerators' registers (R145, R175). -/
def Head.writeAcc (h : Head) (x : RegWrite) : Head :=
  if x.base = ACC_CL_CTL_EN.addr then
    (List.range 12).foldl (fun (h : Head) a =>
      h.unitEnSet (.accelerator (Fin.ofNat 24 x.index) (Fin.ofNat 12 a)) (bitAt x.value a)) h
  else if x.base = ACC_QW_CTL_QUEUE.addr then h.armWatch x.index x.value
  else if x.base = ACC_QW_THR_THRESH.addr then h.plainThen x [] (fun n => n.watch x.index)
  else h.plain x

/-- The redundancy registers (R261, R281): FORCE needs level V, which is above the register's. -/
def Head.writeRedundancy (h : Head) (x : RegWrite) : Head :=
  if x.base = PAR_DUMP_COPIES.addr then (if x.reaches PAR_DUMP_FORCE ∧ bitAt x.value 4 then h.dumpForce else h)
  else if x.base = PAR_MOD_STATE.addr then
    (if x.reaches PAR_MOD_FAIL = false then h
    else
      let h := if bitAt x.value 8 then h.modFailed x.index 1 else h
      if bitAt x.value 9 then h.modAccept x.index else h)
  else h.plain x

/-- The module link's registers (R306, R328). -/
def Head.writeModuleLink (h : Head) (x : RegWrite) : Head :=
  if x.base = ML_P_CTL_EN.addr then h.unitEnSet (.modulePort (Fin.ofNat 32 x.index)) (bitAt x.value 0)
  else h.plain x

/-- Sundog's and the pairing registers (R363, R386, R391, R393, R412, R416, R420). -/
def Head.writeSundog (h : Head) (x : RegWrite) : Head :=
  if x.base = SD_MRREG_INDEX.addr then h.mrReg (bitsAt x.value 0 24)
  else if x.base = SD_MRREV_INDEX.addr then h.mrRev (bitsAt x.value 0 24)
  else if x.base = SD_CNCTL_CONN.addr then
    (if bitsAt x.value 10 2 = 1 then h.openConn (bitsAt x.value 0 10)
    else if bitsAt x.value 10 2 = 2 then h.resetConn (bitsAt x.value 0 10)
    else h.wr SD_ERR_CFGERR 1)
  else if x.base = SD_G_CTL_EN.addr then h.unitEnSet (.laneGroup (Fin.ofNat 6 x.index)) (bitAt x.value 0)
  else if x.base = SD_PAIR_CTL_HBSLACK.addr then
    h.plainThen x [] (fun n =>
      let n := if bitAt x.value 10 then n.leaveWrite else n
      if bitAt x.value 11 then n.claim else n)
  else if x.base = SD_SYNC_EPOCH.addr then h.syncWrite (bitsAt x.value 0 63)
  else if x.base = SD_SYNCGRP_MASK.addr then h.syncGroups x.index x.value
  else h.plain x

/-- MEM_TEST (R440): EN, and the operation, which is ignored while EN is 0. -/
def Head.writeTest (h : Head) (x : RegWrite) : Head :=
  let on := bitAt x.value 0
  let h := (h.wr MEM_TEST_EN on.toNat).wr MEM_STS_TEST on.toNat
  if on = false then h
  else
    match bitsAt x.value 1 2 with
    | 1 => h.testRead
    | 2 => h.testWrite
    | 3 => h.testCheckWrite
    | _ => h

/-- The memory registers (R429, R433, R440, R442, R452, R453). -/
def Head.writeMemory (h : Head) (x : RegWrite) : Head :=
  if x.base = MEM_CTL_RATE.addr then
    h.plainThen x [] (fun n =>
      let n := if bitAt x.value 3 then n.memGo else n
      if bitAt x.value 4 then n.memFchg else n)
  else if x.base = MEM_TEST_EN.addr then h.writeTest x
  else if x.base = BLW_CTL_LOCK.addr then
    h.plainThen x [] (fun n => if h.is BLW_CTL_LOCK = false ∧ n.is BLW_CTL_LOCK then n.lockPools else n)
  else if x.base = BLW_POOL_CNT_COUNT.addr then h.plainThen x [] (fun n => n.showPool x.index)
  else if x.base = VEIL_C_CTL_EN.addr then h.unitEnSet (.veilCache (Fin.ofNat 28 x.index)) (bitAt x.value 0)
  else if x.base = VEIL_OP_OP.addr then h.veilOp x.level x.value
  else h.plain x

/-- UMB_CMD (R465, R466, R477): ignored with CFGERR while an operation runs; an operation number without a meaning ends with BAD_OP. -/
def Head.umbCmd (h : Head) (o : Origin) (l : Level) (v : Nat) : Head :=
  let slot := bitsAt v 16 16
  if h.is UMB_CMDSTS_BUSY then h.wr UMB_ERR_CFGERR 1
  else
    match bitsAt v 0 4 with
    | 1 => h.umbNonce
    | 2 => h.umbUnlock o l
    | 3 => h.umbImport o l
    | 4 => h.umbLoadAkek o l
    | 5 => h.umbUnwrap o l slot
    | 6 => h.umbZero slot
    | 7 => h.umbDikpub o l
    | 8 => h.umbOwn o l
    | 9 => h.umbTestEntry o l
    | _ => h.umbStart 1

/-- Umbra's registers (R458, R465, R475). -/
def Head.writeUmbra (h : Head) (x : RegWrite) : Head :=
  if x.base = UMB_CMD_OP.addr then h.umbCmd x.origin x.level x.value
  else if x.base = UMB_DEVMAP_SLOT.addr then h.writeDevmap x.index x.value
  else if x.base = UMB_DG_CTL_ALG.addr then
    h.plainThen x [] (fun n => if bitAt x.value 3 then n.dgGo x.index else n)
  else h.plain x

/-- A write of a register, by its subsystem (R10). -/
def Head.writeRegister (h : Head) (x : RegWrite) : Head :=
  if x.fields = [] then h
  else
    match (x.base - regBase) / 2 ^ 24 with
    | 0 => h.writePlatform x
    | 1 => h.writeFront x
    | 2 => h.writeEpochs x
    | 3 => h.writeCores x
    | 4 => h.writeAcc x
    | 5 => h.plainThen x [] Head.showIds
    | 6 => h.plainThen x [] (fun n => if x.base = FB_PCL_BUF.addr then n.showDirect else n)
    | 7 => h.writeRedundancy x
    | 8 => h.writeModuleLink x
    | 9 => h.writeSundog x
    | 10 => h.writeMemory x
    | 11 => h.writeUmbra x
    | _ => h.plain x

/-- The place of a register in its array: the first index of R5's registers that repeat. -/
def indexAt (fs : List (Field × Field)) (a : Nat) : Nat :=
  match fs with
  | p :: _ => (a - p.1.addr) / p.1.s1
  | [] => 0

/-- A register write (R3, R8): its answer, and its effect where it is not turned away. -/
def Head.busWrite (h : Head) (x : Access) (a : Nat) (v : Word) : BusReply × Head :=
  match h.turnedAway x a with
  | some r => (r, h)
  | none =>
    let fs := fieldsAt x.origin a
    (.done, h.writeRegister { origin := x.origin, level := h.accessLevel x a, index := indexAt fs a, value := v.toNat, fields := fs })

/-! ### Accesses as commands -/

/-- The context that makes an access, none for the service port. -/
def originCtx : Origin → Option Nat
  | .core n => some (ctxKey (.core n))
  | .engine c e x => some (ctxKey (.stream c e x))
  | .service => none

/-- The answer to an access reaches its requester: an exception is taken by the context that made it (R8, R120). -/
def Head.answer (h : Head) (o : Origin) (a : Nat) (store : Bool) (r : BusReply) : Head :=
  let h := h.reply r
  match r, originCtx o with
  | .exception code, some k => if (h.ctx k).run = .running then h.except k code { addr := a, store := store, fetch := false } else h
  | _, _ => h

/-- A register write as a command (R8). -/
def Head.writeCmd (h : Head) (x : Access) (a : Nat) (v : Word) : Head :=
  if h.served x.origin = false then h
  else
    let (r, h) := h.busWrite x a v
    h.answer x.origin a true r

/-- A register read as a command (R5, R8). -/
def Head.readCmd (h : Head) (x : Access) (a : Nat) : Head :=
  if h.served x.origin = false then h
  else
    let (r, h) := h.busRead x a
    h.answer x.origin a false r

/-- A command that is a register write; a reset may follow from it, and a dump may end. -/
def State.write (s : State) (x : Access) (a : Nat) (v : Word) : Host.Outcome State Fault Refusal :=
  s.applyPort (fun h => h.writeCmd x a v)

/-- A command that is a register read. -/
def State.read (s : State) (x : Access) (a : Nat) : Host.Outcome State Fault Refusal := s.apply (fun h => h.readCmd x a)

/-- REGISTER_WRITE (R8). -/
def execRegisterWrite (a : Access) (addr : BitVec 48) (v : Word) (s : State) : Host.Outcome State Fault Refusal :=
  s.write a addr.toNat v

/-- RC_FIELD_READ (R5). -/
def execRcFieldRead (a : Access) (addr : BitVec 48) (s : State) : Host.Outcome State Fault Refusal := s.read a addr.toNat

/-- UNIT_EN_WRITE (R480): a write of the register that holds the unit's EN. -/
def execUnitEnWrite (a : Access) (unit : UnitId) (v : Word) (s : State) : Host.Outcome State Fault Refusal :=
  s.write a (unitFields unit).1.addr v

/-- MER_SEED_WRITE (R43). -/
def execMerSeedWrite (a : Access) (v : Word) (s : State) : Host.Outcome State Fault Refusal := s.write a MER_SEED_SEED.addr v

/-- MER_EPLEN_NEXT_WRITE (R29). -/
def execMerEplenNextWrite (a : Access) (v : Word) (s : State) : Host.Outcome State Fault Refusal := s.write a MER_EPLEN_NEXT.addr v

/-- MER_EPLEN_AT_WRITE (R29). -/
def execMerEplenAtWrite (a : Access) (v : Word) (s : State) : Host.Outcome State Fault Refusal := s.write a MER_EPLEN_AT_AT.addr v

/-- MER_BUDGET_WRITE (R48): MER_BUDA, or MER_BUDB. -/
def execMerBudgetWrite (a : Access) (second : Bool) (v : Word) (s : State) : Host.Outcome State Fault Refusal :=
  s.write a (if second then MER_BUDB_CKPT.addr else MER_BUDA_GC.addr) v

/-- MER_EPOCH_READ (R49). -/
def execMerEpochRead (a : Access) (s : State) : Host.Outcome State Fault Refusal := s.read a MER_EPOCH_EPOCH.addr

/-- CMT_JBASE_WRITE (R83). -/
def execCmtJbaseWrite (a : Access) (v : Word) (s : State) : Host.Outcome State Fault Refusal := s.write a CMT_JBASE_BASE.addr v

/-- CMT_JSIZE_WRITE (R83). -/
def execCmtJsizeWrite (a : Access) (v : Word) (s : State) : Host.Outcome State Fault Refusal := s.write a CMT_JSIZE_GIB.addr v

/-- CMT_APPLIED_READ (R83). -/
def execCmtAppliedRead (a : Access) (s : State) : Host.Outcome State Fault Refusal := s.read a CMT_APPLIED_EPOCH.addr

/-- CORE_DBELL_WRITE (R98). -/
def execCoreDbellWrite (a : Access) (v : Word) (s : State) : Host.Outcome State Fault Refusal := s.write a CORE_DBELL_RING.addr v

/-- CORE_RELEASE_WRITE (R485). -/
def execCoreReleaseWrite (a : Access) (v : Word) (s : State) : Host.Outcome State Fault Refusal := s.write a CORE_RELEASE_CORE.addr v

/-- ACC_QW_ARM_WRITE (R175). -/
def execAccQwArmWrite (a : Access) (w : Fin 32) (v : Word) (s : State) : Host.Outcome State Fault Refusal :=
  s.write a (ACC_QW_CTL_ARM.nth w).addr v

/-- PAR_MOD_FAIL_WRITE (R261). -/
def execParModFailWrite (a : Access) (pos : Fin 32) (v : Word) (s : State) : Host.Outcome State Fault Refusal :=
  s.write a (PAR_MOD_FAIL.nth pos).addr v

/-- PAR_MOD_ACCEPT_WRITE (R261). -/
def execParModAcceptWrite (a : Access) (pos : Fin 32) (v : Word) (s : State) : Host.Outcome State Fault Refusal :=
  s.write a (PAR_MOD_ACCEPT.nth pos).addr v

/-- PAR_DUMP_FORCE_WRITE (R281). -/
def execParDumpForceWrite (a : Access) (v : Word) (s : State) : Host.Outcome State Fault Refusal := s.write a PAR_DUMP_FORCE.addr v

/-- FE_ANA_WRITE (R351). -/
def execFeAnaWrite (a : Access) (i : Fin 16) (v : Word) (s : State) : Host.Outcome State Fault Refusal :=
  s.write a (FE_ANA_GRP.nth i).addr v

/-- FE_KILL_WRITE (R356). -/
def execFeKillWrite (a : Access) (ctrl : Fin 4096) (v : Word) (s : State) : Host.Outcome State Fault Refusal :=
  s.write a (FE_C_CTL_KILL.nth ctrl).addr v

/-- FE_SPLIT_WRITE (R331). -/
def execFeSplitWrite (a : Access) (port : Fin 8) (v : Word) (s : State) : Host.Outcome State Fault Refusal :=
  s.write a (FE_P_CTL_SPLIT.nth port).addr v

/-- CONNECTION_OPEN (R386): SD_CNCTL with ACTION 1. -/
def execConnectionOpen (a : Access) (conn : BitVec 10) (s : State) : Host.Outcome State Fault Refusal :=
  s.write a SD_CNCTL_CONN.addr (BitVec.ofNat 64 (conn.toNat + 1024))

/-- CONNECTION_RESET (R386): SD_CNCTL with ACTION 2. -/
def execConnectionReset (a : Access) (conn : BitVec 10) (s : State) : Host.Outcome State Fault Refusal :=
  s.write a SD_CNCTL_CONN.addr (BitVec.ofNat 64 (conn.toNat + 2048))

/-- SD_MRREG_WRITE (R391). -/
def execSdMrregWrite (a : Access) (v : Word) (s : State) : Host.Outcome State Fault Refusal := s.write a SD_MRREG_INDEX.addr v

/-- SD_MRREV_WRITE (R393). -/
def execSdMrrevWrite (a : Access) (v : Word) (s : State) : Host.Outcome State Fault Refusal := s.write a SD_MRREV_INDEX.addr v

/-- SD_PAIR_CLAIM_WRITE (R412). -/
def execSdPairClaimWrite (a : Access) (v : Word) (s : State) : Host.Outcome State Fault Refusal := s.write a SD_PAIR_CTL_CLAIM.addr v

/-- SD_PAIR_LEAVE_WRITE (R416). -/
def execSdPairLeaveWrite (a : Access) (v : Word) (s : State) : Host.Outcome State Fault Refusal := s.write a SD_PAIR_CTL_LEAVE.addr v

/-- SD_SYNC_WRITE (R420). -/
def execSdSyncWrite (a : Access) (v : Word) (s : State) : Host.Outcome State Fault Refusal := s.write a SD_SYNC_EPOCH.addr v

/-- SD_SYNCGRP_WRITE (R420). -/
def execSdSyncgrpWrite (a : Access) (i : Fin 4) (v : Word) (s : State) : Host.Outcome State Fault Refusal :=
  s.write a (SD_SYNCGRP_MASK.nth i).addr v

/-- MEM_GO_WRITE (R429): MEM_CTL with GO. -/
def execMemGoWrite (a : Access) (v : Word) (s : State) : Host.Outcome State Fault Refusal := s.write a MEM_CTL_GO.addr (v ||| 8)

/-- MEM_FCHG_WRITE (R433): MEM_CTL with FCHG. -/
def execMemFchgWrite (a : Access) (v : Word) (s : State) : Host.Outcome State Fault Refusal := s.write a MEM_CTL_FCHG.addr (v ||| 16)

/-- MEM_TEST_RAW_READ (R440): MEM_TEST with OP 1. -/
def execMemTestRawRead (a : Access) (en : Bool) (s : State) : Host.Outcome State Fault Refusal :=
  s.write a MEM_TEST_EN.addr (BitVec.ofNat 64 (en.toNat + 2))

/-- MEM_TEST_RAW_WRITE (R440): MEM_TEST with OP 2. -/
def execMemTestRawWrite (a : Access) (en : Bool) (s : State) : Host.Outcome State Fault Refusal :=
  s.write a MEM_TEST_EN.addr (BitVec.ofNat 64 (en.toNat + 4))

/-- MEM_TEST_CHECK_WRITE (R440): MEM_TEST with OP 3. -/
def execMemTestCheckWrite (a : Access) (en : Bool) (s : State) : Host.Outcome State Fault Refusal :=
  s.write a MEM_TEST_EN.addr (BitVec.ofNat 64 (en.toNat + 6))

/-- A VEIL_OP value with its operation. -/
def veilValue (v : Word) (op : Nat) : Word := BitVec.ofNat 64 (v.toNat / 4 * 4 + op)

/-- VEIL_CLEAN (R453). -/
def execVeilClean (a : Access) (v : Word) (s : State) : Host.Outcome State Fault Refusal := s.write a VEIL_OP_OP.addr (veilValue v 1)

/-- VEIL_INVALIDATE (R453). -/
def execVeilInvalidate (a : Access) (v : Word) (s : State) : Host.Outcome State Fault Refusal :=
  s.write a VEIL_OP_OP.addr (veilValue v 2)

/-- VEIL_CLEAN_INVALIDATE (R453). -/
def execVeilCleanInvalidate (a : Access) (v : Word) (s : State) : Host.Outcome State Fault Refusal :=
  s.write a VEIL_OP_OP.addr (veilValue v 3)

/-- A UMB_CMD value. -/
def umbValue (op slot : Nat) : Word := BitVec.ofNat 64 (op + 65536 * slot)

/-- NONCE (R462). -/
def execNonce (a : Access) (s : State) : Host.Outcome State Fault Refusal := s.write a UMB_CMD_OP.addr (umbValue 1 0)

/-- UNLOCK (R463). -/
def execUnlock (a : Access) (s : State) : Host.Outcome State Fault Refusal := s.write a UMB_CMD_OP.addr (umbValue 2 0)

/-- IMPORT_AKEK (R465). -/
def execImportAkek (a : Access) (s : State) : Host.Outcome State Fault Refusal := s.write a UMB_CMD_OP.addr (umbValue 3 0)

/-- LOAD_AKEK (R465). -/
def execLoadAkek (a : Access) (s : State) : Host.Outcome State Fault Refusal := s.write a UMB_CMD_OP.addr (umbValue 4 0)

/-- UNWRAP (R465). -/
def execUnwrap (a : Access) (slot : BitVec 16) (s : State) : Host.Outcome State Fault Refusal :=
  s.write a UMB_CMD_OP.addr (umbValue 5 slot.toNat)

/-- ZERO (R465). -/
def execZero (a : Access) (slot : BitVec 16) (s : State) : Host.Outcome State Fault Refusal :=
  s.write a UMB_CMD_OP.addr (umbValue 6 slot.toNat)

/-- DIKPUB (R465). -/
def execDikpub (a : Access) (s : State) : Host.Outcome State Fault Refusal := s.write a UMB_CMD_OP.addr (umbValue 7 0)

/-- OWN (R461). -/
def execOwn (a : Access) (s : State) : Host.Outcome State Fault Refusal := s.write a UMB_CMD_OP.addr (umbValue 8 0)

/-- TESTENTRY (R476). -/
def execTestentry (a : Access) (s : State) : Host.Outcome State Fault Refusal := s.write a UMB_CMD_OP.addr (umbValue 9 0)

/-- UMB_DEVMAP_WRITE (R458). -/
def execUmbDevmapWrite (a : Access) (j : Fin 2) (v : Word) (s : State) : Host.Outcome State Fault Refusal :=
  s.write a (UMB_DEVMAP_SLOT.nth j).addr v

/-- UMB_DG_GO (R475): UMB_DGn_CTL with GO. -/
def execUmbDgGo (a : Access) (unit : Fin 4) (alg : BitVec 3) (s : State) : Host.Outcome State Fault Refusal :=
  s.write a (UMB_DG_CTL_GO.nth unit).addr (BitVec.ofNat 64 (alg.toNat + 8))

/-- PLT_RST_WRITE (R483). -/
def execPltRstWrite (a : Access) (v : Word) (s : State) : Host.Outcome State Fault Refusal := s.write a PLT_RST_GO.addr v

/-- A DAY_CMD value. -/
def dayValue (op : Nat) (dev idx : BitVec 2) : Word := BitVec.ofNat 64 (op + 16 * dev.toNat + 64 * idx.toNat)

/-- DAY_CMD_READ (R487). -/
def execDayCmdRead (a : Access) (dev : BitVec 2) (s : State) : Host.Outcome State Fault Refusal :=
  s.write a DAY_CMD_OP.addr (dayValue 1 dev 0)

/-- DAY_CMD_PROGRAM (R487). -/
def execDayCmdProgram (a : Access) (dev : BitVec 2) (s : State) : Host.Outcome State Fault Refusal :=
  s.write a DAY_CMD_OP.addr (dayValue 2 dev 0)

/-- DAY_CMD_ERASE (R487). -/
def execDayCmdErase (a : Access) (dev : BitVec 2) (s : State) : Host.Outcome State Fault Refusal :=
  s.write a DAY_CMD_OP.addr (dayValue 3 dev 0)

/-- DAY_CMD_ACTIVATE (R498). -/
def execDayCmdActivate (a : Access) (s : State) : Host.Outcome State Fault Refusal := s.write a DAY_CMD_OP.addr (dayValue 4 0 0)

/-- DAY_CMD_VERIFY (R494). -/
def execDayCmdVerify (a : Access) (dev : BitVec 2) (s : State) : Host.Outcome State Fault Refusal :=
  s.write a DAY_CMD_OP.addr (dayValue 5 dev 0)

/-- DAY_CMD_FUSEKEY (R492). -/
def execDayCmdFusekey (a : Access) (idx : BitVec 2) (s : State) : Host.Outcome State Fault Refusal :=
  s.write a DAY_CMD_OP.addr (dayValue 6 0 idx)

/-- DAY_CMD_REVOKE (R492). -/
def execDayCmdRevoke (a : Access) (idx : BitVec 2) (s : State) : Host.Outcome State Fault Refusal :=
  s.write a DAY_CMD_OP.addr (dayValue 7 0 idx)

/-- DAY_CONFIRM_WRITE (R499). -/
def execDayConfirmWrite (a : Access) (v : Word) (s : State) : Host.Outcome State Fault Refusal := s.write a DAY_CONFIRM_GO.addr v

/-- PLT_WDOG_KICK (R500): PLT_WDOG with KICK. -/
def execPltWdogKick (a : Access) (v : Word) (s : State) : Host.Outcome State Fault Refusal :=
  s.write a PLT_WDOG_KICK.addr (v ||| 0x20000)

/-- AG_POST_WRITE (R507). -/
def execAgPostWrite (a : Access) (v : Word) (s : State) : Host.Outcome State Fault Refusal := s.write a AG_POST_POST.addr v

/-- OBS_REPLAY_WRITE (R508): OBS_CTL with REPLAY. -/
def execObsReplayWrite (a : Access) (v : Word) (s : State) : Host.Outcome State Fault Refusal :=
  s.write a OBS_CTL_REPLAY.addr (v ||| 0x200)

/-! ### The service port's memory (R506, R511) -/

/-- The bytes [a, a+n) lie in a region that the service port maps: Billow below the reserved area. -/
def svcBillow (a n : Nat) : Bool := billowBase ≤ a && a + n ≤ billowBase + billowSize - 2 ^ 21

/-- The bytes lie in the Afterglow window. -/
def inAfterglow (a n : Nat) : Bool := afterglowBase ≤ a && a + n ≤ afterglowBase + 2 ^ 23

/-- A service-port request to Billow or the Afterglow window (R511): any length and alignment; a store to the window, and what no BAR
maps, completes with a bus error (R13). Bytes whose enable is 0 are left alone. -/
def Head.serve (h : Head) (r : SvcRequest) : Head :=
  if h.served .service = false then h
  else
    match r with
    | .read a n =>
      if svcBillow a.toNat n.toNat then h.reply (.bytes (h.bytes a.toNat n.toNat))
      else if inAfterglow a.toNat n.toNat then h.reply (.bytes (h.agBytes (a.toNat - afterglowBase) n.toNat))
      else h.reply .busError
    | .write a data =>
      if svcBillow a.toNat data.length then
        ((data.zip (List.range data.length)).foldl (fun (h : Head) (d : Option Byte × Nat) =>
          match d.1 with
          | some b => h.put (a.toNat + d.2) [b]
          | none => h) h).reply .done
      else h.reply .busError

/-- SERVICE_PORT_REQUEST (R511). -/
def execServicePortRequest (r : SvcRequest) (s : State) : Host.Outcome State Fault Refusal := s.apply (fun h => h.serve r)

end Sys2Proof.Machine
end

