-- ==== Sys2Proof/Machine/Boundary.lean ====
section
/-! DEFINITION. A generated tick, and what the first tick of an epoch brings about (spec/02_meridian_epochs.md, R27, R28, R44; the rules of
the owning chapters named at each step). -/
namespace Sys2Proof.Machine
open Reg

/-! ### EPOCH and COUNTERS frames (R508 to R510) -/

/-- A register as the lanes read it: with no field cleared and nothing drawn (R509), the fields above a level as zero. -/
def Head.peek (h : Head) (l : Level) (a : Nat) : Nat :=
  (fieldsAt .service a).foldl (fun n p =>
    if l.reaches p.1.level = false ∨ p.2.acc = .wo then n else n + (h.computed p.1).getD (h.rd p.2) * 2 ^ p.2.lo) 0

/-- An entry of OBS_SNAPLIST as a COUNTERS frame carries it (R510): zero for a register of level V, for the Umbra block and where no
register is. -/
def Head.snapValue (h : Head) (a : Nat) : Nat :=
  if (a - regBase) / 2 ^ 24 = 11 ∨ a % 8 ≠ 0 ∨ levelReaches .s (fieldsAt .service a) = false then 0 else h.peek .s a

/-- The entries of OBS_SNAPLIST in use. -/
def Head.snapList (h : Head) : List Nat := ((List.range 32).map (fun i => h.rd (OBS_SNAPLIST_ADDR.nth i))).filter (· ≠ 0)

/-- The frames of an epoch's first tick (R508). -/
def Head.epochFrames (h : Head) : Head :=
  if h.epoch % 2 ^ h.rd OBS_CTL_EPLOG ≠ 0 then h
  else
    let regs := [CMT_LAST_EPOCH, CMT_APPLIED_EPOCH, CMT_STS_LAG, FE_ADMIT_MAX, FB_CAPF_MIB, FE_STS_NOTREADY, MER_STS_SRC]
    let h := h.trace 2 (h.epoch :: regs.map (fun (f : Field) => h.peek .v f.addr))
    (chunksOf 7 32 (h.snapList.map h.snapValue)).foldl (fun (h : Head) p => h.trace 3 p) h

/-! ### The confirmation window (R45, R499) -/

/-- The window opens in the first epoch with a valid number, and counts its epochs down. -/
def Head.confirmWindow (h : Head) : Head :=
  if h.is DAY_STS_TRIAL = false ∨ h.is MER_STS_EPVALID = false then h
  else if h.plt.windowOpen then h.wr DAY_WINLEFT_EPOCHS (h.rd DAY_WINLEFT_EPOCHS - 1)
  else
    ({ h with plt := { h.plt with windowOpen := true } }).wr DAY_WINLEFT_EPOCHS (ceilDiv (h.rd DAY_CTL_WINDOW * 25000000) h.cur)

/-! ### The first tick of an epoch -/

/-- The read floor is sent and shown (R219). -/
def Head.floorStep (h : Head) : Head := (h.sendTwin (.floor h.ownFloor)).showFloor

/-- Work placed on every 1,024th epoch: buffer sizing (R230), CLOCK (R401) and the refresh rate (R432). -/
def Head.every1024 (h : Head) (hot : Nat) : Head :=
  if h.epoch % 1024 = 0 then ((h.bufferTarget).sendClock).refreshDouble hot else h

/-- Meridian's part: the budgets, whose overrun is the old length's (R47), and the armed length change (R30); the EPOCH interrupt
(R98). -/
def Head.boundaryClock (h : Head) : Head := ((h.budgetRenew).eplenChange).raiseAll 0

/-- The pair's part: commit lag (R67, R68), spare engines (R102), the formation and the join (R402, R413, R414). -/
def Head.boundaryPair (h : Head) : Head := (((h.lagChecks).spareEngines).formStart.joinStart).joinPressure

/-- What waited for the budgets that the epoch renews, or for an apply (R47, R223, R240). -/
def Head.budgetsGo (h : Head) : Head := (((h.patrolGo).ckptAdvance).freeReplaced).placeJobs

/-- Fogbank's part: the floor, bands and notes for the twin (R217, R219), the schedule of R44, and what waited for a budget. -/
def Head.boundaryFlash (h : Head) (hot : Nat) : Head := ((((h.floorStep).giveBands).owedHoleNotes).every1024 hot).budgetsGo

/-- The rest: a frequency-change window (R433), the confirmation window (R499), the gates and fetches that a new epoch may open (R236,
R342), and the trace frames (R508). -/
def Head.boundaryRest (h : Head) : Head := ((((h.windowOpen).confirmWindow).showGates).fetchAll).epochFrames

/-- The first tick of an epoch: the account of the epoch that ends (R236), the number, and the work placed there. -/
def Head.epochStart (h : Head) (hot : Nat) : Head :=
  ((((h.creditAccount).advanceEpoch).boundaryClock).boundaryPair.boundaryFlash hot).boundaryRest

/-- The stream engines that run background jobs, and the accelerators that run jobs of them, with their classes (R47). -/
def Head.occupied (h : Head) : List (Nat × Nat) :=
  let engines := h.ctxs.filterMap (fun e =>
    if isStream e.1 ∧ e.2.run = .running then
      (e.2.work.bind h.work).bind (fun x => x.budget.map (fun b => (b, engineRes (ctxCluster e.1) (ctxEngine e.1))))
    else none)
  let units := h.jobs.filterMap (fun e =>
    if e.2.ended.isSome then none else e.2.accel.bind (fun u => (h.jobClass e.2).map (fun b => (b, accelRes u.1 u.2))))
  (engines ++ units).eraseDups

/-- Background work is charged the tick it occupies engines and accelerators for (R47, R252). -/
def Head.occupyTick (h : Head) : Head := h.occupied.foldl (fun (h : Head) e => h.occupy e.1 e.2) h

/-- One generated tick (R27): the counters advance, background work is charged for it, the first tick of an epoch does its work, and the
background jobs of the base library go on. -/
def Head.tickStep (h : Head) (hot : Nat) : Head :=
  let due : Bool := h.boundaryDue
  let h := (h.occupyTick).countTick
  let h := if due then h.epochStart hot else h
  (h.missedPulses).bgSteps

/-- TICK (R27): `hot` is what the refresh-rate fields of the channels say, looked at where R432 reads them. -/
def execTick (hot : BitVec 12) (s : State) : Host.Outcome State Fault Refusal := s.apply (fun h => h.tickStep hot.toNat)

/-- EPOCH_BOUNDARY (R28): the tick that begins an epoch; nothing while the epoch still has ticks to come. -/
def execEpochBoundary (hot : BitVec 12) (s : State) : Host.Outcome State Fault Refusal :=
  s.apply (fun h => if h.boundaryDue then h.tickStep hot.toNat else h)

end Sys2Proof.Machine
end

