-- ==== Sys2Proof/Machine/Integer.lean ====
section
/-! DEFINITION. The integer, multiply, divide, immediate and branch instructions, HMOV and the system instructions (spec/05_terdan_base_instructions.md,
R117 to R123, R126, R128, R131 to R134). -/
namespace Sys2Proof.Machine
open Reg

/-! ### Operands and results -/

/-- The shift amount: bits [5:0]. -/
def shamt (b : Word) : Nat := b.toNat % 64

/-- 1 or 0. -/
def flag (c : Bool) : Word := if c then 1 else 0

/-- A 16-bit immediate sign-extended. -/
def sext (i : BitVec 16) : Word := i.signExtend 64

/-- A 16-bit immediate zero-extended. -/
def zext (i : BitVec 16) : Word := i.setWidth 64

/-- Bits [127:64] of a product. -/
def mulHigh (a b : Int) : Word := BitVec.ofInt 64 (a * b / 2 ^ 64)

/-- Signed division rounded toward zero, with the boundary results of R122. -/
def divSigned (a b : Word) : Word := if b = 0 then BitVec.allOnes 64 else BitVec.ofInt 64 (a.toInt.tdiv b.toInt)

/-- The signed remainder, with the boundary results of R122. -/
def remSigned (a b : Word) : Word := if b = 0 then a else BitVec.ofInt 64 (a.toInt.tmod b.toInt)

/-- Unsigned division (R122). -/
def divUnsigned (a b : Word) : Word := if b = 0 then BitVec.allOnes 64 else BitVec.ofNat 64 (a.toNat / b.toNat)

/-- The unsigned remainder (R122). -/
def remUnsigned (a b : Word) : Word := if b = 0 then a else BitVec.ofNat 64 (a.toNat % b.toNat)

/-- Zero bits above the highest one bit of the low `n`. -/
def leadingZeros : Nat → Word → Nat
  | 0, _ => 0
  | n + 1, a => if a.getLsbD n then 0 else 1 + leadingZeros n a

/-- Zero bits below the lowest one bit, of `n` bits. -/
def trailingZeros : Nat → Word → Nat
  | 0, _ => 0
  | n + 1, a => if a.getLsbD 0 then 0 else 1 + trailingZeros n (a >>> 1)

/-- An integer instruction: every level may execute it, and it only writes its result (R121, R135). -/
def State.alu (s : State) (x : Ctx) (rd : Fin 32) (f : Context → Word) : Host.Outcome State Fault Refusal :=
  s.apply (fun h => h.instr x anyLevel (fun h k c => h.result k c rd (f c)))

/-! ### Register to register (R121, R122) -/

/-- ADD (R121). -/
def execAdd (x : Ctx) (rd rs1 rs2 : Fin 32) (s : State) : Host.Outcome State Fault Refusal :=
  s.alu x rd (fun c => let a := c.gr rs1; let b := c.gr rs2; a + b)

/-- SUB (R121). -/
def execSub (x : Ctx) (rd rs1 rs2 : Fin 32) (s : State) : Host.Outcome State Fault Refusal :=
  s.alu x rd (fun c => let a := c.gr rs1; let b := c.gr rs2; a - b)

/-- AND (R121). -/
def execAnd (x : Ctx) (rd rs1 rs2 : Fin 32) (s : State) : Host.Outcome State Fault Refusal :=
  s.alu x rd (fun c => let a := c.gr rs1; let b := c.gr rs2; a &&& b)

/-- OR (R121). -/
def execOr (x : Ctx) (rd rs1 rs2 : Fin 32) (s : State) : Host.Outcome State Fault Refusal :=
  s.alu x rd (fun c => let a := c.gr rs1; let b := c.gr rs2; a ||| b)

/-- XOR (R121). -/
def execXor (x : Ctx) (rd rs1 rs2 : Fin 32) (s : State) : Host.Outcome State Fault Refusal :=
  s.alu x rd (fun c => let a := c.gr rs1; let b := c.gr rs2; a ^^^ b)

/-- ANDN (R121). -/
def execAndn (x : Ctx) (rd rs1 rs2 : Fin 32) (s : State) : Host.Outcome State Fault Refusal :=
  s.alu x rd (fun c => let a := c.gr rs1; let b := c.gr rs2; a &&& ~~~b)

/-- SLL (R121). -/
def execSll (x : Ctx) (rd rs1 rs2 : Fin 32) (s : State) : Host.Outcome State Fault Refusal :=
  s.alu x rd (fun c => let a := c.gr rs1; let b := c.gr rs2; a <<< shamt b)

/-- SRL (R121). -/
def execSrl (x : Ctx) (rd rs1 rs2 : Fin 32) (s : State) : Host.Outcome State Fault Refusal :=
  s.alu x rd (fun c => let a := c.gr rs1; let b := c.gr rs2; a >>> shamt b)

/-- SRA (R121). -/
def execSra (x : Ctx) (rd rs1 rs2 : Fin 32) (s : State) : Host.Outcome State Fault Refusal :=
  s.alu x rd (fun c => let a := c.gr rs1; let b := c.gr rs2; a.sshiftRight (shamt b))

/-- ROR (R121). -/
def execRor (x : Ctx) (rd rs1 rs2 : Fin 32) (s : State) : Host.Outcome State Fault Refusal :=
  s.alu x rd (fun c => let a := c.gr rs1; let b := c.gr rs2; a.rotateRight (shamt b))

/-- SLT (R121). -/
def execSlt (x : Ctx) (rd rs1 rs2 : Fin 32) (s : State) : Host.Outcome State Fault Refusal :=
  s.alu x rd (fun c => let a := c.gr rs1; let b := c.gr rs2; flag (a.slt b))

/-- SLTU (R121). -/
def execSltu (x : Ctx) (rd rs1 rs2 : Fin 32) (s : State) : Host.Outcome State Fault Refusal :=
  s.alu x rd (fun c => let a := c.gr rs1; let b := c.gr rs2; flag (a.ult b))

/-- MIN (R121). -/
def execMin (x : Ctx) (rd rs1 rs2 : Fin 32) (s : State) : Host.Outcome State Fault Refusal :=
  s.alu x rd (fun c => let a := c.gr rs1; let b := c.gr rs2; if a.slt b then a else b)

/-- MAX (R121). -/
def execMax (x : Ctx) (rd rs1 rs2 : Fin 32) (s : State) : Host.Outcome State Fault Refusal :=
  s.alu x rd (fun c => let a := c.gr rs1; let b := c.gr rs2; if a.slt b then b else a)

/-- MINU (R121). -/
def execMinu (x : Ctx) (rd rs1 rs2 : Fin 32) (s : State) : Host.Outcome State Fault Refusal :=
  s.alu x rd (fun c => let a := c.gr rs1; let b := c.gr rs2; if a.ult b then a else b)

/-- MAXU (R121). -/
def execMaxu (x : Ctx) (rd rs1 rs2 : Fin 32) (s : State) : Host.Outcome State Fault Refusal :=
  s.alu x rd (fun c => let a := c.gr rs1; let b := c.gr rs2; if a.ult b then b else a)

/-- MUL (R121). -/
def execMul (x : Ctx) (rd rs1 rs2 : Fin 32) (s : State) : Host.Outcome State Fault Refusal :=
  s.alu x rd (fun c => let a := c.gr rs1; let b := c.gr rs2; a * b)

/-- MULH (R121). -/
def execMulh (x : Ctx) (rd rs1 rs2 : Fin 32) (s : State) : Host.Outcome State Fault Refusal :=
  s.alu x rd (fun c => let a := c.gr rs1; let b := c.gr rs2; mulHigh a.toInt b.toInt)

/-- MULHU (R121). -/
def execMulhu (x : Ctx) (rd rs1 rs2 : Fin 32) (s : State) : Host.Outcome State Fault Refusal :=
  s.alu x rd (fun c => let a := c.gr rs1; let b := c.gr rs2; mulHigh a.toNat b.toNat)

/-- DIV (R122). -/
def execDiv (x : Ctx) (rd rs1 rs2 : Fin 32) (s : State) : Host.Outcome State Fault Refusal :=
  s.alu x rd (fun c => let a := c.gr rs1; let b := c.gr rs2; divSigned a b)

/-- DIVU (R122). -/
def execDivu (x : Ctx) (rd rs1 rs2 : Fin 32) (s : State) : Host.Outcome State Fault Refusal :=
  s.alu x rd (fun c => let a := c.gr rs1; let b := c.gr rs2; divUnsigned a b)

/-- REM (R122). -/
def execRem (x : Ctx) (rd rs1 rs2 : Fin 32) (s : State) : Host.Outcome State Fault Refusal :=
  s.alu x rd (fun c => let a := c.gr rs1; let b := c.gr rs2; remSigned a b)

/-- REMU (R122). -/
def execRemu (x : Ctx) (rd rs1 rs2 : Fin 32) (s : State) : Host.Outcome State Fault Refusal :=
  s.alu x rd (fun c => let a := c.gr rs1; let b := c.gr rs2; remUnsigned a b)

/-- CLZ (R121). -/
def execClz (x : Ctx) (rd rs1 : Fin 32) (s : State) : Host.Outcome State Fault Refusal :=
  s.alu x rd (fun c => let a := c.gr rs1; BitVec.ofNat 64 (leadingZeros 64 a))

/-- CTZ (R121). -/
def execCtz (x : Ctx) (rd rs1 : Fin 32) (s : State) : Host.Outcome State Fault Refusal :=
  s.alu x rd (fun c => let a := c.gr rs1; BitVec.ofNat 64 (trailingZeros 64 a))

/-- POPC (R121). -/
def execPopc (x : Ctx) (rd rs1 : Fin 32) (s : State) : Host.Outcome State Fault Refusal :=
  s.alu x rd (fun c => let a := c.gr rs1; BitVec.ofNat 64 (popN 64 a.toNat))

/-- BSWAP (R121). -/
def execBswap (x : Ctx) (rd rs1 : Fin 32) (s : State) : Host.Outcome State Fault Refusal :=
  s.alu x rd (fun c => let a := c.gr rs1; BitVec.ofNat 64 (ofBytes (toBytes 8 a.toNat).reverse))

/-! ### Immediates (R123) -/

/-- ADDI (R123). -/
def execAddi (x : Ctx) (rd rs : Fin 32) (imm : BitVec 16) (s : State) : Host.Outcome State Fault Refusal :=
  s.alu x rd (fun c => let a := c.gr rs; a + sext imm)

/-- ANDI (R123). -/
def execAndi (x : Ctx) (rd rs : Fin 32) (imm : BitVec 16) (s : State) : Host.Outcome State Fault Refusal :=
  s.alu x rd (fun c => let a := c.gr rs; a &&& zext imm)

/-- ORI (R123). -/
def execOri (x : Ctx) (rd rs : Fin 32) (imm : BitVec 16) (s : State) : Host.Outcome State Fault Refusal :=
  s.alu x rd (fun c => let a := c.gr rs; a ||| zext imm)

/-- XORI (R123). -/
def execXori (x : Ctx) (rd rs : Fin 32) (imm : BitVec 16) (s : State) : Host.Outcome State Fault Refusal :=
  s.alu x rd (fun c => let a := c.gr rs; a ^^^ zext imm)

/-- SLTI (R123). -/
def execSlti (x : Ctx) (rd rs : Fin 32) (imm : BitVec 16) (s : State) : Host.Outcome State Fault Refusal :=
  s.alu x rd (fun c => let a := c.gr rs; flag (a.slt (sext imm)))

/-- SLTIU (R123). -/
def execSltiu (x : Ctx) (rd rs : Fin 32) (imm : BitVec 16) (s : State) : Host.Outcome State Fault Refusal :=
  s.alu x rd (fun c => let a := c.gr rs; flag (a.ult (sext imm)))

/-- LSI (R123). -/
def execLsi (x : Ctx) (rd rs : Fin 32) (imm : BitVec 16) (s : State) : Host.Outcome State Fault Refusal :=
  s.alu x rd (fun c => let a := c.gr rs; a <<< 16 ||| zext imm)

/-- SLLI (R123). -/
def execSlli (x : Ctx) (rd rs : Fin 32) (sh : Fin 64) (s : State) : Host.Outcome State Fault Refusal :=
  s.alu x rd (fun c => let a := c.gr rs; a <<< sh.val)

/-- SRLI (R123). -/
def execSrli (x : Ctx) (rd rs : Fin 32) (sh : Fin 64) (s : State) : Host.Outcome State Fault Refusal :=
  s.alu x rd (fun c => let a := c.gr rs; a >>> sh.val)

/-- SRAI (R123). -/
def execSrai (x : Ctx) (rd rs : Fin 32) (sh : Fin 64) (s : State) : Host.Outcome State Fault Refusal :=
  s.alu x rd (fun c => let a := c.gr rs; a.sshiftRight sh.val)

/-- RORI (R123). -/
def execRori (x : Ctx) (rd rs : Fin 32) (sh : Fin 64) (s : State) : Host.Outcome State Fault Refusal :=
  s.alu x rd (fun c => let a := c.gr rs; a.rotateRight sh.val)

/-- LUI (R123). -/
def execLui (x : Ctx) (rd : Fin 32) (imm : BitVec 16) (s : State) : Host.Outcome State Fault Refusal :=
  s.alu x rd (fun _ => sext imm <<< 16)

/-- PCADD (R123). -/
def execPcadd (x : Ctx) (rd : Fin 32) (imm : BitVec 16) (s : State) : Host.Outcome State Fault Refusal :=
  s.alu x rd (fun c => c.pc + sext imm * 4)

/-! ### Branches and jumps (R128) -/

/-- The target of a branch: PC + sext(off) × 4. -/
def target (c : Context) (off : BitVec 21) : Word := c.pc + off.signExtend 64 * 4

/-- A conditional branch. -/
def State.branch (s : State) (x : Ctx) (off : BitVec 21) (rs : Fin 32) (taken : Word → Bool) :
    Host.Outcome State Fault Refusal :=
  s.apply (fun h => h.instr x anyLevel (fun h k c =>
    h.setCtx k (if taken (c.gr rs) then { c with pc := target c off } else c.next)))

/-- BR: the link, then the jump. -/
def execBr (x : Ctx) (rd : Fin 32) (off : BitVec 21) (s : State) : Host.Outcome State Fault Refusal :=
  s.apply (fun h => h.instr x anyLevel (fun h k c => h.setCtx k { c.setGr rd (c.pc + 4) with pc := target c off }))

/-- BEQZ (R128). -/
def execBeqz (x : Ctx) (rs : Fin 32) (off : BitVec 21) (s : State) : Host.Outcome State Fault Refusal :=
  s.branch x off rs (fun a => a = 0)

/-- BNEZ (R128). -/
def execBnez (x : Ctx) (rs : Fin 32) (off : BitVec 21) (s : State) : Host.Outcome State Fault Refusal :=
  s.branch x off rs (fun a => a ≠ 0)

/-- BLTZ (R128). -/
def execBltz (x : Ctx) (rs : Fin 32) (off : BitVec 21) (s : State) : Host.Outcome State Fault Refusal :=
  s.branch x off rs (fun a => a.slt 0)

/-- BGEZ (R128). -/
def execBgez (x : Ctx) (rs : Fin 32) (off : BitVec 21) (s : State) : Host.Outcome State Fault Refusal :=
  s.branch x off rs (fun a => ! a.slt 0)

/-- BLEZ (R128). -/
def execBlez (x : Ctx) (rs : Fin 32) (off : BitVec 21) (s : State) : Host.Outcome State Fault Refusal :=
  s.branch x off rs (fun a => ! (0#64).slt a)

/-- BGTZ (R128). -/
def execBgtz (x : Ctx) (rs : Fin 32) (off : BitVec 21) (s : State) : Host.Outcome State Fault Refusal :=
  s.branch x off rs (fun a => (0#64).slt a)

/-- JALR: a misaligned target raises ALIGN with the register unchanged (R128). -/
def execJalr (x : Ctx) (rd rs : Fin 32) (imm : BitVec 16) (s : State) : Host.Outcome State Fault Refusal :=
  s.apply (fun h => h.instr x anyLevel (fun h k c =>
    let t := c.gr rs + sext imm
    if t.toNat % 4 ≠ 0 then h.except k excAlign { addr := t.toNat, store := false, fetch := false }
    else h.setCtx k { c.setGr rd (c.pc + 4) with pc := t }))

/-! ### System instructions (R117, R131 to R135) -/

/-- A special register's value (R88, R131): ST, EP, CXID or TK. -/
def Head.special (h : Head) (k : Nat) (c : Context) (sr : Nat) : Option Word :=
  match sr with
  | 0 => some c.st
  | 1 => some (BitVec.ofNat 64 h.epoch)
  | 2 => some (BitVec.ofNat 64 (h.cxid k))
  | 3 => some c.tk
  | _ => none

/-- MFSR (R131). -/
def execMfsr (x : Ctx) (rd sr : Fin 32) (s : State) : Host.Outcome State Fault Refusal :=
  s.apply (fun h => h.instr x anyLevel (fun h k c =>
    match h.special k c sr.val with
    | some v => h.result k c rd v
    | none => h.except k excIllegal .none))

/-- MTSR (R88, R131): TK is replaced, ST takes IE alone, a stream engine ignores the IE written; everything else is ILLEGAL. -/
def execMtsr (x : Ctx) (sr rs : Fin 32) (s : State) : Host.Outcome State Fault Refusal :=
  s.apply (fun h => h.instr x anyLevel (fun h k c =>
    let v := c.gr rs
    if sr.val = 3 then h.setCtx k { c.next with tk := v }
    else if sr.val = 0 ∧ (v ^^^ c.st) &&& ~~~4#64 = 0 then
      h.setCtx k { c.next with ie := if isStream k then c.ie else v.getLsbD 2 }
    else h.except k excIllegal .none))

/-- SYS (R96, R135): taken at level V. -/
def execSys (x : Ctx) (s : State) : Host.Outcome State Fault Refusal :=
  s.apply (fun h => h.instr x notC (fun h k _ => h.except k excSys .none))

/-- BREAK (R135). -/
def execBreak (x : Ctx) (s : State) : Host.Outcome State Fault Refusal :=
  s.apply (fun h => h.instr x anyLevel (fun h k _ => h.except k excBreak .none))

/-- A word with an undefined opcode or function, or a non-zero unused field, raises ILLEGAL (R117); what the fetch itself meets comes
first (R120). A word that is defined is another row's: it raises nothing here. -/
def execUndefinedInstruction (x : Fetched) (s : State) : Host.Outcome State Fault Refusal :=
  s.apply (fun h => h.atInstr x.ctx (fun h k c =>
    let fetch : ExcInfo := { addr := c.pc.toNat, store := false, fetch := true }
    let isLocal : Bool := localBase ≤ c.pc.toNat && c.pc.toNat < localBase + 2 ^ 20
    if x.met = .internal then h.machineCheck k 1 fetch
    else if x.met = .memory ∧ isLocal then h.machineCheck k 2 fetch
    else h.fetched k c (fun h k _ =>
      if x.met = .memory then h.except k excBusErr fetch
      else if wordDefined x.word then h else h.except k excIllegal .none)))

/-- ERET (R133). -/
def execEret (x : Ctx) (s : State) : Host.Outcome State Fault Refusal :=
  s.apply (fun h => h.instr x notC (fun h k _ =>
    match h.eret k with
    | some c => h.setCtx k c
    | none => h.except k excIllegal .none))

/-- WFI (R134): a source already pending does not stall it. -/
def execWfi (x : Ctx) (s : State) : Host.Outcome State Fault Refusal :=
  s.apply (fun h => h.instr x notC (fun h k c =>
    h.setCtx k { c.next with run := if h.pendingIrq k ≠ 0 then .running else .interrupt }))

/-- A stalled WFI resumes (R134). -/
def execWfiWake (core : Fin 32) (s : State) : Host.Outcome State Fault Refusal :=
  s.apply (fun h => h.wfiWake core.val)

/-- INTR is taken between two instructions (R98). -/
def execInterruptTake (core : Fin 32) (s : State) : Host.Outcome State Fault Refusal :=
  s.apply (fun h => h.takeInterrupt core.val)

/-- FENCE (R110, R130): every earlier access is performed: the merge buffer is drained. -/
def execFence (x : Ctx) (s : State) : Host.Outcome State Fault Refusal :=
  s.apply (fun h => h.instr x notC (fun h k c => h.drainMerge.setCtx k c.next))

/-- HMOV (R89, R126): the empty handle may be copied too. -/
def execHmov (x : Ctx) (hd hs : Fin 8) (s : State) : Host.Outcome State Fault Refusal :=
  s.apply (fun h => h.instr x anyLevel (fun h k c => h.setCtx k (c.setHr hd (c.hr hs)).next))

/-- RECIPE_DISPATCH (R103). -/
def execRecipeDispatch (work : Nat) (s : State) : Host.Outcome State Fault Refusal :=
  s.apply (fun h => h.dispatch work)

end Sys2Proof.Machine
end

