-- ==== Sys2Proof/Machine/LoadStore.lean ====
section
/-! DEFINITION. The loads and stores, the handle accesses and the atomics (spec/05_terdan_base_instructions.md, R120, R125, R126,
R129; spec/04_terdan_programming_model.md, R92 to R95). -/
namespace Sys2Proof.Machine
open Reg

/-! ### One data access -/

/-- The requester of a context's register access. -/
def ctxOrigin : Ctx → Origin
  | .core n => .core n
  | .stream c e x => .engine c e x

/-- A data access raises an exception; MCHK takes its own way (R100). -/
def Head.dataExc (h : Head) (k code a : Nat) (store : Bool) : Head :=
  let info : ExcInfo := { addr := a, store := store, fetch := false }
  if code = excMchk then h.machineCheck k 2 info else h.except k code info

/-- Bytes [a, a+n) are loaded for a context (R125): the exception, or the value. The contents of the boot ROM are not given: free. -/
def Head.loadAt (h : Head) (x : Ctx) (c : Context) (a n : Nat) (soft : Soft) : Except Nat Nat × Head :=
  let k := ctxKey x
  if inRegs a 1 then
    match h.busRead { origin := ctxOrigin x, level := c.level, size := Fin.ofNat 9 n } a with
    | (.value v, h) => (.ok v.toNat, h)
    | (.exception e, h) => (.error e, h)
    | (_, h) => (.error excBusErr, h)
  else if a % n ≠ 0 then (.error excAlign, h)
  else
    match h.place k c a n false with
    | .mem key =>
      (match h.loadKey k key n soft with
        | (.ok b, h) => (.ok (ofBytes b), h)
        | (.error e, h) => (.error e, h))
    | .afterglow => (.ok (ofBytes (h.agBytes (a - afterglowBase) n)), h)
    | .rom => let (w, h) := h.draw; (.ok (w.toNat % 2 ^ (8 * n)), h)
    | .reg => (.error excBusErr, h)
    | .bad e => (.error e, h)

/-- Memory of a context is written, the code reporting an error of what it holds. -/
def Head.storeSoft (h : Head) (k key : Nat) (b : List Byte) (soft : Soft) : Option Nat × Head :=
  if soft = .clean then h.storeKey k key b
  else if dramBase ≤ key ∧ key < 2 ^ 48 then
    (match h.touchLine (lineOf key) 0 soft with
      | (true, h) => h.storeKey k key b
      | (false, h) => (some excBusErr, h))
  else if soft = .uncorrectable then (some (if key < 2 ^ 48 then excBusErr else excMchk), h)
  else h.storeKey k key b

/-- `n` bytes are stored at `a` for a context (R125): the exception, or none. -/
def Head.storeAt (h : Head) (x : Ctx) (c : Context) (a n v : Nat) (soft : Soft) : Option Nat × Head :=
  let k := ctxKey x
  if inRegs a 1 then
    match h.busWrite { origin := ctxOrigin x, level := c.level, size := Fin.ofNat 9 n } a (BitVec.ofNat 64 v) with
    | (.done, h) => (none, h)
    | (.exception e, h) => (some e, h)
    | (_, h) => (some excBusErr, h)
  else if a % n ≠ 0 then (some excAlign, h)
  else
    match h.place k c a n true with
    | .mem key => h.storeSoft k key (toBytes n v) soft
    | .bad e => (some e, h)
    | _ => (some excBusErr, h)

/-! ### Loads and stores (R125) -/

/-- The address of a load or store. -/
def dataAddr (c : Context) (rb : Fin 32) (off : BitVec 12) : Nat := (c.gr rb + off.signExtend 64).toNat

/-- A load of `n` bytes, with or without sign extension. -/
def State.load (s : State) (x : Ctx) (rt rb : Fin 32) (off : BitVec 12) (soft : Soft) (n : Nat) (signed : Bool) :
    Host.Outcome State Fault Refusal :=
  s.apply (fun h => h.instr x anyLevel (fun h k c =>
    let a := dataAddr c rb off
    match h.loadAt x c a n soft with
    | (.ok v, h) =>
      h.result k (h.ctx k) rt (if signed then (BitVec.ofNat (8 * n) v).signExtend 64 else BitVec.ofNat 64 v)
    | (.error e, h) => h.dataExc k e a false))

/-- The context after its store: a store that reset the head leaves what the reset left. -/
def Head.stored (h : Head) (k : Nat) : Head :=
  if h.plt.inReset then h else h.setCtx k (h.ctx k).next

/-- A store of the low `n` bytes of a register. -/
def State.store (s : State) (x : Ctx) (rt rb : Fin 32) (off : BitVec 12) (soft : Soft) (n : Nat) : Host.Outcome State Fault Refusal :=
  s.applyPort (fun h => h.instr x anyLevel (fun h k c =>
    let a := dataAddr c rb off
    match h.storeAt x c a n ((c.gr rt).toNat % 2 ^ (8 * n)) soft with
    | (none, h) => h.stored k
    | (some e, h) => h.dataExc k e a true))

/-- LB (R125). -/
def execLb (x : Ctx) (rt rb : Fin 32) (off : BitVec 12) (soft : Soft) (s : State) : Host.Outcome State Fault Refusal :=
  s.load x rt rb off soft 1 true

/-- LBU (R125). -/
def execLbu (x : Ctx) (rt rb : Fin 32) (off : BitVec 12) (soft : Soft) (s : State) : Host.Outcome State Fault Refusal :=
  s.load x rt rb off soft 1 false

/-- LH (R125). -/
def execLh (x : Ctx) (rt rb : Fin 32) (off : BitVec 12) (soft : Soft) (s : State) : Host.Outcome State Fault Refusal :=
  s.load x rt rb off soft 2 true

/-- LHU (R125). -/
def execLhu (x : Ctx) (rt rb : Fin 32) (off : BitVec 12) (soft : Soft) (s : State) : Host.Outcome State Fault Refusal :=
  s.load x rt rb off soft 2 false

/-- LW (R125). -/
def execLw (x : Ctx) (rt rb : Fin 32) (off : BitVec 12) (soft : Soft) (s : State) : Host.Outcome State Fault Refusal :=
  s.load x rt rb off soft 4 true

/-- LWU (R125). -/
def execLwu (x : Ctx) (rt rb : Fin 32) (off : BitVec 12) (soft : Soft) (s : State) : Host.Outcome State Fault Refusal :=
  s.load x rt rb off soft 4 false

/-- LD (R125). -/
def execLd (x : Ctx) (rt rb : Fin 32) (off : BitVec 12) (soft : Soft) (s : State) : Host.Outcome State Fault Refusal :=
  s.load x rt rb off soft 8 false

/-- SB (R125). -/
def execSb (x : Ctx) (rt rb : Fin 32) (off : BitVec 12) (soft : Soft) (s : State) : Host.Outcome State Fault Refusal :=
  s.store x rt rb off soft 1

/-- SH (R125). -/
def execSh (x : Ctx) (rt rb : Fin 32) (off : BitVec 12) (soft : Soft) (s : State) : Host.Outcome State Fault Refusal :=
  s.store x rt rb off soft 2

/-- SW (R125). -/
def execSw (x : Ctx) (rt rb : Fin 32) (off : BitVec 12) (soft : Soft) (s : State) : Host.Outcome State Fault Refusal :=
  s.store x rt rb off soft 4

/-- SD (R125). -/
def execSd (x : Ctx) (rt rb : Fin 32) (off : BitVec 12) (soft : Soft) (s : State) : Host.Outcome State Fault Refusal :=
  s.store x rt rb off soft 8

/-! ### Handle access (R126) -/

/-- HQRY (R126): it never raises HANDLE. -/
def execHqry (x : Ctx) (rd : Fin 32) (hs : Fin 8) (s : State) : Host.Outcome State Fault Refusal :=
  s.apply (fun h => h.instr x notC (fun h k c => h.result k c rd (h.describe (c.hr hs))))

/-- HLDx of `n` bytes: a handle has no address to report. In the output of a job that has not been waited for, each byte is the
old or the new one (R127). -/
def State.handleLoad (s : State) (x : Ctx) (rd rs1 : Fin 32) (hs : Fin 8) (soft : Soft) (n : Nat) :
    Host.Outcome State Fault Refusal :=
  s.apply (fun h => h.instr x anyLevel (fun h k c =>
    match h.handleAddr (c.hr hs) (c.gr rs1).toNat n with
    | .error e => h.dataExc k e 0 false
    | .ok a =>
      match h.loadKey k a n soft with
      | (.ok b, h) =>
        let (b, h) := h.mixBefore a b h.jobs
        h.result k (h.ctx k) rd (BitVec.ofNat 64 (ofBytes b))
      | (.error e, h) => h.dataExc k e 0 false))

/-- HSTx of `n` bytes; what it leaves in a buffer of a job that has not been waited for is free (R127). -/
def State.handleStore (s : State) (x : Ctx) (rd rs1 : Fin 32) (hs : Fin 8) (soft : Soft) (n : Nat) :
    Host.Outcome State Fault Refusal :=
  s.apply (fun h => h.instr x anyLevel (fun h k c =>
    match h.handleAddr (c.hr hs) (c.gr rs1).toNat n with
    | .error e => h.dataExc k e 0 true
    | .ok a =>
      let (b, g) := h.touchJobs a (toBytes n ((c.gr rd).toNat % 2 ^ (8 * n)))
      match g.storeSoft k a b soft with
      | (none, h) => h.setCtx k (h.ctx k).next
      | (some e, _) => h.dataExc k e 0 true))

/-- HLDB (R126). -/
def execHldb (x : Ctx) (rd rs1 : Fin 32) (hs : Fin 8) (soft : Soft) (s : State) : Host.Outcome State Fault Refusal :=
  s.handleLoad x rd rs1 hs soft 1

/-- HLDH (R126). -/
def execHldh (x : Ctx) (rd rs1 : Fin 32) (hs : Fin 8) (soft : Soft) (s : State) : Host.Outcome State Fault Refusal :=
  s.handleLoad x rd rs1 hs soft 2

/-- HLDW (R126). -/
def execHldw (x : Ctx) (rd rs1 : Fin 32) (hs : Fin 8) (soft : Soft) (s : State) : Host.Outcome State Fault Refusal :=
  s.handleLoad x rd rs1 hs soft 4

/-- HLDD (R126). -/
def execHldd (x : Ctx) (rd rs1 : Fin 32) (hs : Fin 8) (soft : Soft) (s : State) : Host.Outcome State Fault Refusal :=
  s.handleLoad x rd rs1 hs soft 8

/-- HSTB (R126). -/
def execHstb (x : Ctx) (rd rs1 : Fin 32) (hs : Fin 8) (soft : Soft) (s : State) : Host.Outcome State Fault Refusal :=
  s.handleStore x rd rs1 hs soft 1

/-- HSTH (R126). -/
def execHsth (x : Ctx) (rd rs1 : Fin 32) (hs : Fin 8) (soft : Soft) (s : State) : Host.Outcome State Fault Refusal :=
  s.handleStore x rd rs1 hs soft 2

/-- HSTW (R126). -/
def execHstw (x : Ctx) (rd rs1 : Fin 32) (hs : Fin 8) (soft : Soft) (s : State) : Host.Outcome State Fault Refusal :=
  s.handleStore x rd rs1 hs soft 4

/-- HSTD (R126). -/
def execHstd (x : Ctx) (rd rs1 : Fin 32) (hs : Fin 8) (soft : Soft) (s : State) : Host.Outcome State Fault Refusal :=
  s.handleStore x rd rs1 hs soft 8

/-! ### Atomics (R129) -/

/-- The exception an atomic at an address raises before it reads: ALIGN, then ACCESS outside DRAM or without both grants, then
BUSERR before the fill has ended (R430). -/
def Head.atomicFault (h : Head) (k : Nat) (c : Context) (a : Nat) : Option Nat :=
  let o : Origin := .core (Fin.ofNat 32 k)
  if a % 8 ≠ 0 then some excAlign
  else if h.inDram a 8 = false then some excAccess
  else if c.level = .s ∧ (h.granted o a 8 .load = false ∨ h.granted o a 8 .store = false) then some excAccess
  else if h.is MEM_STS_FILLDONE then none
  else some excBusErr

/-- An atomic: what it writes, if anything, is a function of the old value and of the registers. -/
def State.atomic (s : State) (x : Ctx) (rd rs1 : Fin 32) (soft : Soft) (f : Context → Word → Option Word) :
    Host.Outcome State Fault Refusal :=
  s.apply (fun h => h.instr x notC (fun h k c =>
    let a := (c.gr rs1).toNat
    match h.atomicFault k c a with
    | some e => h.dataExc k e a true
    | none =>
      match h.loadKey k a 8 soft with
      | (.error e, h) => h.dataExc k e a true
      | (.ok b, h) =>
        let old : Word := BitVec.ofNat 64 (ofBytes b)
        match f c old with
        | none => h.result k (h.ctx k) rd old
        | some v =>
          match h.storeKey k a (toBytes 8 v.toNat) with
          | (none, h) => h.result k (h.ctx k) rd old
          | (some e, h) => h.dataExc k e a true))

/-- AMOADD (R129). -/
def execAmoadd (x : Ctx) (rd rs1 rs2 : Fin 32) (soft : Soft) (s : State) : Host.Outcome State Fault Refusal :=
  s.atomic x rd rs1 soft (fun c old => some (old + c.gr rs2))

/-- AMOSWAP (R129). -/
def execAmoswap (x : Ctx) (rd rs1 rs2 : Fin 32) (soft : Soft) (s : State) : Host.Outcome State Fault Refusal :=
  s.atomic x rd rs1 soft (fun c _ => some (c.gr rs2))

/-- CAS (R129): a failed comparison writes nothing to memory. -/
def execCas (x : Ctx) (rd rs1 rs2 : Fin 32) (soft : Soft) (s : State) : Host.Outcome State Fault Refusal :=
  s.atomic x rd rs1 soft (fun c old => if old = c.gr rd then some (c.gr rs2) else none)

end Sys2Proof.Machine
end

