-- ==== Sys2Proof/Machine/Dispatch.lean ====
section
/-! DEFINITION. The dispatch of a command to its meaning: one arm per constructor of `Instr`. -/
namespace Sys2Proof.Machine

/-- The effect of a command on everything but the queue. -/
def exec (i : Instr) (s : State) : Host.Outcome State Fault Refusal :=
  match i with
  | .registerWrite a addr v => Sys2Proof.Machine.execRegisterWrite a addr v s
  | .rcFieldRead a addr => Sys2Proof.Machine.execRcFieldRead a addr s
  | .servicePortRequest r => Sys2Proof.Machine.execServicePortRequest r s
  | .unitEnWrite a unit v => Sys2Proof.Machine.execUnitEnWrite a unit v s
  | .unitStartComplete unit => Sys2Proof.Machine.execUnitStartComplete unit s
  | .unitStopComplete unit => Sys2Proof.Machine.execUnitStopComplete unit s
  | .tick hot => Sys2Proof.Machine.execTick hot s
  | .epochBoundary hot => Sys2Proof.Machine.execEpochBoundary hot s
  | .todMessage bytes afterPulse => Sys2Proof.Machine.execTodMessage bytes afterPulse s
  | .framePulse pair => Sys2Proof.Machine.execFramePulse pair s
  | .refClockLoss pair => Sys2Proof.Machine.execRefClockLoss pair s
  | .frequencyWindowEnd source inRange => Sys2Proof.Machine.execFrequencyWindowEnd source inRange s
  | .ptpMessage m => Sys2Proof.Machine.execPtpMessage m s
  | .ptpMasterLoss => Sys2Proof.Machine.execPtpMasterLoss s
  | .refSelect => Sys2Proof.Machine.execRefSelect s
  | .holdoverLimit => Sys2Proof.Machine.execHoldoverLimit s
  | .merSeedWrite a v => Sys2Proof.Machine.execMerSeedWrite a v s
  | .merEplenNextWrite a v => Sys2Proof.Machine.execMerEplenNextWrite a v s
  | .merEplenAtWrite a v => Sys2Proof.Machine.execMerEplenAtWrite a v s
  | .merBudgetWrite a second v => Sys2Proof.Machine.execMerBudgetWrite a second v s
  | .merEpochRead a => Sys2Proof.Machine.execMerEpochRead a s
  | .sealSend => Sys2Proof.Machine.execSealSend s
  | .sealReceive e n commands crc asvMax ea d => Sys2Proof.Machine.execSealReceive e n commands crc asvMax ea d s
  | .sealAckSend e => Sys2Proof.Machine.execSealAckSend e s
  | .sealAckReceive e => Sys2Proof.Machine.execSealAckReceive e s
  | .sealNakReceive e => Sys2Proof.Machine.execSealNakReceive e s
  | .epochCommit => Sys2Proof.Machine.execEpochCommit s
  | .commitNoteReceive e => Sys2Proof.Machine.execCommitNoteReceive e s
  | .rerunReceive ea agrees => Sys2Proof.Machine.execRerunReceive ea agrees s
  | .sealLate => Sys2Proof.Machine.execSealLate s
  | .applyEpoch => Sys2Proof.Machine.execApplyEpoch s
  | .cmtJbaseWrite a v => Sys2Proof.Machine.execCmtJbaseWrite a v s
  | .cmtJsizeWrite a v => Sys2Proof.Machine.execCmtJsizeWrite a v s
  | .cmtAppliedRead a => Sys2Proof.Machine.execCmtAppliedRead a s
  | .interruptTake core => Sys2Proof.Machine.execInterruptTake core s
  | .recipeDispatch work => Sys2Proof.Machine.execRecipeDispatch work s
  | .objectLoad level target object => Sys2Proof.Machine.execObjectLoad level target object s
  | .coreDbellWrite a v => Sys2Proof.Machine.execCoreDbellWrite a v s
  | .coreReleaseWrite a v => Sys2Proof.Machine.execCoreReleaseWrite a v s
  | .undefinedInstruction x => Sys2Proof.Machine.execUndefinedInstruction x s
  | .add x rd rs1 rs2 => Sys2Proof.Machine.execAdd x rd rs1 rs2 s
  | .sub x rd rs1 rs2 => Sys2Proof.Machine.execSub x rd rs1 rs2 s
  | .and x rd rs1 rs2 => Sys2Proof.Machine.execAnd x rd rs1 rs2 s
  | .or x rd rs1 rs2 => Sys2Proof.Machine.execOr x rd rs1 rs2 s
  | .xor x rd rs1 rs2 => Sys2Proof.Machine.execXor x rd rs1 rs2 s
  | .andn x rd rs1 rs2 => Sys2Proof.Machine.execAndn x rd rs1 rs2 s
  | .sll x rd rs1 rs2 => Sys2Proof.Machine.execSll x rd rs1 rs2 s
  | .srl x rd rs1 rs2 => Sys2Proof.Machine.execSrl x rd rs1 rs2 s
  | .sra x rd rs1 rs2 => Sys2Proof.Machine.execSra x rd rs1 rs2 s
  | .ror x rd rs1 rs2 => Sys2Proof.Machine.execRor x rd rs1 rs2 s
  | .slt x rd rs1 rs2 => Sys2Proof.Machine.execSlt x rd rs1 rs2 s
  | .sltu x rd rs1 rs2 => Sys2Proof.Machine.execSltu x rd rs1 rs2 s
  | .min x rd rs1 rs2 => Sys2Proof.Machine.execMin x rd rs1 rs2 s
  | .max x rd rs1 rs2 => Sys2Proof.Machine.execMax x rd rs1 rs2 s
  | .minu x rd rs1 rs2 => Sys2Proof.Machine.execMinu x rd rs1 rs2 s
  | .maxu x rd rs1 rs2 => Sys2Proof.Machine.execMaxu x rd rs1 rs2 s
  | .clz x rd rs1 => Sys2Proof.Machine.execClz x rd rs1 s
  | .ctz x rd rs1 => Sys2Proof.Machine.execCtz x rd rs1 s
  | .popc x rd rs1 => Sys2Proof.Machine.execPopc x rd rs1 s
  | .bswap x rd rs1 => Sys2Proof.Machine.execBswap x rd rs1 s
  | .mul x rd rs1 rs2 => Sys2Proof.Machine.execMul x rd rs1 rs2 s
  | .mulh x rd rs1 rs2 => Sys2Proof.Machine.execMulh x rd rs1 rs2 s
  | .mulhu x rd rs1 rs2 => Sys2Proof.Machine.execMulhu x rd rs1 rs2 s
  | .div x rd rs1 rs2 => Sys2Proof.Machine.execDiv x rd rs1 rs2 s
  | .divu x rd rs1 rs2 => Sys2Proof.Machine.execDivu x rd rs1 rs2 s
  | .rem x rd rs1 rs2 => Sys2Proof.Machine.execRem x rd rs1 rs2 s
  | .remu x rd rs1 rs2 => Sys2Proof.Machine.execRemu x rd rs1 rs2 s
  | .addi x rd rs imm => Sys2Proof.Machine.execAddi x rd rs imm s
  | .andi x rd rs imm => Sys2Proof.Machine.execAndi x rd rs imm s
  | .ori x rd rs imm => Sys2Proof.Machine.execOri x rd rs imm s
  | .xori x rd rs imm => Sys2Proof.Machine.execXori x rd rs imm s
  | .slti x rd rs imm => Sys2Proof.Machine.execSlti x rd rs imm s
  | .sltiu x rd rs imm => Sys2Proof.Machine.execSltiu x rd rs imm s
  | .slli x rd rs sh => Sys2Proof.Machine.execSlli x rd rs sh s
  | .srli x rd rs sh => Sys2Proof.Machine.execSrli x rd rs sh s
  | .srai x rd rs sh => Sys2Proof.Machine.execSrai x rd rs sh s
  | .rori x rd rs sh => Sys2Proof.Machine.execRori x rd rs sh s
  | .lui x rd imm => Sys2Proof.Machine.execLui x rd imm s
  | .lsi x rd rs imm => Sys2Proof.Machine.execLsi x rd rs imm s
  | .pcadd x rd imm => Sys2Proof.Machine.execPcadd x rd imm s
  | .lb x rt rb off soft => Sys2Proof.Machine.execLb x rt rb off soft s
  | .lbu x rt rb off soft => Sys2Proof.Machine.execLbu x rt rb off soft s
  | .lh x rt rb off soft => Sys2Proof.Machine.execLh x rt rb off soft s
  | .lhu x rt rb off soft => Sys2Proof.Machine.execLhu x rt rb off soft s
  | .lw x rt rb off soft => Sys2Proof.Machine.execLw x rt rb off soft s
  | .lwu x rt rb off soft => Sys2Proof.Machine.execLwu x rt rb off soft s
  | .ld x rt rb off soft => Sys2Proof.Machine.execLd x rt rb off soft s
  | .sb x rt rb off soft => Sys2Proof.Machine.execSb x rt rb off soft s
  | .sh x rt rb off soft => Sys2Proof.Machine.execSh x rt rb off soft s
  | .sw x rt rb off soft => Sys2Proof.Machine.execSw x rt rb off soft s
  | .sd x rt rb off soft => Sys2Proof.Machine.execSd x rt rb off soft s
  | .hmov x hd hs => Sys2Proof.Machine.execHmov x hd hs s
  | .hqry x rd hs => Sys2Proof.Machine.execHqry x rd hs s
  | .hldb x rd rs1 hs soft => Sys2Proof.Machine.execHldb x rd rs1 hs soft s
  | .hldh x rd rs1 hs soft => Sys2Proof.Machine.execHldh x rd rs1 hs soft s
  | .hldw x rd rs1 hs soft => Sys2Proof.Machine.execHldw x rd rs1 hs soft s
  | .hldd x rd rs1 hs soft => Sys2Proof.Machine.execHldd x rd rs1 hs soft s
  | .hstb x rd rs1 hs soft => Sys2Proof.Machine.execHstb x rd rs1 hs soft s
  | .hsth x rd rs1 hs soft => Sys2Proof.Machine.execHsth x rd rs1 hs soft s
  | .hstw x rd rs1 hs soft => Sys2Proof.Machine.execHstw x rd rs1 hs soft s
  | .hstd x rd rs1 hs soft => Sys2Proof.Machine.execHstd x rd rs1 hs soft s
  | .br x rd off => Sys2Proof.Machine.execBr x rd off s
  | .beqz x rs off => Sys2Proof.Machine.execBeqz x rs off s
  | .bnez x rs off => Sys2Proof.Machine.execBnez x rs off s
  | .bltz x rs off => Sys2Proof.Machine.execBltz x rs off s
  | .bgez x rs off => Sys2Proof.Machine.execBgez x rs off s
  | .blez x rs off => Sys2Proof.Machine.execBlez x rs off s
  | .bgtz x rs off => Sys2Proof.Machine.execBgtz x rs off s
  | .jalr x rd rs imm => Sys2Proof.Machine.execJalr x rd rs imm s
  | .amoadd x rd rs1 rs2 soft => Sys2Proof.Machine.execAmoadd x rd rs1 rs2 soft s
  | .amoswap x rd rs1 rs2 soft => Sys2Proof.Machine.execAmoswap x rd rs1 rs2 soft s
  | .cas x rd rs1 rs2 soft => Sys2Proof.Machine.execCas x rd rs1 rs2 soft s
  | .fence x => Sys2Proof.Machine.execFence x s
  | .mfsr x rd sr => Sys2Proof.Machine.execMfsr x rd sr s
  | .mtsr x sr rs => Sys2Proof.Machine.execMtsr x sr rs s
  | .sys x => Sys2Proof.Machine.execSys x s
  | .break x => Sys2Proof.Machine.execBreak x s
  | .eret x => Sys2Proof.Machine.execEret x s
  | .wfi x => Sys2Proof.Machine.execWfi x s
  | .wfiWake core => Sys2Proof.Machine.execWfiWake core s
  | .bget x rd rs ha => Sys2Proof.Machine.execBget x rd rs ha s
  | .bput x rd ha => Sys2Proof.Machine.execBput x rd ha s
  | .chunk x rd rs ha hb => Sys2Proof.Machine.execChunk x rd rs ha hb s
  | .digest x rd rs ha hb => Sys2Proof.Machine.execDigest x rd rs ha hb s
  | .dgsave x rd rs hb => Sys2Proof.Machine.execDgsave x rd rs hb s
  | .dgload x rd rs ha => Sys2Proof.Machine.execDgload x rd rs ha s
  | .pack x rd rs ha hb => Sys2Proof.Machine.execPack x rd rs ha hb s
  | .unpack x rd rs ha hb => Sys2Proof.Machine.execUnpack x rd rs ha hb s
  | .encx x rd rs ha hb => Sys2Proof.Machine.execEncx x rd rs ha hb s
  | .decx x rd rs ha hb => Sys2Proof.Machine.execDecx x rd rs ha hb s
  | .ctxsv x rd rs hb => Sys2Proof.Machine.execCtxsv x rd rs hb s
  | .ctxld x rd rs ha => Sys2Proof.Machine.execCtxld x rd rs ha s
  | .pargen x rd rs ha hb => Sys2Proof.Machine.execPargen x rd rs ha hb s
  | .parfix x rd rs ha hb => Sys2Proof.Machine.execParfix x rd rs ha hb s
  | .lookupFp x rd rs ha hb => Sys2Proof.Machine.execLookupFp x rd rs ha hb s
  | .lookupMap x rd rs hb => Sys2Proof.Machine.execLookupMap x rd rs hb s
  | .lookupKey x rd rs ha hb => Sys2Proof.Machine.execLookupKey x rd rs ha hb s
  | .lookupRec x rd rs hb => Sys2Proof.Machine.execLookupRec x rd rs hb s
  | .mread x rd rs hb => Sys2Proof.Machine.execMread x rd rs hb s
  | .mprog x rd rs ha => Sys2Proof.Machine.execMprog x rd rs ha s
  | .intent x rd rs1 ha => Sys2Proof.Machine.execIntent x rd rs1 ha s
  | .qpost x rd rs1 rs2 ha => Sys2Proof.Machine.execQpost x rd rs1 rs2 ha s
  | .qwait x rd rs1 rs2 => Sys2Proof.Machine.execQwait x rd rs1 rs2 s
  | .qwaitReturn x => Sys2Proof.Machine.execQwaitReturn x s
  | .twait x rd rs1 => Sys2Proof.Machine.execTwait x rd rs1 s
  | .twaitReturn x => Sys2Proof.Machine.execTwaitReturn x s
  | .epochStamp x rd => Sys2Proof.Machine.execEpochStamp x rd s
  | .epochRead x rd => Sys2Proof.Machine.execEpochRead x rd s
  | .epochApplied x rd => Sys2Proof.Machine.execEpochApplied x rd s
  | .ewait x rd rs1 => Sys2Proof.Machine.execEwait x rd rs1 s
  | .ewaitA x rd rs1 => Sys2Proof.Machine.execEwaitA x rd rs1 s
  | .ewaitReturn x => Sys2Proof.Machine.execEwaitReturn x s
  | .cplt x rs1 rs2 ha => Sys2Proof.Machine.execCplt x rs1 rs2 ha s
  | .cpltFinish cluster engine ctx => Sys2Proof.Machine.execCpltFinish cluster engine ctx s
  | .accQwArmWrite a w v => Sys2Proof.Machine.execAccQwArmWrite a w v s
  | .jobEnd job bad => Sys2Proof.Machine.execJobEnd job bad s
  | .jobPreempt job => Sys2Proof.Machine.execJobPreempt job s
  | .accFailed cluster a => Sys2Proof.Machine.execAccFailed cluster a s
  | .stripeCloseTimeout stripe => Sys2Proof.Machine.execStripeCloseTimeout stripe s
  | .stripeProgram stripe => Sys2Proof.Machine.execStripeProgram stripe s
  | .stripeDoneReceive stripe last => Sys2Proof.Machine.execStripeDoneReceive stripe last s
  | .bandNoteReceive band pblk entry pos epoch => Sys2Proof.Machine.execBandNoteReceive band pblk entry pos epoch s
  | .bandGiveReceive bands => Sys2Proof.Machine.execBandGiveReceive bands s
  | .floorReceive e => Sys2Proof.Machine.execFloorReceive e s
  | .victimSelect kind => Sys2Proof.Machine.execVictimSelect kind s
  | .bandErase band => Sys2Proof.Machine.execBandErase band s
  | .patrolPassStart => Sys2Proof.Machine.execPatrolPassStart s
  | .patrolBehind => Sys2Proof.Machine.execPatrolBehind s
  | .checkpointBegin => Sys2Proof.Machine.execCheckpointBegin s
  | .checkpointComplete => Sys2Proof.Machine.execCheckpointComplete s
  | .ckptLate => Sys2Proof.Machine.execCkptLate s
  | .restore => Sys2Proof.Machine.execRestore s
  | .modNoteReceive pos state posn pool serial epoch => Sys2Proof.Machine.execModNoteReceive pos state posn pool serial epoch s
  | .moduleAbsentTimeout pos => Sys2Proof.Machine.execModuleAbsentTimeout pos s
  | .parModFailWrite a pos v => Sys2Proof.Machine.execParModFailWrite a pos v s
  | .parModAcceptWrite a pos v => Sys2Proof.Machine.execParModAcceptWrite a pos v s
  | .holeNoteReceive band entry epoch => Sys2Proof.Machine.execHoleNoteReceive band entry epoch s
  | .lostNoteReceive stripe mask epoch => Sys2Proof.Machine.execLostNoteReceive stripe mask epoch s
  | .rebuildStripe band pos bad => Sys2Proof.Machine.execRebuildStripe band pos bad s
  | .reshapeStepIssue => Sys2Proof.Machine.execReshapeStepIssue s
  | .powerFail => Sys2Proof.Machine.execPowerFail s
  | .dumpCopyComplete copy => Sys2Proof.Machine.execDumpCopyComplete copy s
  | .dumpTimeLimit => Sys2Proof.Machine.execDumpTimeLimit s
  | .parDumpForceWrite a v => Sys2Proof.Machine.execParDumpForceWrite a v s
  | .mlPerstRelease port => Sys2Proof.Machine.execMlPerstRelease port s
  | .pcieLinkTrained port t => Sys2Proof.Machine.execPcieLinkTrained port t s
  | .linkTrainTimeout port => Sys2Proof.Machine.execLinkTrainTimeout port s
  | .linkLost port aer => Sys2Proof.Machine.execLinkLost port aer s
  | .moduleCompletion port c => Sys2Proof.Machine.execModuleCompletion port c s
  | .opTimeout port cid => Sys2Proof.Machine.execOpTimeout port cid s
  | .moduleDmaWrite port addr data => Sys2Proof.Machine.execModuleDmaWrite port addr data s
  | .readPage module port op => Sys2Proof.Machine.execReadPage module port op s
  | .readRetry module port op => Sys2Proof.Machine.execReadRetry module port op s
  | .programPage module port op data sealRec => Sys2Proof.Machine.execProgramPage module port op data sealRec s
  | .eraseBlock module port op => Sys2Proof.Machine.execEraseBlock module port op s
  | .getStatus module port op => Sys2Proof.Machine.execGetStatus module port op s
  | .getGeometry module port op => Sys2Proof.Machine.execGetGeometry module port op s
  | .setFence module port op => Sys2Proof.Machine.execSetFence module port op s
  | .leaseRead module port op => Sys2Proof.Machine.execLeaseRead module port op s
  | .leaseHeartbeat module port op => Sys2Proof.Machine.execLeaseHeartbeat module port op s
  | .leaseAcquire module port op => Sys2Proof.Machine.execLeaseAcquire module port op s
  | .laneLinkChange port lane up => Sys2Proof.Machine.execLaneLinkChange port lane up s
  | .arpRequest port sub ip => Sys2Proof.Machine.execArpRequest port sub ip s
  | .neighbourSolicitation port sub ip => Sys2Proof.Machine.execNeighbourSolicitation port sub ip s
  | .echoRequest port sub ip v6 data => Sys2Proof.Machine.execEchoRequest port sub ip v6 data s
  | .frameDiscard port kind => Sys2Proof.Machine.execFrameDiscard port kind s
  | .roceReadResponse qp psn data ce ok => Sys2Proof.Machine.execRoceReadResponse qp psn data ce ok s
  | .roceAck qp apsn => Sys2Proof.Machine.execRoceAck qp apsn s
  | .roceNak qp psn kind => Sys2Proof.Machine.execRoceNak qp psn kind s
  | .roceRnrNak qp psn => Sys2Proof.Machine.execRoceRnrNak qp psn s
  | .roceRnrDelayExpiry qp => Sys2Proof.Machine.execRoceRnrDelayExpiry qp s
  | .roceCnp qp => Sys2Proof.Machine.execRoceCnp qp s
  | .roceRateRecover qp => Sys2Proof.Machine.execRoceRateRecover qp s
  | .roceAckTimeout qp => Sys2Proof.Machine.execRoceAckTimeout qp s
  | .roceRemoteRequest qp psn => Sys2Proof.Machine.execRoceRemoteRequest qp psn s
  | .cmReq port sub qid size pmtu psn => Sys2Proof.Machine.execCmReq port sub qid size pmtu psn s
  | .cmRtu qp => Sys2Proof.Machine.execCmRtu qp s
  | .cmDreq qp => Sys2Proof.Machine.execCmDreq qp s
  | .receiveBufferPost qp => Sys2Proof.Machine.execReceiveBufferPost qp s
  | .nvmeFlush cmd => Sys2Proof.Machine.execNvmeFlush cmd s
  | .nvmeWrite cmd => Sys2Proof.Machine.execNvmeWrite cmd s
  | .nvmeRead cmd => Sys2Proof.Machine.execNvmeRead cmd s
  | .nvmeCompare cmd => Sys2Proof.Machine.execNvmeCompare cmd s
  | .nvmeWriteZeroes cmd => Sys2Proof.Machine.execNvmeWriteZeroes cmd s
  | .nvmeDatasetManagement cmd => Sys2Proof.Machine.execNvmeDatasetManagement cmd s
  | .nvmeVerify cmd => Sys2Proof.Machine.execNvmeVerify cmd s
  | .nvmeUndefinedOpcode kv c => Sys2Proof.Machine.execNvmeUndefinedOpcode kv c s
  | .kvStore cmd => Sys2Proof.Machine.execKvStore cmd s
  | .kvRetrieve cmd => Sys2Proof.Machine.execKvRetrieve cmd s
  | .kvList cmd => Sys2Proof.Machine.execKvList cmd s
  | .kvDelete cmd => Sys2Proof.Machine.execKvDelete cmd s
  | .kvExist cmd => Sys2Proof.Machine.execKvExist cmd s
  | .connect c subsys => Sys2Proof.Machine.execConnect c subsys s
  | .propertyGet c => Sys2Proof.Machine.execPropertyGet c s
  | .propertySet c => Sys2Proof.Machine.execPropertySet c s
  | .keepAlive c => Sys2Proof.Machine.execKeepAlive c s
  | .abort c => Sys2Proof.Machine.execAbort c s
  | .asynchronousEventRequest c => Sys2Proof.Machine.execAsynchronousEventRequest c s
  | .getLogPage c => Sys2Proof.Machine.execGetLogPage c s
  | .adminCommandHeld c => Sys2Proof.Machine.execAdminCommandHeld c s
  | .reservationRegister c => Sys2Proof.Machine.execReservationRegister c s
  | .reservationReport c => Sys2Proof.Machine.execReservationReport c s
  | .reservationAcquire c => Sys2Proof.Machine.execReservationAcquire c s
  | .reservationRelease c => Sys2Proof.Machine.execReservationRelease c s
  | .heldDataEntry qp => Sys2Proof.Machine.execHeldDataEntry qp s
  | .heldResponseEntry qp => Sys2Proof.Machine.execHeldResponseEntry qp s
  | .feAnaWrite a k v => Sys2Proof.Machine.execFeAnaWrite a k v s
  | .katoExpired ctrl => Sys2Proof.Machine.execKatoExpired ctrl s
  | .feKillWrite a ctrl v => Sys2Proof.Machine.execFeKillWrite a ctrl v s
  | .feSplitWrite a port v => Sys2Proof.Machine.execFeSplitWrite a port v s
  | .sdSignalLoss group => Sys2Proof.Machine.execSdSignalLoss group s
  | .groupTrainTimeout group => Sys2Proof.Machine.execGroupTrainTimeout group s
  | .groupHeartbeatMiss group => Sys2Proof.Machine.execGroupHeartbeatMiss group s
  | .linkNoGroupTimeout => Sys2Proof.Machine.execLinkNoGroupTimeout s
  | .chrtWrite p => Sys2Proof.Machine.execChrtWrite p s
  | .chrtReadReq p => Sys2Proof.Machine.execChrtReadReq p s
  | .chrtReadResp p => Sys2Proof.Machine.execChrtReadResp p s
  | .chrtAck conn apsn => Sys2Proof.Machine.execChrtAck conn apsn s
  | .chrtNakSeq conn apsn => Sys2Proof.Machine.execChrtNakSeq conn apsn s
  | .chrtNakLength conn apsn => Sys2Proof.Machine.execChrtNakLength conn apsn s
  | .chrtNakRemoteAccess conn apsn => Sys2Proof.Machine.execChrtNakRemoteAccess conn apsn s
  | .chrtNakRnr conn apsn => Sys2Proof.Machine.execChrtNakRnr conn apsn s
  | .chrtNakInvalid conn apsn => Sys2Proof.Machine.execChrtNakInvalid conn apsn s
  | .chrtCredit conn grants => Sys2Proof.Machine.execChrtCredit conn grants s
  | .chrtCnp conn => Sys2Proof.Machine.execChrtCnp conn s
  | .chrtRetransmitTimeout conn => Sys2Proof.Machine.execChrtRetransmitTimeout conn s
  | .chrtAckTimer conn => Sys2Proof.Machine.execChrtAckTimer conn s
  | .heartbeatSend => Sys2Proof.Machine.execHeartbeatSend s
  | .heartbeatReceive group hb => Sys2Proof.Machine.execHeartbeatReceive group hb s
  | .intentsReceive recs => Sys2Proof.Machine.execIntentsReceive recs s
  | .descriptorReceive stamp cseq nsid ctrl cid opc cset len => Sys2Proof.Machine.execDescriptorReceive stamp cseq nsid ctrl cid opc cset len s
  | .twinEventReceive code side about epoch p0 p1 p2 => Sys2Proof.Machine.execTwinEventReceive code side about epoch p0 p1 p2 s
  | .controlSendUnknown conn len => Sys2Proof.Machine.execControlSendUnknown conn len s
  | .softwareSendReceive p => Sys2Proof.Machine.execSoftwareSendReceive p s
  | .connectionOpen a conn => Sys2Proof.Machine.execConnectionOpen a conn s
  | .connectionReset a conn => Sys2Proof.Machine.execConnectionReset a conn s
  | .sqNop conn => Sys2Proof.Machine.execSqNop conn s
  | .sqSend conn => Sys2Proof.Machine.execSqSend conn s
  | .sqWrite conn => Sys2Proof.Machine.execSqWrite conn s
  | .sqRead conn => Sys2Proof.Machine.execSqRead conn s
  | .sdMrregWrite a v => Sys2Proof.Machine.execSdMrregWrite a v s
  | .sdMrrevWrite a v => Sys2Proof.Machine.execSdMrrevWrite a v s
  | .mrRevokeDrain => Sys2Proof.Machine.execMrRevokeDrain s
  | .udpLinkDownTimeout conn => Sys2Proof.Machine.execUdpLinkDownTimeout conn s
  | .linkKeyFrameSend => Sys2Proof.Machine.execLinkKeyFrameSend s
  | .linkKeyFrameReceive f => Sys2Proof.Machine.execLinkKeyFrameReceive f s
  | .helloReceive headId role log jsize asvMax asvCur pool last applied d => Sys2Proof.Machine.execHelloReceive headId role log jsize asvMax asvCur pool last applied d s
  | .joinAtReceive e join => Sys2Proof.Machine.execJoinAtReceive e join s
  | .formedReceive p => Sys2Proof.Machine.execFormedReceive p s
  | .clockReceive e0 t0 origin cur next at_ => Sys2Proof.Machine.execClockReceive e0 t0 origin cur next at_ s
  | .joinOfferReceive cut root last => Sys2Proof.Machine.execJoinOfferReceive cut root last s
  | .joinCopy off span data => Sys2Proof.Machine.execJoinCopy off span data s
  | .joinReadyReceive a d => Sys2Proof.Machine.execJoinReadyReceive a d s
  | .joinBackpressureTimeout => Sys2Proof.Machine.execJoinBackpressureTimeout s
  | .leaveReceive l => Sys2Proof.Machine.execLeaveReceive l s
  | .pairHeartbeatMiss => Sys2Proof.Machine.execPairHeartbeatMiss s
  | .sdPairClaimWrite a v => Sys2Proof.Machine.execSdPairClaimWrite a v s
  | .sdPairLeaveWrite a v => Sys2Proof.Machine.execSdPairLeaveWrite a v s
  | .leaveSend => Sys2Proof.Machine.execLeaveSend s
  | .sdSyncWrite a v => Sys2Proof.Machine.execSdSyncWrite a v s
  | .sdSyncgrpWrite a k v => Sys2Proof.Machine.execSdSyncgrpWrite a k v s
  | .memGoWrite a v => Sys2Proof.Machine.execMemGoWrite a v s
  | .fillDone => Sys2Proof.Machine.execFillDone s
  | .refreshSlot channel => Sys2Proof.Machine.execRefreshSlot channel s
  | .memFchgWrite a v => Sys2Proof.Machine.execMemFchgWrite a v s
  | .freqChangeWindow repair ns => Sys2Proof.Machine.execFreqChangeWindow repair ns s
  | .scrubStep ticks found => Sys2Proof.Machine.execScrubStep ticks found s
  | .memTestRawRead a en => Sys2Proof.Machine.execMemTestRawRead a en s
  | .memTestRawWrite a en => Sys2Proof.Machine.execMemTestRawWrite a en s
  | .memTestCheckWrite a en => Sys2Proof.Machine.execMemTestCheckWrite a en s
  | .mergeEntryTimeout line => Sys2Proof.Machine.execMergeEntryTimeout line s
  | .veilFillComplete cache entry => Sys2Proof.Machine.execVeilFillComplete cache entry s
  | .veilClean a v => Sys2Proof.Machine.execVeilClean a v s
  | .veilInvalidate a v => Sys2Proof.Machine.execVeilInvalidate a v s
  | .veilCleanInvalidate a v => Sys2Proof.Machine.execVeilCleanInvalidate a v s
  | .veilOpDone => Sys2Proof.Machine.execVeilOpDone s
  | .nonce a => Sys2Proof.Machine.execNonce a s
  | .unlock a => Sys2Proof.Machine.execUnlock a s
  | .importAkek a => Sys2Proof.Machine.execImportAkek a s
  | .loadAkek a => Sys2Proof.Machine.execLoadAkek a s
  | .unwrap a slot => Sys2Proof.Machine.execUnwrap a slot s
  | .zero a slot => Sys2Proof.Machine.execZero a slot s
  | .dikpub a => Sys2Proof.Machine.execDikpub a s
  | .own a => Sys2Proof.Machine.execOwn a s
  | .testentry a => Sys2Proof.Machine.execTestentry a s
  | .umbCmdComplete => Sys2Proof.Machine.execUmbCmdComplete s
  | .umbDevmapWrite a j v => Sys2Proof.Machine.execUmbDevmapWrite a j v s
  | .alarm sources => Sys2Proof.Machine.execAlarm sources s
  | .alarmRelease => Sys2Proof.Machine.execAlarmRelease s
  | .rngHealthFail test => Sys2Proof.Machine.execRngHealthFail test s
  | .umbDgGo a unit alg => Sys2Proof.Machine.execUmbDgGo a unit alg s
  | .umbDgDone unit => Sys2Proof.Machine.execUmbDgDone unit s
  | .thermalThrottleChange tj sensor => Sys2Proof.Machine.execThermalThrottleChange tj sensor s
  | .powerOnReset => Sys2Proof.Machine.execPowerOnReset s
  | .pinReset => Sys2Proof.Machine.execPinReset s
  | .watchdogExpiry => Sys2Proof.Machine.execWatchdogExpiry s
  | .confirmationReset => Sys2Proof.Machine.execConfirmationReset s
  | .pltRstWrite a v => Sys2Proof.Machine.execPltRstWrite a v s
  | .resetRelease straps tests => Sys2Proof.Machine.execResetRelease straps tests s
  | .dayCmdRead a dev => Sys2Proof.Machine.execDayCmdRead a dev s
  | .dayCmdProgram a dev => Sys2Proof.Machine.execDayCmdProgram a dev s
  | .dayCmdErase a dev => Sys2Proof.Machine.execDayCmdErase a dev s
  | .dayCmdActivate a => Sys2Proof.Machine.execDayCmdActivate a s
  | .dayCmdVerify a dev => Sys2Proof.Machine.execDayCmdVerify a dev s
  | .dayCmdFusekey a idx => Sys2Proof.Machine.execDayCmdFusekey a idx s
  | .dayCmdRevoke a idx => Sys2Proof.Machine.execDayCmdRevoke a idx s
  | .dayCmdComplete fail => Sys2Proof.Machine.execDayCmdComplete fail s
  | .dayConfirmWrite a v => Sys2Proof.Machine.execDayConfirmWrite a v s
  | .pltWdogKick a v => Sys2Proof.Machine.execPltWdogKick a v s
  | .agPostWrite a v => Sys2Proof.Machine.execAgPostWrite a v s
  | .agTokenGain => Sys2Proof.Machine.execAgTokenGain s
  | .obsReplayWrite a v => Sys2Proof.Machine.execObsReplayWrite a v s
  | .svcPerst low => Sys2Proof.Machine.execSvcPerst low s
  | .chrtRnrDelayExpiry conn => Sys2Proof.Machine.execChrtRnrDelayExpiry conn s

end Sys2Proof.Machine
end

