-- ==== Sys2Proof/Machine/Step.lean ====
section
/-! DEFINITION. One step: the command at the front of the queue runs on the state with the queue's rest. -/
namespace Sys2Proof.Machine

/-- The state without its front command. -/
def State.rest (s : State) (q : List Instr) : State := { s with pending := q }

/-- A step: the front command, or, with none waiting, nothing (assumption log 1, DESIGN CHOICE). -/
def step (s : State) : Host.Outcome State Fault Refusal :=
  match s.pending with
  | [] => .next s
  | c :: q => exec c (s.rest q)

/-- The state with the command that a table word spells in front of the queue; no word spells one. -/
def State.withFetchWord (s : State) (nbits w : Nat) : State :=
  match Sys2Proof.decodeTableWord nbits w with
  | some c => { s with pending := c :: s.pending }
  | none => s

end Sys2Proof.Machine
end

