-- ==== Sys2Proof/Safety.lean ====
section
/-! DEFINITION. What counts as a safe run, and the terms in which the statements are made: a command completes, an instruction
executes, and what it leaves alone. -/
namespace Sys2Proof.Machine
open Reg

/-! ### Runs -/

/-- A state that `n` steps lead to, each answering a next state. -/
inductive Reaches : Nat → State → State → Prop
  | here (s : State) : Reaches 0 s s
  | more (n : Nat) (s t u : State) : step s = .next t → Reaches n t u → Reaches (n + 1) s u

/-- A run is safe where every command of the queue is taken: the steps answer next states until the queue is empty. -/
def SafeRun (s : State) : Prop := ∃ t, Reaches s.pending.length s t ∧ t.pending = []

/-! ### Completion -/

/-- A command completes: `exec` answers a next state, with the queue as it was, and the head then meets `P`. -/
def Completes (c : Instr) (s : State) (P : Head → Prop) : Prop := ∃ t, exec c s = .next { s with head := t } ∧ P t

/-- Every byte of memory reads as before. -/
def SameMemory (h t : Head) : Prop := ∀ a, t.byte a = h.byte a

/-- Every byte of memory outside [a, a+n) reads as before. -/
def SameMemoryBut (h t : Head) (a n : Nat) : Prop := ∀ b, b < a ∨ a + n ≤ b → t.byte b = h.byte b

/-- Every register field reads as before. -/
def SameRegisters (h t : Head) : Prop := ∀ f, t.rd f = h.rd f

/-- Every register field but those at the listed keys reads as before. -/
def SameRegistersBut (h t : Head) (fs : List Field) : Prop := ∀ f : Field, (∀ g ∈ fs, f.key ≠ g.key) → t.rd f = h.rd f

/-! ### Records -/

/-- The register fields that a hardware record, its interrupt and its message to the twin may change (R98, R395, R502 to R505). -/
def noteFields : List Field :=
  [AG_STS_TOKENS, AG_STS_NEXTSEQ, AG_STS_EXHAUSTED, AG_HEAD_POS] ++ (List.range 4).map AG_DROP_DROP.bit
    ++ (List.range 32).map CORE_IPEND_PEND.ofCore ++ (List.range 4).map SD_CRED_VC.bit

/-- Nothing of the head changed but what records, their interrupts, trace frames and messages to the twin change: the Afterglow
positions, the lanes' counts, what was given to the outside, and the connections with their credits. -/
def OnlyNotes (h t : Head) : Prop :=
  SameRegistersBut h t noteFields ∧
    t = { h with fields := t.fields, ag := t.ag, out := t.out,
                 plt := { h.plt with traceNext := t.plt.traceNext, traceCount := t.plt.traceCount },
                 sd := { h.sd with conns := t.sd.conns, used := t.sd.used } }

/-- A record of a code, severity and parameters stands in Afterglow that did not before (R502, R503), unless the recorder drops
it: exhausted, out of tokens (R504), or without a position. -/
def Recorded (h t : Head) (code sev p0 p1 p2 p3 : Nat) : Prop :=
  h.rd AG_STS_EXHAUSTED ≠ 1 → (sev < 3 → h.rd AG_STS_TOKENS ≠ 0) → ∀ pos, h.agPosition sev = some pos →
    ∃ r, Tbl.find t.ag pos = some r ∧ r.code = code ∧ r.sev = sev ∧ r.p0 = p0 ∧ r.p1 = p1 ∧ r.p2 = p2 ∧ r.p3 = p3

/-! ### Instructions of a context -/

/-- What a context's general register reads as. -/
def State.reg (s : State) (x : Ctx) (i : Fin 32) : Word := (s.head.ctx (ctxKey x)).gr i

/-- Nothing raw stands at the DRAM lines of [a, a+n): the code reports no error and what the controller wrote last is there
(R437, R439). -/
abbrev CleanLines (h : Head) (a n : Nat) : Prop := ∀ l ∈ linesOf a n, Tbl.find h.memc.lines l = none

/-- The conditions under which a context's next instruction executes: the head is out of reset, the context runs and no dump has
stopped it (R278), no interrupt is taken first (R98), its fetch raises nothing (R93, R94), from DRAM it meets no line with an error
(R437, R439), and its level may execute the instruction (R135, R173). -/
def Executes (h : Head) (x : Ctx) (may : Level → Bool) : Prop :=
  h.plt.inReset = false ∧ (h.ctx (ctxKey x)).run = .running ∧ ¬ (isStream (ctxKey x) = true ∧ h.plt.stopped = true) ∧
    ¬ (isStream (ctxKey x) = false ∧ (h.ctx (ctxKey x)).ie = true ∧ h.pendingIrq (ctxKey x) ≠ 0) ∧
    h.fetchFault (ctxKey x) (h.ctx (ctxKey x)) = none ∧
    (dramBase ≤ (h.ctx (ctxKey x)).pc.toNat → CleanLines h (h.ctx (ctxKey x)).pc.toNat 4) ∧ may (h.ctx (ctxKey x)).level = true

/-- Nothing of the head changed but context `k`: every register field, every byte of memory and everything else of it reads as
before, and so does every other context. -/
def OnlyContext (h t : Head) (k : Nat) : Prop :=
  SameRegisters h t ∧ SameMemory h t ∧ t = { h with ctxs := t.ctxs } ∧ ∀ j, j ≠ k → t.ctx j = h.ctx j

/-- An instruction wrote `v` to general register `rd` and went on at `pc`: no other general register changed, g0 reads as zero
all the same (R118), and nothing else of the context changed. -/
def Wrote (h t : Head) (k : Nat) (rd : Fin 32) (v pc : Word) : Prop :=
  (∀ i, (t.ctx k).gr i = if i = rd ∧ rd.val ≠ 0 then v else (h.ctx k).gr i) ∧
    t.ctx k = { h.ctx k with g := (t.ctx k).g, pc := pc }

/-- The instruction's whole effect: it wrote `v` to `rd` and went on at the next instruction. -/
def Result (h t : Head) (k : Nat) (rd : Fin 32) (v : Word) : Prop :=
  OnlyContext h t k ∧ Wrote h t k rd v ((h.ctx k).pc + 4)

/-! ### Exceptions -/

/-- What taking an exception at a control core does (R96): the saved program counter and status, the cause and the address of the
level, the core's new level with its interrupts off and the level's handler bit set, the program counter at the vector. Nothing
else changed. -/
def TookException (h t : Head) (n : Fin 32) (v : Bool) (code : Nat) (epc : Word) (irq : Nat)
    (x : ExcInfo) : Prop :=
  let k := n.val
  let c := h.ctx k
  let own (a b : Field) : Field := (if v then a else b).ofCore k
  let saved : List (Field × Nat) :=
    [(own CORE_EPC_V_PC CORE_EPC_S_PC, epc.toNat), (own CORE_EST_V_ST CORE_EST_S_ST, c.st.toNat),
     (own CORE_ECAUSE_V_CODE CORE_ECAUSE_S_CODE, code), (own CORE_ECAUSE_V_FROM CORE_ECAUSE_S_FROM, levelCode c.level),
     (own CORE_ECAUSE_V_STORE CORE_ECAUSE_S_STORE, x.store.toNat),
     (own CORE_ECAUSE_V_FETCH CORE_ECAUSE_S_FETCH, x.fetch.toNat),
     (own CORE_ECAUSE_V_IRQ CORE_ECAUSE_S_IRQ, irq), (own CORE_EADDR_V_ADDR CORE_EADDR_S_ADDR, x.addr % 2 ^ 48)]
  (∀ p ∈ saved, t.rd p.1 = p.2) ∧ SameRegistersBut h t (saved.map (·.1)) ∧ SameMemory h t ∧
    t = { h with fields := t.fields, ctxs := t.ctxs } ∧ (∀ j, j ≠ k → t.ctx j = h.ctx j) ∧
    t.ctx k = { c with level := if v then .v else .s, ie := false, exls := c.exls || !v, exlv := c.exlv || v, run := .running,
                       pc := BitVec.ofNat 64 (h.rd (own CORE_VBASE_V_BASE CORE_VBASE_S_BASE) * 4096 + 64 * code) }

/-- A level's handler bit is clear: an exception at it is taken (R97). -/
def MayTake (c : Context) (v : Bool) : Prop := (if v then c.exlv else c.exls) = false

/-! ### Memory as a context reaches it -/

/-- The key names bytes of DRAM. -/
def IsDram (key : Nat) : Prop := dramBase ≤ key ∧ key < 2 ^ 48

/-- Other contexts read as before, and everything of the head but what an access to DRAM passes through (the caches, their
registers, the merge buffer) is as before, memory aside. -/
def OnlyAccess (h t : Head) (k : Nat) : Prop :=
  (∀ j, j ≠ k → t.ctx j = h.ctx j) ∧
    t = { h with ctxs := t.ctxs, mem := t.mem, fields := t.fields, veilEntries := t.veilEntries, veilClock := t.veilClock,
                 memc := { h.memc with merge := t.memc.merge, lines := t.memc.lines } }

/-- A number of `n` bytes as a register takes it, with or without its sign (R125). -/
def extended (signed : Bool) (n v : Nat) : Word :=
  if signed ∧ 2 ^ (8 * n - 1) ≤ v then BitVec.ofInt 64 ((v : Int) - 2 ^ (8 * n)) else BitVec.ofNat 64 v

/-! ### Register accesses -/

/-- A command that is a register access, with the address it reaches and whether it is a write. -/
inductive Makes (x : Access) : Instr → Nat → Bool → Prop
  | registerWrite (addr : BitVec 48) (v : Word) : Makes x (.registerWrite x addr v) addr.toNat true
  | rcFieldRead (addr : BitVec 48) : Makes x (.rcFieldRead x addr) addr.toNat false
  | unitEnWrite (u : UnitId) (v : Word) : Makes x (.unitEnWrite x u v) (unitFields u).1.addr true
  | merSeedWrite (v : Word) : Makes x (.merSeedWrite x v) MER_SEED_SEED.addr true
  | merEplenNextWrite (v : Word) : Makes x (.merEplenNextWrite x v) MER_EPLEN_NEXT.addr true
  | merEplenAtWrite (v : Word) : Makes x (.merEplenAtWrite x v) MER_EPLEN_AT_AT.addr true
  | merBudgetWrite (b : Bool) (v : Word) :
      Makes x (.merBudgetWrite x b v) (if b then MER_BUDB_CKPT.addr else MER_BUDA_GC.addr) true
  | merEpochRead : Makes x (.merEpochRead x) MER_EPOCH_EPOCH.addr false
  | cmtJbaseWrite (v : Word) : Makes x (.cmtJbaseWrite x v) CMT_JBASE_BASE.addr true
  | cmtJsizeWrite (v : Word) : Makes x (.cmtJsizeWrite x v) CMT_JSIZE_GIB.addr true
  | cmtAppliedRead : Makes x (.cmtAppliedRead x) CMT_APPLIED_EPOCH.addr false
  | coreDbellWrite (v : Word) : Makes x (.coreDbellWrite x v) CORE_DBELL_RING.addr true
  | coreReleaseWrite (v : Word) : Makes x (.coreReleaseWrite x v) CORE_RELEASE_CORE.addr true
  | accQwArmWrite (w : Fin 32) (v : Word) : Makes x (.accQwArmWrite x w v) (ACC_QW_CTL_ARM.nth w).addr true
  | parModFailWrite (p : Fin 32) (v : Word) : Makes x (.parModFailWrite x p v) (PAR_MOD_FAIL.nth p).addr true
  | parModAcceptWrite (p : Fin 32) (v : Word) : Makes x (.parModAcceptWrite x p v) (PAR_MOD_ACCEPT.nth p).addr true
  | parDumpForceWrite (v : Word) : Makes x (.parDumpForceWrite x v) PAR_DUMP_FORCE.addr true
  | feAnaWrite (k : Fin 16) (v : Word) : Makes x (.feAnaWrite x k v) (FE_ANA_GRP.nth k).addr true
  | feKillWrite (c : Fin 4096) (v : Word) : Makes x (.feKillWrite x c v) (FE_C_CTL_KILL.nth c).addr true
  | feSplitWrite (p : Fin 8) (v : Word) : Makes x (.feSplitWrite x p v) (FE_P_CTL_SPLIT.nth p).addr true
  | connectionOpen (c : BitVec 10) : Makes x (.connectionOpen x c) SD_CNCTL_CONN.addr true
  | connectionReset (c : BitVec 10) : Makes x (.connectionReset x c) SD_CNCTL_CONN.addr true
  | sdMrregWrite (v : Word) : Makes x (.sdMrregWrite x v) SD_MRREG_INDEX.addr true
  | sdMrrevWrite (v : Word) : Makes x (.sdMrrevWrite x v) SD_MRREV_INDEX.addr true
  | sdPairClaimWrite (v : Word) : Makes x (.sdPairClaimWrite x v) SD_PAIR_CTL_CLAIM.addr true
  | sdPairLeaveWrite (v : Word) : Makes x (.sdPairLeaveWrite x v) SD_PAIR_CTL_LEAVE.addr true
  | sdSyncWrite (v : Word) : Makes x (.sdSyncWrite x v) SD_SYNC_EPOCH.addr true
  | sdSyncgrpWrite (k : Fin 4) (v : Word) : Makes x (.sdSyncgrpWrite x k v) (SD_SYNCGRP_MASK.nth k).addr true
  | memGoWrite (v : Word) : Makes x (.memGoWrite x v) MEM_CTL_GO.addr true
  | memFchgWrite (v : Word) : Makes x (.memFchgWrite x v) MEM_CTL_FCHG.addr true
  | memTestRawRead (b : Bool) : Makes x (.memTestRawRead x b) MEM_TEST_EN.addr true
  | memTestRawWrite (b : Bool) : Makes x (.memTestRawWrite x b) MEM_TEST_EN.addr true
  | memTestCheckWrite (b : Bool) : Makes x (.memTestCheckWrite x b) MEM_TEST_EN.addr true
  | veilClean (v : Word) : Makes x (.veilClean x v) VEIL_OP_OP.addr true
  | veilInvalidate (v : Word) : Makes x (.veilInvalidate x v) VEIL_OP_OP.addr true
  | veilCleanInvalidate (v : Word) : Makes x (.veilCleanInvalidate x v) VEIL_OP_OP.addr true
  | nonce : Makes x (.nonce x) UMB_CMD_OP.addr true
  | unlock : Makes x (.unlock x) UMB_CMD_OP.addr true
  | importAkek : Makes x (.importAkek x) UMB_CMD_OP.addr true
  | loadAkek : Makes x (.loadAkek x) UMB_CMD_OP.addr true
  | unwrap (k : BitVec 16) : Makes x (.unwrap x k) UMB_CMD_OP.addr true
  | zero (k : BitVec 16) : Makes x (.zero x k) UMB_CMD_OP.addr true
  | dikpub : Makes x (.dikpub x) UMB_CMD_OP.addr true
  | own : Makes x (.own x) UMB_CMD_OP.addr true
  | testentry : Makes x (.testentry x) UMB_CMD_OP.addr true
  | umbDevmapWrite (j : Fin 2) (v : Word) : Makes x (.umbDevmapWrite x j v) (UMB_DEVMAP_SLOT.nth j).addr true
  | umbDgGo (n : Fin 4) (alg : BitVec 3) : Makes x (.umbDgGo x n alg) (UMB_DG_CTL_GO.nth n).addr true
  | pltRstWrite (v : Word) : Makes x (.pltRstWrite x v) PLT_RST_GO.addr true
  | dayCmdRead (d : BitVec 2) : Makes x (.dayCmdRead x d) DAY_CMD_OP.addr true
  | dayCmdProgram (d : BitVec 2) : Makes x (.dayCmdProgram x d) DAY_CMD_OP.addr true
  | dayCmdErase (d : BitVec 2) : Makes x (.dayCmdErase x d) DAY_CMD_OP.addr true
  | dayCmdActivate : Makes x (.dayCmdActivate x) DAY_CMD_OP.addr true
  | dayCmdVerify (d : BitVec 2) : Makes x (.dayCmdVerify x d) DAY_CMD_OP.addr true
  | dayCmdFusekey (k : BitVec 2) : Makes x (.dayCmdFusekey x k) DAY_CMD_OP.addr true
  | dayCmdRevoke (k : BitVec 2) : Makes x (.dayCmdRevoke x k) DAY_CMD_OP.addr true
  | dayConfirmWrite (v : Word) : Makes x (.dayConfirmWrite x v) DAY_CONFIRM_GO.addr true
  | pltWdogKick (v : Word) : Makes x (.pltWdogKick x v) PLT_WDOG_KICK.addr true
  | agPostWrite (v : Word) : Makes x (.agPostWrite x v) AG_POST_POST.addr true
  | obsReplayWrite (v : Word) : Makes x (.obsReplayWrite x v) OBS_CTL_REPLAY.addr true

/-- An access that the head serves and does not turn away (R3, R8, R11, R120, R511). -/
def Accepted (h : Head) (x : Access) (a : Nat) : Prop :=
  h.plt.inReset = false ∧ h.served x.origin = true ∧ h.turnedAway x a = none

/-- A write completes: its effect is `P`, and the requester is answered. -/
def WriteDone (c : Instr) (s : State) (P : Head → Prop) : Prop := Completes c s (fun t => ∃ u, t = u.reply .done ∧ P u)

/-- Besides the listed register fields and what records change, the head is `u`. -/
def Beside (h t : Head) (fs : List Field) (u : Head) : Prop :=
  SameRegistersBut h t (fs ++ noteFields) ∧
    t = { u with fields := t.fields, ag := t.ag, out := t.out,
                 plt := { u.plt with traceNext := t.plt.traceNext, traceCount := t.plt.traceCount },
                 sd := { u.sd with conns := t.sd.conns, used := t.sd.used } }

/-- Only the listed register fields changed. -/
def OnlyFields (h t : Head) (fs : List Field) : Prop := SameRegistersBut h t fs ∧ t = { h with fields := t.fields }

/-- The registers whose write starts something beside giving their fields values. -/
def effectRegisters : List Field :=
  [PLT_RST_GO, PLT_WDOG_PERIOD, DAY_CMD_OP, DAY_CONFIRM_GO, AG_POST_POST, OBS_CTL_LANEEN, FE_ADMIT_MAX, FE_ANA_GRP, FE_P_CTL_EN,
    FE_C_CTL_EN, MER_CTL_PRI0, MER_EPLEN_CUR, MER_EPLEN_AT_AT, MER_SEED_SEED, MER_BUDA_GC, MER_BUDB_CKPT, CORE_EST_S_ST,
    CORE_EST_V_ST, CORE_DBELL_RING, CORE_RELEASE_CORE, CORE_CL_CTL_EN, ACC_CL_CTL_EN, ACC_QW_CTL_QUEUE, ACC_QW_THR_THRESH,
    PAR_DUMP_COPIES, PAR_MOD_STATE, ML_P_CTL_EN, SD_MRREG_INDEX, SD_MRREV_INDEX, SD_CNCTL_CONN, SD_G_CTL_EN, SD_PAIR_CTL_HBSLACK,
    SD_SYNC_EPOCH, SD_SYNCGRP_MASK, MEM_CTL_RATE, MEM_TEST_EN, BLW_CTL_LOCK, BLW_POOL_CNT_COUNT, VEIL_C_CTL_EN, VEIL_OP_OP,
    UMB_CMD_OP, UMB_DEVMAP_SLOT, UMB_DG_CTL_ALG,
    FB_PCL_BUF, CMT_JBASE_BASE, CMT_JSIZE_GIB]

/-! ### Messages of the twin -/

/-- A control message arrives: the head is out of reset, has not declared the twin failed (R411), and its connection is READY (R384). -/
def OnMessage (c : Nat) (i : Instr) (s : State) (P : Head → Prop) : Prop :=
  s.head.plt.inReset = false → s.head.pair.deaf = false → (s.head.conn c).state = 1 → Completes i s P

end Sys2Proof.Machine
end

