-- ==== Sys2Proof/Certificates/Slice0/Obligations.lean ====
section
/-! DEFINITION. The statements for the provers. Each names the rules of spec/ that it formalises; a statement about one of
several commands of one shape names each of them. -/
open Sys2Proof Sys2Proof.Machine Sys2Proof.Machine.Reg


/-- For every command, state and rest of a queue: step of the state whose queue is the command followed by the rest is exec of
the command on the state whose queue is the rest, and it answers a next state whose queue is that rest. With no command
waiting a step answers the state itself: that is the model's choice (assumption log 1, DESIGN CHOICE), no rule of the
spec. No table word spells a command, so placing one changes nothing. -/
def Obligations.StepRunsTheFrontCommand : Prop :=
  ∀ (c : Instr) (s : State) (q : List Instr) (nbits w : Nat),
    step { s with pending := c :: q } = exec c { s with pending := q } ∧
    (∃ h, step { s with pending := c :: q } = .next { pending := q, head := h }) ∧
    step { s with pending := [] } = .next { s with pending := [] } ∧
    s.withFetchWord nbits w = s

/-- Among these, core 0 running after reset and the other cores held are the model's reading of R485 (assumption log 40,
DEDUCED). -/
def Obligations.ResetLeavesTheStatedValues : Prop :=
  let h := State.reset.head
  let stated : List (Field × Nat) :=
    [(MER_EPLEN_CUR, 250), (MER_EPLEN_NEXT, 250), (MER_EPOCH_EPOCH, 2 ^ 63 - 1), (MER_EPLEN_AT_AT, 2 ^ 63 - 1), (MER_BUDA_GC, 25),
     (MER_BUDA_FOLD, 13), (MER_BUDA_PATROL, 5), (MER_BUDA_SCRUB, 3), (MER_BUDB_CKPT, 5), (MER_BUDB_REBUILD, 75), (MER_BUDB_AUDIT, 10),
     (MER_STS_SRC, 6), (MER_STS_EPVALID, 0), (CMT_CTL_LAGMAX, 32), (CMT_CTL_JLOW, 256), (CMT_LAST_EPOCH, 2 ^ 63 - 1),
     (CMT_APPLIED_EPOCH, 2 ^ 63 - 1), (CMT_SEALED_EPOCH, 2 ^ 63 - 1), (CORE_CL_STS_ACTIVE.nth 23, 0xFF), (CX_IDLOW_IDLOW, 1048576),
     (FB_CTL_FGBP, 300), (FB_CTL_BGBP, 1500), (FB_BUF_TARGET, 600), (PAR_CTL_ABSENTS, 60), (ML_CTL_RETRYMAX, 7), (FE_STS_NOTREADY, 1),
     (FE_ADMIT_MAX, 262144), (FE_CTL_ACKTO, 20), (FE_P_LANE_MAP.nth 7, 0xE4), (SD_CTL_RTO0, 8), (SD_CTL_RTOMAX, 1000),
     (SD_PAIR_CTL_HBSLACK, 100), (MEM_PPRTHR_ROWCE, 4), (MEM_STS_FILLDONE, 0), (VEIL_C_MASK_MASK.el 27 3 0, 2 ^ 48 - 1),
     (UMB_STS_RNGOK, 1), (PLT_WDOG_PERIOD, 10000), (PLT_WDOG_EN, 0), (PLT_THERM_THROTTLE, 110), (AG_STS_TOKENS, 4096)]
  (∀ p ∈ stated, h.rd p.1 = p.2) ∧ (∀ g < 256, h.anaState g = 2) ∧ State.reset.pending = [] ∧
    (∀ i ∈ State.reset.pending, i.wf = true) ∧ h.plt.inReset = false ∧ Memory.wf h.mem = true ∧ Tbl.ordered h.fields = true ∧
    (∀ c : Fin 32, (h.ctx c.val).run = if c.val = 0 then .running else .reset)

/-- For every state: the run of as many steps as commands wait is a safe run, every step answering a next state until the
queue is empty; the state it ends in is the only one so many steps reach; and after any smaller number of steps the queue
is what is left of it, in its order. -/
def Obligations.EveryRunTakesItsCommandsInOrder : Prop :=
  ∀ s : State, SafeRun s ∧ (∀ t u, Reaches s.pending.length s t → Reaches s.pending.length s u → t = u) ∧
    ∀ n t, n ≤ s.pending.length → Reaches n s t → t.pending = s.pending.drop n

/-- For every state whose waiting commands are all well formed, a step that answers a next state leaves the rest of them
waiting, all well formed. For every state whose head is held in reset, with any command at the front but POWER_ON_RESET,
PIN_RESET, RESET_RELEASE, ALARM, ALARM_RELEASE and the ten operations that a module carries out, the step leaves the head
exactly as it is; the ten operations change nothing of it but the modules and what was given to the outside; and only
RESET_RELEASE ends the hold. -/
def Obligations.StepsKeepWellFormedQueuesAndHeldHeads : Prop :=
  let modules (c : Instr) : Prop := match c with
    | .readPage .. | .readRetry .. | .programPage .. | .eraseBlock .. | .getStatus .. | .getGeometry .. | .setFence .. | .leaseRead ..
    | .leaseHeartbeat .. | .leaseAcquire .. => True
    | _ => False
  let resets (c : Instr) : Prop := match c with
    | .powerOnReset | .pinReset | .resetRelease .. | .alarm .. | .alarmRelease => True
    | _ => False
  let release (c : Instr) : Prop := match c with
    | .resetRelease .. => True
    | _ => False
  ∀ s t : State, step s = .next t →
    ((∀ i ∈ s.pending, i.wf = true) → ∀ i ∈ t.pending, i.wf = true) ∧
    (s.head.plt.inReset = true → ∀ c q, s.pending = c :: q →
      (¬ modules c → ¬ resets c → t.head = s.head) ∧
      (modules c → t.head = { s.head with modules := t.head.modules, out := t.head.out }) ∧
      (¬ release c → t.head.plt.inReset = true))

/-- ADD, SUB, AND, OR, XOR, ANDN, SLT, SLTU, MIN, MAX, MINU, MAXU, CLZ, CTZ, POPC and BSWAP (R121), on every context, every
register number and every operand: where the instruction executes, exec answers a next state in which g[rd] holds the
result (g0 keeps reading as zero, R118): for CLZ and CTZ the zero bits above the highest one bit or below the lowest, 64
for zero, for POPC the one bits, for BSWAP the eight bytes in the opposite order. The context goes on at the next
instruction, and no other register, byte of memory, register field or context changed. -/
def Obligations.IntegerRegisterForms : Prop :=
  ∀ (s : State) (x : Ctx) (rd a b : Fin 32), Executes s.head x anyLevel →
    let A := s.reg x a
    let B := s.reg x b
    let done (c : Instr) (v : Word) : Prop := Completes c s (fun t => Result s.head t (ctxKey x) rd v)
    let bits (c : Instr) (f : Bool → Bool → Bool) : Prop :=
      ∃ v : Word, (∀ i < 64, v.getLsbD i = f (A.getLsbD i) (B.getLsbD i)) ∧ done c v
    let gives (c : Instr) (p : Word → Prop) : Prop := ∃ v : Word, p v ∧ done c v
    done (.add x rd a b) (BitVec.ofNat 64 (A.toNat + B.toNat)) ∧
    done (.sub x rd a b) (BitVec.ofInt 64 (A.toInt - B.toInt)) ∧
    bits (.and x rd a b) (fun p q => p && q) ∧
    bits (.or x rd a b) (fun p q => p || q) ∧
    bits (.xor x rd a b) (fun p q => p != q) ∧
    bits (.andn x rd a b) (fun p q => p && !q) ∧
    done (.slt x rd a b) (if A.toInt < B.toInt then 1 else 0) ∧
    done (.sltu x rd a b) (if A.toNat < B.toNat then 1 else 0) ∧
    done (.min x rd a b) (if A.toInt ≤ B.toInt then A else B) ∧
    done (.max x rd a b) (if A.toInt ≤ B.toInt then B else A) ∧
    done (.minu x rd a b) (if A.toNat ≤ B.toNat then A else B) ∧
    done (.maxu x rd a b) (if A.toNat ≤ B.toNat then B else A) ∧
    gives (.clz x rd a) (fun v => v.toNat ≤ 64 ∧ (∀ i < 64, 64 - v.toNat ≤ i → A.getLsbD i = false) ∧
      (v.toNat < 64 → A.getLsbD (63 - v.toNat) = true)) ∧
    gives (.ctz x rd a) (fun v => v.toNat ≤ 64 ∧ (∀ i < v.toNat, A.getLsbD i = false) ∧
      (v.toNat < 64 → A.getLsbD v.toNat = true)) ∧
    gives (.popc x rd a) (fun v => v.toNat = ((List.range 64).filter (fun i => A.getLsbD i)).length) ∧
    gives (.bswap x rd a) (fun v => ∀ i < 8, ∀ j < 8, v.getLsbD (8 * i + j) = A.getLsbD (8 * (7 - i) + j))

/-- ADDI, ANDI, ORI, XORI, SLTI, SLTIU, SLLI, SRLI, SRAI, RORI, LUI, LSI and PCADD (R123), and SLL, SRL, SRA and ROR with the
amount in bits [5:0] of g[rs2], on every context, register number, operand, amount and immediate: where the instruction
executes, exec answers a next state in which g[rd] holds the sum or comparison with the sign-extended immediate, the
bitwise combination with the zero-extended one, the operand times or divided by two to the amount (rounded down, of the
signed value for SRA) or rotated right by it, the immediate placed at bit 16, the operand shifted by 16 with the immediate
below it, or the address of the instruction plus four times the immediate; the context goes on at the next instruction and
nothing else changed. -/
def Obligations.ShiftsAndImmediates : Prop :=
  ∀ (s : State) (x : Ctx) (rd a b : Fin 32) (sh : Fin 64) (imm : BitVec 16), Executes s.head x anyLevel →
    let A := s.reg x a
    let n := (s.reg x b).toNat % 64
    let low (i : Nat) : Bool := imm.getLsbD i
    let done (c : Instr) (v : Word) : Prop := Completes c s (fun t => Result s.head t (ctxKey x) rd v)
    let bits (c : Instr) (f : Nat → Bool) : Prop := ∃ v : Word, (∀ i < 64, v.getLsbD i = f i) ∧ done c v
    let rotated (c : Instr) (n : Nat) : Prop := bits c (fun i => A.getLsbD ((i + n) % 64))
    done (.sll x rd a b) (BitVec.ofNat 64 (A.toNat * 2 ^ n)) ∧
    done (.srl x rd a b) (BitVec.ofNat 64 (A.toNat / 2 ^ n)) ∧
    done (.sra x rd a b) (BitVec.ofInt 64 (A.toInt / 2 ^ n)) ∧
    rotated (.ror x rd a b) n ∧
    done (.slli x rd a sh) (BitVec.ofNat 64 (A.toNat * 2 ^ sh.val)) ∧
    done (.srli x rd a sh) (BitVec.ofNat 64 (A.toNat / 2 ^ sh.val)) ∧
    done (.srai x rd a sh) (BitVec.ofInt 64 (A.toInt / 2 ^ sh.val)) ∧
    rotated (.rori x rd a sh) sh.val ∧
    done (.addi x rd a imm) (BitVec.ofInt 64 (A.toInt + imm.toInt)) ∧
    bits (.andi x rd a imm) (fun i => A.getLsbD i && low i) ∧
    bits (.ori x rd a imm) (fun i => A.getLsbD i || low i) ∧
    bits (.xori x rd a imm) (fun i => A.getLsbD i != low i) ∧
    done (.slti x rd a imm) (if A.toInt < imm.toInt then 1 else 0) ∧
    done (.sltiu x rd a imm) (if A.toNat < (BitVec.ofInt 64 imm.toInt).toNat then 1 else 0) ∧
    done (.lui x rd imm) (BitVec.ofInt 64 (imm.toInt * 65536)) ∧
    bits (.lsi x rd a imm) (fun i => if i < 16 then low i else A.getLsbD (i - 16)) ∧
    done (.pcadd x rd imm) (BitVec.ofInt 64 ((s.head.ctx (ctxKey x)).pc.toInt + 4 * imm.toInt))

/-- MUL, MULH, MULHU, DIV, DIVU, REM and REMU (R121, R122), on every context, register number and operand, a divisor of zero
and the overflowing quotient among them: where the instruction executes, exec answers a next state in which g[rd] holds
the low or high half of the product, the quotient rounded toward zero, or the remainder with the dividend's sign; the
context goes on at the next instruction, no exception is raised and nothing else changed. -/
def Obligations.ProductsAndQuotients : Prop :=
  ∀ (s : State) (x : Ctx) (rd a b : Fin 32), Executes s.head x anyLevel →
    let A := s.reg x a
    let B := s.reg x b
    let done (c : Instr) (p : Word → Prop) : Prop :=
      ∃ v : Word, p v ∧ Completes c s (fun t => Result s.head t (ctxKey x) rd v)
    done (.mul x rd a b) (fun v => v.toNat = A.toNat * B.toNat % 2 ^ 64) ∧
    done (.mulh x rd a b) (fun v => v.toInt = A.toInt * B.toInt / 2 ^ 64) ∧
    done (.mulhu x rd a b) (fun v => v.toNat = A.toNat * B.toNat / 2 ^ 64) ∧
    done (.div x rd a b) (fun v => (B = 0 → v = 0xFFFFFFFFFFFFFFFF) ∧
      (A = 0x8000000000000000 → B = -1 → v = 0x8000000000000000) ∧
      (B ≠ 0 → ¬ (A = 0x8000000000000000 ∧ B = -1) → v.toInt = A.toInt.tdiv B.toInt)) ∧
    done (.divu x rd a b) (fun v => (B = 0 → v = 0xFFFFFFFFFFFFFFFF) ∧ (B ≠ 0 → v.toNat = A.toNat / B.toNat)) ∧
    done (.rem x rd a b) (fun v => (B = 0 → v = A) ∧ (A = 0x8000000000000000 → B = -1 → v = 0) ∧
      (B ≠ 0 → v.toInt = A.toInt - B.toInt * A.toInt.tdiv B.toInt)) ∧
    done (.remu x rd a b) (fun v => (B = 0 → v = A) ∧ (B ≠ 0 → v.toNat = A.toNat - B.toNat * (A.toNat / B.toNat)))

/-- BR, BEQZ, BNEZ, BLTZ, BGEZ, BLEZ, BGTZ and JALR (R128), on every context, register number, operand and offset: where the
instruction executes, exec answers a next state in which the context goes on at the target, PC plus four times the offset,
if the signed condition holds, else at the next instruction; BR and JALR write the address of the next instruction to
g[rd]; JALR goes to g[rs] plus the immediate where that is a multiple of 4. Nothing else changed, whether or not the
target can be fetched. -/
def Obligations.BranchesAndJumps : Prop :=
  ∀ (s : State) (x : Ctx) (rd a : Fin 32) (off : BitVec 21) (imm : BitVec 16), Executes s.head x anyLevel →
    let A := s.reg x a
    let k := ctxKey x
    let pc := (s.head.ctx k).pc
    let there := BitVec.ofInt 64 (pc.toInt + 4 * off.toInt)
    let goes (c : Instr) (dest : Word) : Prop :=
      Completes c s (fun t => OnlyContext s.head t k ∧ t.ctx k = { s.head.ctx k with pc := dest })
    let links (c : Instr) (dest : Word) : Prop :=
      Completes c s (fun t => OnlyContext s.head t k ∧ Wrote s.head t k rd (pc + 4) dest)
    let onlyIf (p : Prop) [Decidable p] : Word := if p then there else pc + 4
    links (.br x rd off) there ∧
    goes (.beqz x a off) (onlyIf (A.toInt = 0)) ∧
    goes (.bnez x a off) (onlyIf (A.toInt ≠ 0)) ∧
    goes (.bltz x a off) (onlyIf (A.toInt < 0)) ∧
    goes (.bgez x a off) (onlyIf (0 ≤ A.toInt)) ∧
    goes (.blez x a off) (onlyIf (A.toInt ≤ 0)) ∧
    goes (.bgtz x a off) (onlyIf (0 < A.toInt)) ∧
    ((A + BitVec.ofInt 64 imm.toInt).toNat % 4 = 0 → links (.jalr x rd a imm) (A + BitVec.ofInt 64 imm.toInt))

/-- SYS, BREAK, UNDEFINED_INSTRUCTION with any word that no row defines, and INTERRUPT_TAKE on every control core: where the
instruction executes, or an interrupt is pending, unmasked and enabled, and the handler bit of the level is clear, exec
answers a next state in which EPC, EST, ECAUSE and EADDR of the level hold what R96 saves (for SYS the address of the next
instruction, for an interrupt the sources pending; SYS at level V, the others at the current level), ST has the level, IE
0 and EXL 1, and the core goes on at the vector base plus 64 times the code. No other register, byte of memory or context
changed. -/
def Obligations.ExceptionEntryOnControlCores : Prop :=
  ∀ (s : State) (n : Fin 32) (word : BitVec 32), wordDefined word = false →
    let h := s.head
    let c := h.ctx n.val
    let v : Bool := decide (c.level = .v)
    (Executes h (.core n) notC → MayTake c true →
      Completes (.sys (.core n)) s (fun t => TookException h t n true 7 (c.pc + 4) 0 .none)) ∧
    (Executes h (.core n) anyLevel → MayTake c v →
      Completes (.break (.core n)) s (fun t => TookException h t n v 8 c.pc 0 .none) ∧
      Completes (.undefinedInstruction ⟨.core n, word, .clean⟩) s (fun t => TookException h t n v 1 c.pc 0 .none)) ∧
    (h.plt.inReset = false → (c.run = .running ∨ (∃ e rd, c.run = .epoch e rd) ∨ (∃ e rd, c.run = .applied e rd)) →
      c.ie = true → h.pendingIrq n.val ≠ 0 → MayTake c v →
      Completes (.interruptTake n) s (fun t => TookException h t n v 16 c.pc (h.rd (CORE_IPEND_PEND.ofCore n.val) % 32) .none))

/-- ERET (R133): inside a handler of its level, with EST naming S, or V at level V, exec answers a next state in which the
core has the level, IE and EXL bits of EST and goes on at EPC with its low two bits zero. MFSR (R131) of ST, EP, CXID and
TK writes the register's value to g[rd] at every level; MTSR to TK replaces TK, and to ST, with no other bit of g[rs]
differing, it replaces IE (ignored on a stream engine). Nothing else changed. -/
def Obligations.ExceptionReturnAndSpecialRegisters : Prop :=
  ∀ (s : State) (x : Ctx) (n : Fin 32) (rd rs : Fin 32),
    let h := s.head
    let k := ctxKey x
    let c := h.ctx k
    let word : Word := BitVec.ofNat 64 ((match c.level with | .v => 0 | .s => 1 | .c => 2) + 4 * c.ie.toNat
      + 8 * c.exls.toNat + 16 * c.exlv.toNat)
    let cxid : Nat := match x with
      | .core m => 0xF0 + 2 ^ 8 * m.val + 2 ^ 13 * h.headId
      | .stream cl e y => y.val + 2 ^ 4 * e.val + 2 ^ 8 * cl.val + 2 ^ 13 * h.headId + 2 ^ 15
    let only (i : Instr) (c' : Context) : Prop := Completes i s (fun t => OnlyContext h t k ∧ t.ctx k = c')
    (Executes h x anyLevel →
      Completes (.mfsr x rd 0) s (fun t => Result h t k rd word) ∧
      Completes (.mfsr x rd 1) s (fun t => Result h t k rd (BitVec.ofNat 64 h.epoch)) ∧
      Completes (.mfsr x rd 2) s (fun t => Result h t k rd (BitVec.ofNat 64 cxid)) ∧
      Completes (.mfsr x rd 3) s (fun t => Result h t k rd c.tk) ∧
      only (.mtsr x 3 rs) { c with pc := c.pc + 4, tk := s.reg x rs } ∧
      ((∀ i < 64, i ≠ 2 → (s.reg x rs).getLsbD i = word.getLsbD i) →
        only (.mtsr x 0 rs) { c with pc := c.pc + 4, ie := if isStream k then c.ie else (s.reg x rs).getLsbD 2 })) ∧
    (let c := h.ctx n.val
     let v : Bool := decide (c.level = .v)
     let est := h.rd ((if v then CORE_EST_V_ST else CORE_EST_S_ST).ofCore n.val)
     let epc := h.rd ((if v then CORE_EPC_V_PC else CORE_EPC_S_PC).ofCore n.val)
     Executes h (.core n) notC → (if v then c.exlv else c.exls) = true → (est % 4 = 1 ∨ (est % 4 = 0 ∧ v = true)) →
      Completes (.eret (.core n)) s (fun t => OnlyContext h t n.val ∧
        t.ctx n.val = { c with level := if est % 4 = 0 then .v else .s, ie := est.testBit 2, exls := est.testBit 3,
                               exlv := est.testBit 4, pc := BitVec.ofNat 64 (epc - epc % 4) }))

/-- WFI (R134): the context goes on at the next instruction, running if a source is pending and unmasked, stalled otherwise.
WFI_WAKE: a core stalled by WFI with a source pending runs again, and with IE set takes the interrupt. FENCE (R110): every
merge entry is written back and memory reads as before. HMOV (R126) copies a handle register, the empty handle too; HQRY
writes the description of what the handle names. In each case exec answers the next state and nothing else changed. -/
def Obligations.WaitingFencingAndHandleMoves : Prop :=
  ∀ (s : State) (x : Ctx) (n : Fin 32) (rd : Fin 32) (hd hs : Fin 8),
    let h := s.head
    let k := ctxKey x
    let c := h.ctx k
    (Executes h x notC →
      Completes (.wfi x) s (fun t => OnlyContext h t k ∧
        t.ctx k = { c with pc := c.pc + 4, run := if h.pendingIrq k = 0 then .interrupt else .running }) ∧
      Completes (.fence x) s (fun t => t.memc.merge = [] ∧ SameMemory h t ∧ SameRegisters h t ∧
        t = { h with ctxs := t.ctxs, memc := { h.memc with merge := [] } } ∧ t.ctx k = { c with pc := c.pc + 4 }) ∧
      Completes (.hqry x rd hs) s (fun t => Result h t k rd (BitVec.ofNat 64 (match c.hr hs with
        | .empty => 0
        | .buffer b => 1 + 4 * bufPool b + 2 ^ 8 * h.lenOf b
        | .desc d => 2 + 2 ^ 8 * h.handleLen (.desc d))))) ∧
    (Executes h x anyLevel →
      Completes (.hmov x hd hs) s (fun t => OnlyContext h t k ∧
        (∀ j, (t.ctx k).hr j = if j = hd then c.hr hs else c.hr j) ∧
        t.ctx k = { c with pc := c.pc + 4, h := (t.ctx k).h })) ∧
    (let c := h.ctx n.val
     h.plt.inReset = false → c.run = .interrupt → h.pendingIrq n.val ≠ 0 →
      (c.ie = false → Completes (.wfiWake n) s (fun t => OnlyContext h t n.val ∧ t.ctx n.val = { c with run := .running })) ∧
      (c.ie = true → MayTake c (decide (c.level = .v)) → Completes (.wfiWake n) s (fun t =>
        TookException h t n (decide (c.level = .v)) 16 c.pc (h.rd (CORE_IPEND_PEND.ofCore n.val) % 32) .none)))

/-- LB, LBU, LH, LHU, LW, LWU and LD (R125) on every context and register number, the address being g[rb] plus the signed
offset: where the instruction executes and the aligned address lies in memory the context may read (local memory, Billow,
DRAM without a raw line) or in the Afterglow window, exec answers a next state in which g[rt] holds the bytes found there,
little-endian, sign- or zero-extended (g0 keeps reading as zero), and the context goes on. No byte of memory changed, and
no register field, unless the access was to DRAM and passed a cache. -/
def Obligations.LoadsReadMemory : Prop :=
  ∀ (s : State) (x : Ctx) (rt rb : Fin 32) (off : BitVec 12), Executes s.head x anyLevel →
    let h := s.head
    let k := ctxKey x
    let c := h.ctx k
    let a := (s.reg x rb + off.signExtend 64).toNat
    let rows : List (Instr × Nat × Bool) :=
      [(.lb x rt rb off .clean, 1, true), (.lbu x rt rb off .clean, 1, false), (.lh x rt rb off .clean, 2, true),
       (.lhu x rt rb off .clean, 2, false), (.lw x rt rb off .clean, 4, true), (.lwu x rt rb off .clean, 4, false),
       (.ld x rt rb off .clean, 8, false)]
    inRegs a 1 = false → ∀ r ∈ rows, a % r.2.1 = 0 →
      (∀ key, h.place k c a r.2.1 false = .mem key → (IsDram key → CleanLines h key r.2.1) →
        Completes r.1 s (fun t => Wrote h t k rt (extended r.2.2 r.2.1 (h.load key r.2.1)) (c.pc + 4) ∧
          SameMemory h t ∧ OnlyAccess h t k ∧ (¬ IsDram key → OnlyContext h t k))) ∧
      (h.place k c a r.2.1 false = .afterglow →
        Completes r.1 s (fun t => OnlyContext h t k ∧
          Wrote h t k rt (extended r.2.2 r.2.1 (ofBytes (h.agBytes (a - afterglowBase) r.2.1))) (c.pc + 4)))

/-- SB, SH, SW and SD (R125) on every context and register number, the address being g[rb] plus the signed offset: where the
instruction executes and the aligned address lies in memory the context may write (local memory, Billow, DRAM without a
raw line), exec answers a next state in which the 1, 2, 4 or 8 bytes there hold the low part of g[rt], little-endian, the
context goes on at the next instruction with every register as it was, and every byte of memory outside those stored reads
as before. -/
def Obligations.StoresWriteMemory : Prop :=
  ∀ (s : State) (x : Ctx) (rt rb : Fin 32) (off : BitVec 12), Executes s.head x anyLevel →
    let h := s.head
    let k := ctxKey x
    let c := h.ctx k
    let a := (s.reg x rb + off.signExtend 64).toNat
    let rows : List (Instr × Nat) :=
      [(.sb x rt rb off .clean, 1), (.sh x rt rb off .clean, 2), (.sw x rt rb off .clean, 4), (.sd x rt rb off .clean, 8)]
    inRegs a 1 = false → ∀ r ∈ rows, a % r.2 = 0 → ∀ key, h.place k c a r.2 true = .mem key →
      (IsDram key → CleanLines h key r.2) →
      Completes r.1 s (fun t => t.load key r.2 = (s.reg x rt).toNat % 2 ^ (8 * r.2) ∧ SameMemoryBut h t key r.2 ∧
        t.ctx k = { c with pc := c.pc + 4 } ∧ OnlyAccess h t k ∧ (¬ IsDram key → SameRegisters h t))

/-- AMOADD, AMOSWAP and CAS (R129) on every context and register number: where the instruction executes at S or V, g[rs1]
names an aligned word of installed DRAM, filled (R430) and without a raw line, and, at level S, the grant windows permit
both read and write, exec answers a next state in which g[rd] holds the old word and the word holds the sum, g[rs2], or
for CAS g[rs2] if the old word equals g[rd] and else what it held. Every other byte of memory reads as before, and nothing
else of the context changed. -/
def Obligations.AtomicsExchangeOneWord : Prop :=
  ∀ (s : State) (x : Ctx) (rd rs1 rs2 : Fin 32), Executes s.head x notC →
    let h := s.head
    let k := ctxKey x
    let c := h.ctx k
    let a := (s.reg x rs1).toNat
    let old : Word := BitVec.ofNat 64 (h.load a 8)
    let permitted : Prop := c.level = .v ∨
      (h.granted (.core (Fin.ofNat 32 k)) a 8 .load = true ∧ h.granted (.core (Fin.ofNat 32 k)) a 8 .store = true)
    let done (i : Instr) (v : Word) : Prop :=
      Completes i s (fun t => t.load a 8 = v.toNat ∧ SameMemoryBut h t a 8 ∧ Wrote h t k rd old (c.pc + 4) ∧
        OnlyAccess h t k)
    a % 8 = 0 → h.inDram a 8 = true → h.is MEM_STS_FILLDONE = true → a + 8 ≤ 2 ^ 48 → permitted → CleanLines h a 8 →
      done (.amoadd x rd rs1 rs2 .clean) (old + s.reg x rs2) ∧
      done (.amoswap x rd rs1 rs2 .clean) (s.reg x rs2) ∧
      done (.cas x rd rs1 rs2 .clean) (if old = s.reg x rd then s.reg x rs2 else old)

/-- HLDB, HLDH, HLDW, HLDD, HSTB, HSTH, HSTW and HSTD (R126) on every context, register number and handle register: where the
instruction executes and the aligned offset g[rs1] reaches bytes of one member buffer within the handle's length, in
Billow or in installed DRAM, filled and without a raw line, exec answers a next state. A load of a buffer that is no
output of a job not waited for (R127) writes the zero-extended bytes to g[rd] and changes no byte of memory, nor anything
else but what an access to DRAM passes through; a store to a buffer of no such job puts the low bytes of g[rd] there, and
every other byte of memory and every other context reads as before, and so does every register field for a buffer in
Billow. -/
def Obligations.HandleAccesses : Prop :=
  ∀ (s : State) (x : Ctx) (rd rs1 : Fin 32) (hs : Fin 8), Executes s.head x anyLevel →
    let h := s.head
    let k := ctxKey x
    let c := h.ctx k
    let loads : List (Instr × Nat) :=
      [(.hldb x rd rs1 hs .clean, 1), (.hldh x rd rs1 hs .clean, 2), (.hldw x rd rs1 hs .clean, 4),
       (.hldd x rd rs1 hs .clean, 8)]
    let stores : List (Instr × Nat) :=
      [(.hstb x rd rs1 hs .clean, 1), (.hsth x rd rs1 hs .clean, 2), (.hstw x rd rs1 hs .clean, 4),
       (.hstd x rd rs1 hs .clean, 8)]
    ∀ ss off, h.segsOfHandle (c.hr hs) = some ss → off = (s.reg x rs1).toNat →
      (∀ r ∈ loads ++ stores, ∀ a, off % r.2 = 0 → off + r.2 ≤ segLen ss → h.segAddr off r.2 ss = some a →
        (a < dramBase ∨ (h.inDram a r.2 = true ∧ h.is MEM_STS_FILLDONE = true ∧ a + r.2 ≤ 2 ^ 48 ∧ CleanLines h a r.2)) →
        (r ∈ loads → (∀ e ∈ h.jobs, h.jobHolds e.2 false a = false) →
          Completes r.1 s (fun t => Wrote h t k rd (BitVec.ofNat 64 (h.load a r.2)) (c.pc + 4) ∧ SameMemory h t ∧
            OnlyAccess h t k ∧ (a < dramBase → OnlyContext h t k))) ∧
        (r ∈ stores → (∀ e ∈ h.jobs, h.jobHolds e.2 true a = false) →
          Completes r.1 s (fun t => t.load a r.2 = (s.reg x rd).toNat % 2 ^ (8 * r.2) ∧ SameMemoryBut h t a r.2 ∧
            (a < dramBase → SameRegisters h t) ∧ t.ctx k = { c with pc := c.pc + 4 } ∧ OnlyAccess h t k)))

/-- CHUNK, DIGEST, DGSAVE, DGLOAD, PACK, UNPACK, ENCX, DECX, CTXSV, CTXLD, PARGEN, PARFIX, LOOKUP.FP, LOOKUP.MAP, LOOKUP.KEY,
LOOKUP.REC, MREAD and MPROG: where the instruction executes, its handles name memory and its block lies aligned in memory
the context may read without a raw line, exec answers a next state in which the context goes on with a ticket in g[rd] and
TK. At the limit of outstanding jobs it is the failed ticket TICKETS_FULL, with a field out of range BAD_PARAM, and no job
was posted; else it is a live ticket, not zero and bit 63 clear, and a job of the kind with the block, the handles and
that ticket belongs to the context. -/
def Obligations.PostingInstructionsMakeAJob : Prop :=
  ∀ (s : State) (x : Ctx) (rd rs : Fin 32) (ha hb : Fin 8),
    let h := s.head
    let k := ctxKey x
    let c := h.ctx k
    let a := (s.reg x rs).toNat
    let ia := c.hr ha
    let ob := c.hr hb
    let rows : List (Instr × JobKind × Handle × Handle) :=
      [(.chunk x rd rs ha hb, .chunk, ia, ob), (.digest x rd rs ha hb, .digest, ia, ob), (.dgsave x rd rs hb, .dgsave, .empty, ob),
       (.dgload x rd rs ha, .dgload, ia, .empty), (.pack x rd rs ha hb, .pack, ia, ob), (.unpack x rd rs ha hb, .unpack, ia, ob),
       (.encx x rd rs ha hb, .encx, ia, ob), (.decx x rd rs ha hb, .decx, ia, ob), (.ctxsv x rd rs hb, .ctxsv, .empty, ob),
       (.ctxld x rd rs ha, .ctxld, ia, .empty), (.pargen x rd rs ha hb, .pargen, ia, ob), (.parfix x rd rs ha hb, .parfix, ia, ob),
       (.lookupFp x rd rs ha hb, .lookupFp, ia, ob), (.lookupMap x rd rs hb, .lookupMap, .empty, ob),
       (.lookupKey x rd rs ha hb, .lookupKey, ia, ob), (.lookupRec x rd rs hb, .lookupRec, .empty, ob),
       (.mread x rd rs hb, .mread, .empty, ob), (.mprog x rd rs ha, .mprog, ia, .empty)]
    let ticketed (t : Head) (w : Word) : Prop :=
      t.ctx k = { c with g := (t.ctx k).g, pc := c.pc + 4, tk := w } ∧
        ∀ i, (t.ctx k).gr i = if i = rd ∧ rd.val ≠ 0 then w else c.gr i
    ∀ r ∈ rows, ∀ key,
      Executes h x (if r.2.1 = .chunk ∨ r.2.1 = .mprog then onlyC else anyLevel) →
      (r.2.1.hasIn = true → (h.segsOfHandle r.2.2.1).isSome = true) → (r.2.1.hasOut = true → outSize r.2.2.2 ≠ 0) →
      a % 8 = 0 → h.place k c a 32 false = .mem key → (IsDram key → CleanLines h key 32) →
      let b := jobBlock (h.bytes key 32)
      (jobLimit k ≤ h.outstanding k → Completes r.1 s (fun t => ticketed t (failedTicket 2) ∧ t.jobs = h.jobs)) ∧
      (h.outstanding k < jobLimit k → h.jobOk r.2.1 b r.2.2.1 r.2.2.2 = false →
        Completes r.1 s (fun t => ticketed t (failedTicket 4) ∧ t.jobs = h.jobs)) ∧
      (h.outstanding k < jobLimit k → h.jobOk r.2.1 b r.2.2.1 r.2.2.2 = true →
        Completes r.1 s (fun t => ∃ (w : Word) (j : Job), ticketed t w ∧ w.getLsbD 63 = false ∧
          w ≠ 0 ∧ w.toNat % 2 ^ 32 = (h.nextJob + 1) % 2 ^ 32 ∧ Tbl.find t.jobs h.nextJob = some j ∧ t.nextJob = h.nextJob + 1 ∧
          j.owner = k ∧ j.kind = r.2.1 ∧ j.blk = b ∧ j.inp = r.2.2.1 ∧ j.outp = r.2.2.2 ∧ j.ticket = w))

/-- TWAIT of a failed ticket answers its status, of no outstanding job BAD_TICKET, of an ended job the status and result,
which then goes, and of another it waits. QWAIT answers BAD_QUEUE for an absent queue, OK at a count reached, and waits
otherwise; EWAIT and EWAIT.A answer OK at an epoch reached, BAD_PARAM for one more than 65,536 epochs ahead, and wait
otherwise. TWAIT_RETURN, QWAIT_RETURN and EWAIT_RETURN of a context so waiting: it runs again with the answer once there
is one, and until then nothing changed; a base-library entry that waited for its next try (R185) runs again where it
stood. EPOCH.STAMP, EPOCH.READ and EPOCH.APPLIED write the job's stamp, its read epoch, or the epoch applied, all ones
standing for none. Nothing else changed. -/
def Obligations.WaitsForTicketsQueuesAndEpochs : Prop :=
  ∀ (s : State) (x : Ctx) (rd rs1 rs2 : Fin 32),
    let h := s.head
    let k := ctxKey x
    let c := h.ctx k
    let tk := if rs1.val = 0 then c.tk else s.reg x rs1
    let r1 := (s.reg x rs1).toNat
    let r2 := (s.reg x rs2).toNat
    let work := c.work.bind h.work
    let gives (i : Instr) (v : Nat) : Prop := Completes i s (fun t => Result h t k rd (BitVec.ofNat 64 v))
    let waits (i : Instr) (r : Run) : Prop := Completes i s (fun t => OnlyContext h t k ∧ t.ctx k = { c with run := r })
    let back (i : Instr) (u : Head) (r v : Nat) : Prop := Completes i s (fun t =>
      Result (u.setCtx k { c with run := .running }) t k (Fin.ofNat 32 r) (BitVec.ofNat 64 v))
    let stays (i : Instr) : Prop := Completes i s (fun t => t = h)
    (Executes h x anyLevel →
      (tk.getLsbD 63 = true → gives (.twait x rd rs1) (tk.toNat % 65536)) ∧
      (tk.getLsbD 63 = false → h.jobOf k tk = none → gives (.twait x rd rs1) 3) ∧
      (∀ n j, tk.getLsbD 63 = false → h.jobOf k tk = some (n, j) →
        (j.ended = none → waits (.twait x rd rs1) (.ticket n rd.val)) ∧
        (∀ st res, j.ended = some (st, res) → Completes (.twait x rd rs1) s (fun t =>
          Result { h with jobs := Tbl.del h.jobs n } t k rd (BitVec.ofNat 64 (st + 2 ^ 16 * (res % 2 ^ 48)))))) ∧
      (h.queueThere r1 = false → gives (.qwait x rd rs1 rs2) 0x17) ∧
      (h.queueThere r1 = true → r2 ≤ (h.queue r1).done → gives (.qwait x rd rs1 rs2) 0) ∧
      (h.queueThere r1 = true → (h.queue r1).done < r2 → waits (.qwait x rd rs1 rs2) (.queue r1 r2 rd.val)) ∧
      (r1 ≤ h.epoch → gives (.ewait x rd rs1) 0) ∧
      (h.epoch + 65536 < r1 → gives (.ewait x rd rs1) 4) ∧
      (h.epoch < r1 → r1 ≤ h.epoch + 65536 → waits (.ewait x rd rs1) (.epoch r1 rd.val)) ∧
      (h.applied ≠ noEpoch → r1 ≤ h.applied → gives (.ewaitA x rd rs1) 0) ∧
      (h.applied + 65536 < r1 → gives (.ewaitA x rd rs1) 4) ∧
      ((h.applied = noEpoch ∨ h.applied < r1) → r1 ≤ h.applied + 65536 → waits (.ewaitA x rd rs1) (.applied r1 rd.val)) ∧
      gives (.epochStamp x rd) (match work with | some w => w.stamp | none => noEpoch) ∧
      gives (.epochRead x rd) (match work with | some w => w.readEpoch.getD noEpoch | none => noEpoch) ∧
      gives (.epochApplied x rd) h.applied) ∧
    (h.plt.inReset = false →
      (∀ n r, c.run = .ticket n r →
        (∀ j st res, Tbl.find h.jobs n = some j → j.ended = some (st, res) →
          back (.twaitReturn x) { h with jobs := Tbl.del h.jobs n } r (st + 2 ^ 16 * (res % 2 ^ 48))) ∧
        (∀ j, Tbl.find h.jobs n = some j → j.ended = none → stays (.twaitReturn x))) ∧
      (∀ q n r, c.run = .queue q n r →
        (n ≤ (h.queue q).done → back (.qwaitReturn x) h r 0) ∧ ((h.queue q).done < n → stays (.qwaitReturn x))) ∧
      (∀ e r, c.run = .epoch e r →
        (e ≤ h.epoch → c.lib.wait = false → back (.ewaitReturn x) h r 0) ∧
        (e ≤ h.epoch → c.lib.wait = true → Completes (.ewaitReturn x) s (fun t => OnlyContext h t k ∧
          t.ctx k = { c with run := .running, lib := { c.lib with wait := false } })) ∧
        (h.epoch < e → stays (.ewaitReturn x))) ∧
      (∀ e r, c.run = .applied e r →
        (h.applied ≠ noEpoch → e ≤ h.applied → c.lib.wait = false → back (.ewaitReturn x) h r 0) ∧
        ((h.applied = noEpoch ∨ h.applied < e) → stays (.ewaitReturn x))))

/-- BGET: a length of 0 or above 4 MiB is BAD_PARAM and with no pool that holds it POOL_EMPTY, and nothing but g[rd] changed;
where the smallest such pool lets the class have a buffer, the newest one freed there, else the next never given out, is
the context's, named by h[ha], of LENGTH the length asked for, its bytes unpredictable and all other memory unchanged, and
g[rd] is 0; where the pool has none free g[rd] is POOL_EMPTY, and where only those reserved to other classes
POOL_RESERVED. BPUT of a buffer: it is its pool's newest freed buffer, the handle is empty, its LENGTH stays for copies of
the handle (R91), and g[rd] is 0. Memory is unchanged. -/
def Obligations.BuffersAreTakenAndReturned : Prop :=
  ∀ (s : State) (x : Ctx) (rd rs : Fin 32) (ha : Fin 8),
    let h := s.head
    let k := ctxKey x
    let c := h.ctx k
    let n := (s.reg x rs).toNat
    let cls := h.classOf k c
    let g (t : Head) (v : Nat) : Prop := ∀ i, (t.ctx k).gr i = if i = rd ∧ rd.val ≠ 0 then BitVec.ofNat 64 v else c.gr i
    Executes h x anyLevel →
      (n = 0 ∨ 4194304 < n → Completes (.bget x rd rs ha) s (fun t => Result h t k rd 4)) ∧
      (0 < n → n ≤ 4194304 → h.poolFor n = none → Completes (.bget x rd rs ha) s (fun t => Result h t k rd 1)) ∧
      (∀ p, 0 < n → n ≤ 4194304 → h.poolFor n = some p →
        (h.allocCheck p cls = none → Completes (.bget x rd rs ha) s (fun t =>
          let i := (h.pool p).freed.headD (h.pool p).next
          let b := p * 2 ^ 20 + i
          g t 0 ∧ (∀ j, (t.ctx k).hr j = if j = ha then .buffer b else c.hr j) ∧ (t.ctx k).bufs = b :: c.bufs ∧
            (t.ctx k).pc = c.pc + 4 ∧ t.lenOf b = n ∧ Tbl.find t.owners b = some cls ∧
            (t.pool p).freed = (h.pool p).freed.tail ∧ SameMemoryBut h t (h.bufAddr b) (poolSize p) ∧ (∀ j, j ≠ k → t.ctx j = h.ctx j))) ∧
        (h.allocCheck p cls = some .poolEmpty → Completes (.bget x rd rs ha) s (fun t => g t 1 ∧ SameMemory h t ∧ t.pools = h.pools ∧
          t.ctx k = { c with g := (t.ctx k).g, pc := c.pc + 4 })) ∧
        (h.allocCheck p cls = some .poolReserved → Completes (.bget x rd rs ha) s (fun t => g t 0x1C ∧ SameMemory h t ∧
          t.pools = h.pools ∧ t.ctx k = { c with g := (t.ctx k).g, pc := c.pc + 4 }))) ∧
      (∀ b, c.hr ha = .buffer b → Completes (.bput x rd ha) s (fun t =>
        g t 0 ∧ (∀ j, (t.ctx k).hr j = if j = ha then .empty else c.hr j) ∧ (t.ctx k).bufs = c.bufs.erase b ∧
          (t.ctx k).pc = c.pc + 4 ∧ t.lenOf b = h.lenOf b ∧ Tbl.find t.owners b = none ∧
          (t.pool (bufPool b)).freed = bufIndex b :: (h.pool (bufPool b)).freed ∧ SameMemory h t ∧
          (∀ j, j ≠ k → t.ctx j = h.ctx j)))

/-- INTENT of 64 bytes aligned within a buffer's LENGTH: at a control core with a valid epoch and fewer than 65,536 software
intents in it, the record, completed by the controller, is the last of this head's half of the current epoch, and g[rd] is
OK; at the limit it is INTENT_FULL and nothing is recorded; for a command of a stream engine that holds its seal, of
another type than those denied and its own namespace or none, the record joins the context's list. QPOST at S and V: an
absent queue or a hardware queue of a module is BAD_QUEUE, a full one QUEUE_FULL; else g[rd] is the posted count, one
higher, which the queue then has, and for a front-complex queue or a connection's the entry waits last, for a background
queue a job of its class waits for dispatch. -/
def Obligations.IntentsAndQueueEntries : Prop :=
  ∀ (s : State) (x : Ctx) (rd rs1 rs2 : Fin 32) (ha : Fin 8) (bytes : List Byte),
    let h := s.head
    let k := ctxKey x
    let c := h.ctx k
    let r := rec64 bytes
    let q := (s.reg x rs1).toNat
    let hardware : Prop := 0x8000 ≤ q ∧ q < 0x9000 ∧ (q - 0x8000) % 128 < 64
    let full : Prop := 0x8000 ≤ q ∧ q < 0x9400 ∧ 64 ≤ (h.queue q).posted - (h.queue q).done
    let gives (t : Head) (v : Word) : Prop := ∀ i, (t.ctx k).gr i = if i = rd ∧ rd.val ≠ 0 then v else c.gr i
    (Executes h x anyLevel → h.readRecord (c.hr ha) (s.reg x rs1).toNat = (.ok bytes, h) →
      (c.work.bind h.work = none → h.is MER_STS_EPVALID = true →
        (h.issued true < 65536 → Completes (.intent x rd rs1 ha) s (fun t => gives t 0 ∧ (t.ctx k).pc = c.pc + 4 ∧ SameMemory h t ∧
          (t.epochSt h.epoch).own = (h.epochSt h.epoch).own ++
            [fillIntent r h.headId h.epoch cseqSoft (h.issued true) false true false])) ∧
        (65536 ≤ h.issued true → Completes (.intent x rd rs1 ha) s (fun t => gives t 0x13 ∧ (t.ctx k).pc = c.pc + 4 ∧
          SameMemory h t ∧ (t.epochSt h.epoch).own = (h.epochSt h.epoch).own))) ∧
      (∀ w, c.work.bind h.work = some w → w.qp ≠ none → c.intents.length < 65536 → (iNsid r = 0 ∨ iNsid r = w.nsid) →
        iType r ∉ [9, 0x0A, 0x0B] → w.holdsSeal = true → Completes (.intent x rd rs1 ha) s (fun t =>
          gives t 0 ∧ OnlyContext h t k ∧ t.ctx k = { c with g := (t.ctx k).g, pc := c.pc + 4, intents := c.intents ++ [r] }))) ∧
    (Executes h x notC → h.readRecord (c.hr ha) (s.reg x rs2).toNat = (.ok bytes, h) →
      (h.queueThere q = false ∨ hardware → Completes (.qpost x rd rs1 rs2 ha) s (fun t => Result h t k rd (failedTicket 0x17))) ∧
      (h.queueThere q = true → ¬ hardware → full →
        Completes (.qpost x rd rs1 rs2 ha) s (fun t => Result h t k rd (failedTicket 0x18))) ∧
      (h.queueThere q = true → ¬ hardware → ¬ full → Completes (.qpost x rd rs1 rs2 ha) s (fun t =>
        let n := (h.queue q).posted + 1
        gives t (BitVec.ofNat 64 n) ∧ (t.ctx k).pc = c.pc + 4 ∧
          (q < 0x8000 ∨ (0x9000 ≤ q ∧ q < 0x9400) → (t.queue q).posted = n ∧ ∃ ok,
            (t.queue q).waiting = (h.queue q).waiting ++ [{ count := n, ok := ok, body := r, cpl := none }]) ∧
          (0x9400 ≤ q → (t.queue q).posted = n ∧ ∃ w, Tbl.find t.works h.nextWork = some w ∧
            w.from_ = .background (q - 0xFF00) n ∧ w.capsule = r ∧ w.state = .ready))))

/-- RECIPE_DISPATCH of a command or background job that waits for its first dispatch: with a slot, a binding at its dispatch
epoch, a cluster that holds the library and a free context, that context runs at level C at the entry, g1 to g6 and g30 as
the table of R106 has them, the dispatch block in its local memory, and the work is running; of a job whose capsule lies
in a buffer nothing else of memory changed. A background job without a slot goes, and RECIPE_MISSING is recorded. Work
that is not waiting, or with no cluster ON, is left alone. OBJECT_LOAD: an object with a fault places nothing, and
LOAD_REJECT is recorded with the first reason; a library without one is the library of its cluster; a control image
changes memory only. -/
def Obligations.RecipesStart : Prop :=
  ∀ (s : State) (w : Nat) (x : Work) (level : Level) (target : LoadTarget) (o : List Byte),
    let h := s.head
    h.plt.inReset = false →
      (h.work w = some x →
        (x.state ≠ .ready ∨ h.onClusters = [] ∨ h.plt.stopped = true → Completes (.recipeDispatch w) s (fun t => t = h)) ∧
        (∀ slot a lib index cl entry k, x.state = .ready → h.plt.stopped = false → h.onClusters ≠ [] → x.left = none →
          h.findSlot x.row x.cset x.opc = some (slot, a) →
          h.slotBinding a (if x.qp = none then h.epoch else x.stamp) = some (lib, index) →
          h.onClusters.find? (fun c => h.holdsLib c lib) = some cl → h.libEntry cl index = some entry →
          h.freeContext x.budget lib = some k →
          Completes (.recipeDispatch w) s (fun t =>
            let c := t.ctx k
            let block := dispatchBlock { x with stamp := if x.qp = none then h.epoch else x.stamp } slot lib index
            let at_ := localKey (ctxUnit k) (0x38000 + ctxNumber k * 0x800)
            c.run = .running ∧ c.level = .c ∧ c.work = some w ∧ c.pc = BitVec.ofNat 64 (localBase + entry) ∧
              c.gr 1 = BitVec.ofNat 64 x.nsid ∧ c.gr 2 = BitVec.ofNat 64 (x.opc + 256 * x.cset) ∧ c.gr 3 = BitVec.ofNat 64 x.len ∧
              c.gr 4 = BitVec.ofNat 64 x.lba ∧ c.gr 5 = BitVec.ofNat 64 (localBase + (0x38000 + ctxNumber k * 0x800)) ∧
              c.gr 6 = BitVec.ofNat 64 (h.load (a + 24) 8) ∧
              c.gr 30 = BitVec.ofNat 64 (localBase + 0x23000 + ctxNumber k * 0x3000) ∧
              (t.work w).map (·.state) = some (.running k) ∧ t.bytes at_ block.length = block ∧
              (x.cap ≠ none → SameMemoryBut h t at_ block.length) ∧ (∀ j, j ≠ k → t.ctx j = h.ctx j))) ∧
        (x.state = .ready → h.plt.stopped = false → h.onClusters ≠ [] → x.qp = none → x.left = none →
          h.findSlot x.row x.cset x.opc = none → Completes (.recipeDispatch w) s (fun t => t.work w = none ∧
            Recorded h t 0x0305 1 x.row (x.cset + 256 * x.opc) 0 h.epoch))) ∧
      (∀ r, h.loadFault level target o = some r → Completes (.objectLoad level target o) s (fun t => OnlyNotes h t ∧
        Recorded h t 0x0306 2 r (leAt o 6 1) (leAt o 8 4) (match target with | .cluster n => n.val | .window .. => 0xFF))) ∧
      (∀ n, target = .cluster n → h.loadFault level target o = none → Completes (.objectLoad level target o) s (fun t =>
        (∃ l, Tbl.find t.libs n.val = some l ∧ l.libid = leAt o 8 4 ∧
          l.entries = (entriesOf o (sectionsOf o)).map (fun e => (e.2.2.1, e.1))) ∧
        t.rd (CORE_CL_STS_LIBID.nth n) = leAt o 8 4 % 2 ^ 32 ∧ SameRegistersBut h t [CORE_CL_STS_LIBID.nth n] ∧
        t = { h with fields := t.fields, libs := t.libs, mem := t.mem, memc := { h.memc with lines := t.memc.lines } })) ∧
      (∀ a n, target = .window a n → h.loadFault level target o = none →
        Completes (.objectLoad level target o) s (fun t => t = { h with mem := t.mem, memc := { h.memc with lines := t.memc.lines } } ∧
          ∀ p, placedSections o a.toNat = [p] → t.bytes (a.toNat + p.1.load) p.2.length = p.2 ∧
            SameMemoryBut h t (a.toNat + p.1.load) p.2.length))

/-- CPLT at level C: the context waits for its jobs with the status, the data handle and the offset, and nothing else changed.
CPLT_FINISH while a job of the context has not ended changes nothing; once all have, the context is free, no job of it
remains and no other context changed; a background job's work is gone, and its queue's completion count is one higher.
BREAK, UNDEFINED_INSTRUCTION with any word that no row defines, and at level C SYS, on a stream engine: the context is
free, no job of it remains, and no other context changed. -/
def Obligations.RecipesEnd : Prop :=
  ∀ (s : State) (cl : Fin 24) (e : Fin 9) (y : Fin 8) (rs1 rs2 : Fin 32) (ha : Fin 8) (word : BitVec 32), wordDefined word = false →
    let h := s.head
    let x : Ctx := .stream cl e y
    let k := ctxKey x
    let c := h.ctx k
    let free (t : Head) : Prop := t.ctx k = Context.fresh .c .idle ∧ t.jobs = h.jobs.filter (fun j => j.2.owner ≠ k) ∧
      ∀ j, j ≠ k → t.ctx j = h.ctx j
    (Executes h x onlyC → Completes (.cplt x rs1 rs2 ha) s (fun t => OnlyContext h t k ∧
      t.ctx k = { c with run := .ending ((s.reg x rs1).toNat % 65536) (c.hr ha) (s.reg x rs2).toNat })) ∧
    (h.plt.inReset = false → ∀ st data off w, c.run = .ending st data off → c.work = some w →
      ((∃ j ∈ h.jobs, j.2.owner = k ∧ j.2.ended = none) → Completes (.cpltFinish cl e y) s (fun t => t = h)) ∧
      ((∀ j ∈ h.jobs, j.2.owner = k → j.2.ended ≠ none) → ∀ z, h.work w = some z →
        Completes (.cpltFinish cl e y) s (fun t => free t ∧
          ∀ q n, z.from_ = .background q n → t.work w = none ∧
            (t.queue (0xFF00 + q)).done = (h.queue (0xFF00 + q)).done + 1))) ∧
    (Executes h x anyLevel → Completes (.break x) s free ∧ Completes (.undefinedInstruction ⟨x, word, .clean⟩) s free ∧
      (c.level = .c → Completes (.sys x) s free))

/-- JOB_END of a CHUNK, PACK, UNPACK, PARGEN or PARFIX on its unit, with no HSTx to its buffers meanwhile and input and output
apart: the job has ended with the status and result of its computation, the output range holds the bytes computed, LENGTH
covers them, and all other memory is unchanged. Where a line under the input cannot be read it ends with DATA_CORRUPT, and
MEM_ERR.UE is 1. A job that has ended, or waits for its unit, is left alone. JOB_PREEMPT of a job of more than 64 KiB of
input, with more than 16 KiB of it left, whose unit is STOPPING, with room for its state: the job resumes 16 KiB further
on, its state stands in its save area, and all other memory is unchanged. ACC_FAILED: the unit is marked, EN is 0, no
unended job holds it, and the retirement is logged. -/
def Obligations.JobsEndOnTheirUnits : Prop :=
  ∀ (s : State) (n : Nat) (j : Job) (bad : BitVec 32) (cl : Fin 24) (a : Fin 12),
    let h := s.head
    let data := h.handleBytes j.inp j.blk.ioff j.blk.ilen
    let cap := j.blk.cap j.outp
    let ends : List (JobKind × JobEnd) :=
      [(.chunk, chunkJob j.blk cap data), (.pack, packJob j.blk.arg0 cap data), (.unpack, unpackJob j.blk.arg0 j.blk.arg1 cap data),
       (.pargen, pargenJob j.blk.arg0 j.blk.arg1 data), (.parfix, parfixJob j.blk.arg0 j.blk.arg1 data)]
    h.plt.inReset = false →
      (Tbl.find h.jobs n = some j →
        (j.ended ≠ none ∨ (j.kind.onAccel = true ∧ j.accel = none) → Completes (.jobEnd n bad) s (fun t => t = h)) ∧
        (∀ p ∈ ends, j.kind = p.1 → j.ended = none → j.accel ≠ none → j.touched = [] →
          h.badHandle j.inp j.blk.ioff j.blk.ilen ≠ [] → Completes (.jobEnd n bad) s (fun t => t.rd MEM_ERR_UE = 1 ∧
            (∀ b, j.outp = .buffer b → SameMemoryBut h t (h.bufAddr b + j.blk.ooff) (j.blk.cap j.outp)) ∧
            (Tbl.find t.jobs n).map (·.ended) = some (some (rsDataCorrupt, 0)))) ∧
        (∀ b p, p ∈ ends → j.kind = p.1 → j.ended = none → j.accel ≠ none → j.touched = [] → j.outp = .buffer b →
          h.badHandle j.inp j.blk.ioff j.blk.ilen = [] → p.2.keep = true → h.overlaps j p.2.out.length = false →
          Completes (.jobEnd n bad) s (fun t =>
            let at_ := h.bufAddr b + j.blk.ooff
            Tbl.find t.jobs n = some { j with ended := some (p.2.status, p.2.result),
                                              before := some (at_, h.bytes at_ p.2.out.length) } ∧
              t.bytes at_ p.2.out.length = p.2.out ∧ SameMemoryBut h t at_ p.2.out.length ∧
              (p.2.status = 0 → j.blk.ooff + p.2.out.length ≤ t.lenOf b))) ∧
        (∀ u v p, j.accel = some (u, v) → j.ended = none → 65536 < j.blk.ilen → j.resume + 16384 < j.blk.ilen →
          h.accelState u v = uStopping → (match j.save with | some x => some x.1 | none => h.saveSlot j.owner) = some p →
          Completes (.jobPreempt n) s (fun t => ∃ j' b, Tbl.find t.jobs n = some j' ∧ j'.save = some (p, b) ∧
            t.bytes p b.length = b ∧ SameMemoryBut h t p b.length ∧ j'.resume = j.resume + 16384 ∧ j'.ended = none ∧
            j'.blk = j.blk ∧ j'.ticket = j.ticket)) ∧
        (j.accel = none ∨ j.ended ≠ none ∨ j.blk.ilen ≤ 65536 → Completes (.jobPreempt n) s (fun t => t = h))) ∧
      Completes (.accFailed cl a) s (fun t => bitAt (t.rd (ACC_CL_STS_FAILED.nth cl)) a = true ∧
        t.unitEn (.accelerator cl a) = false ∧ t.unitState (.accelerator cl a) ≠ uOn ∧
        (∀ m j', Tbl.find t.jobs m = some j' → j'.accel = some (cl.val, a.val) → j'.ended ≠ none) ∧
        t.retiredLog = h.retiredLog ++ [.accelerator cl a] ∧ SameMemory h t)

/-- Every command that is a register access (Makes): where the level does not reach the register the answer is PRIV (an abort
at the service port), where it does and the address is misaligned for the size ALIGN, where that holds and the access is
not of 8 bytes BUS_ERR (a bus error at the service port). At the service port, and for a context that no longer runs, exec
answers a next state in which only the answer was given; a running control core takes the exception, and nothing else
changed. An exception of a recipe context is the subject of another statement. -/
def Obligations.AccessesTurnedAway : Prop :=
  ∀ (s : State) (x : Access) (c : Instr) (a : Nat) (w : Bool) (b : BusReply), Makes x c a w →
    let h := s.head
    let r := a / 8 * 8
    let port : Prop := x.origin = .service
    let reaches : Prop := levelReaches (h.accessLevel x r) (fieldsAt x.origin r) = true
    let aligned : Prop := if x.origin = .service then a % 8 = 0 else a % x.size.val = 0
    let answer (code : Nat) (other : BusReply) : Prop := (port ∧ b = other) ∨ (¬ port ∧ b = .exception code)
    h.plt.inReset = false → h.served x.origin = true →
      ((¬ reaches ∧ answer excPriv .abort) ∨ (reaches ∧ ¬ aligned ∧ answer excAlign .busError)
        ∨ (reaches ∧ aligned ∧ x.size ≠ 8 ∧ answer excBusErr .busError)) →
      ((∀ k, originCtx x.origin = some k → (h.ctx k).run ≠ .running) → Completes c s (fun t => t = h.reply b)) ∧
      (∀ (n : Fin 32) (code : Nat), x.origin = .core n → b = .exception code → (h.ctx n.val).run = .running →
        MayTake (h.ctx n.val) (excAtV code (h.ctx n.val)) →
        Completes c s (fun t => TookException (h.reply b) t n (excAtV code (h.ctx n.val)) code (h.ctx n.val).pc 0
          { addr := a, store := w, fetch := false }))

/-- RC_FIELD_READ at an accepted address: exec answers a next state in which the requester has one more answer, a value, and
every field of the register that is read-clear and in reach reads as zero. Where the register has one field, read-clear
and in reach, and none that the read latches or draws, the value is what the field held, at its place, and nothing else
changed. -/
def Obligations.RegisterReadsClearCounters : Prop :=
  ∀ (s : State) (x : Access) (addr : BitVec 48),
    let h := s.head
    let a := addr.toNat
    let fs := fieldsAt x.origin a
    let l := h.accessLevel x a
    Accepted h x a →
      Completes (.rcFieldRead x addr) s (fun t => (∃ v, t.out = .bus (.value v) :: h.out) ∧
        (∀ p ∈ fs, p.2.acc = .rc → l.reaches p.1.level = true → p.1 ≠ UMB_RAND_VALUE → t.rd p.2 = 0) ∧
        ∀ p, fs = [p] → p.2.acc = .rc → l.reaches p.1.level = true → p.1 ≠ UMB_RAND_VALUE → h.beforeRead a = h →
          t.out = .bus (.value (BitVec.ofNat 64 (h.rd p.2 * 2 ^ p.2.lo))) :: h.out ∧ SameRegistersBut h t [p.2] ∧
            t = { h with fields := t.fields, out := t.out })

/-- REGISTER_WRITE at an accepted register whose write starts nothing more (effectRegisters lists those that do; the
chunk-index block shows its counts after every write and is left to the model): the write is answered, and each field in
reach takes its bits (read-write), takes them once (write-once), loses or gains the bits written (write-1-to-clear,
write-1-to-set), or keeps its value; fields out of reach keep theirs, and no other register changed. A value that a field
may not take changes no field but CFGERR of the register's prefix. -/
def Obligations.PlainRegisterWrites : Prop :=
  ∀ (s : State) (x : Access) (addr : BitVec 48) (v : Word),
    let h := s.head
    let a := addr.toNat
    let fs := fieldsAt x.origin a
    let w : RegWrite := { origin := x.origin, level := h.accessLevel x a, index := indexAt fs a, value := v.toNat, fields := fs }
    Accepted h x a → w.base ∉ effectRegisters.map (·.addr) → (w.base - regBase) / 2 ^ 24 ≠ 5 →
      fs.Pairwise (fun p q => p.2.key ≠ q.2.key) →
      (h.writeOk w [] = true → WriteDone (.registerWrite x addr v) s (fun t =>
        t = { h with fields := t.fields, rwo := t.rwo } ∧ SameRegistersBut h t (fs.map (·.2)) ∧
        ∀ p ∈ fs, p.2.width ≤ 64 →
          let bits := bitsAt v.toNat p.2.lo p.2.width
          if w.reaches p.1 = false then t.rd p.2 = h.rd p.2
          else match p.2.acc with
            | .rw => t.rd p.2 = bits
            | .rwo => (h.written p.2 = true → t.rd p.2 = h.rd p.2) ∧ (h.written p.2 = false → t.rd p.2 = bits ∧ t.written p.2 = true)
            | .w1c => t.rd p.2 = (h.rd p.2 - (h.rd p.2 &&& bits)) % 2 ^ p.2.width
            | .w1s => t.rd p.2 = (h.rd p.2 ||| bits) % 2 ^ p.2.width
            | _ => t.rd p.2 = h.rd p.2)) ∧
      (h.writeOk w [] = false → WriteDone (.registerWrite x addr v) s (fun t =>
        OnlyFields h t (cfgErr w.base).toList ∧ ∀ f, cfgErr w.base = some f → t.rd f = 1))

/-- SERVICE_PORT_REQUEST while the port is served: a read of Billow below the reserved area, or of the Afterglow window, is
answered with its bytes and changes nothing; a write of Billow changes the bytes whose enable is 1, and no other; a store
to the window and a request that no BAR maps are answered with a bus error and change nothing. While the port is not
served nothing changes. -/
def Obligations.ServicePortRequests : Prop :=
  ∀ (s : State) (a : BitVec 48) (n : BitVec 16) (data : List (Option Byte)),
    let h := s.head
    h.plt.inReset = false →
      (∀ r, h.served .service = false → Completes (.servicePortRequest r) s (fun t => t = h)) ∧
      (h.served .service = true →
        (svcBillow a.toNat n.toNat = true →
          Completes (.servicePortRequest (.read a n)) s (fun t => t = h.reply (.bytes (h.bytes a.toNat n.toNat)))) ∧
        (svcBillow a.toNat n.toNat = false → inAfterglow a.toNat n.toNat = true →
          Completes (.servicePortRequest (.read a n)) s
            (fun t => t = h.reply (.bytes (h.agBytes (a.toNat - afterglowBase) n.toNat)))) ∧
        (svcBillow a.toNat n.toNat = false → inAfterglow a.toNat n.toNat = false →
          Completes (.servicePortRequest (.read a n)) s (fun t => t = h.reply .busError)) ∧
        (svcBillow a.toNat data.length = true →
          Completes (.servicePortRequest (.write a data)) s (fun t =>
            (∀ (i : Nat) (b : Byte), data[i]? = some (some b) → t.byte (a.toNat + i) = b) ∧
            (∀ i : Nat, data[i]? = some none → t.byte (a.toNat + i) = h.byte (a.toNat + i)) ∧
            SameMemoryBut h t a.toNat data.length ∧ t = { h with mem := t.mem, memc := { h.memc with lines := t.memc.lines }, out := .bus .done :: h.out })) ∧
        (svcBillow a.toNat data.length = false →
          Completes (.servicePortRequest (.write a data)) s (fun t => t = h.reply .busError)))

/-- UNIT_EN_WRITE accepted, at every unit (a cluster with an active engine; a front port whose other fields are in range; a
controller without KILL): where a 1 is not refused, EN takes the value, and from OFF a 1 leads to STARTING, from STARTING
and ON a 0 to STOPPING, while STOPPING the value waits in REARM, and a value that EN has changes nothing of the unit; a
module port, a lane group and a controller then begin their stop steps. A 1 that is refused leaves the unit as it was.
UNIT_START_COMPLETE leads every unit from STARTING to ON (a module port once its module's reset is released, a controller
once epochs are valid). UNIT_STOP_COMPLETE leads a unit whose stop steps are done (a cluster with idle contexts, an
accelerator without a job, a module port with nothing outstanding, a controller without I/O commands) from STOPPING to
OFF, or with REARM to STARTING, REARM cleared; an ended controller is then deleted. A unit that is not STARTING, or not
STOPPING, is left alone. -/
def Obligations.UnitsStartAndStop : Prop :=
  ∀ (s : State) (x : Access) (u : UnitId) (v : Word),
    let h := s.head
    let en := (unitFields u).1
    let st := (unitFields u).2.1
    let on : Bool := bitAt v.toNat (unitLane u)
    let fs := fieldsAt x.origin en.addr
    let w : RegWrite :=
      { origin := x.origin, level := h.accessLevel x en.addr, index := indexAt fs en.addr, value := v.toNat, fields := fs }
    let able : Prop := match u with
      | .cluster n => h.rd (CORE_CL_STS_ACTIVE.nth n) ≠ 0
      | .frontPort _ => h.writeOk w [FE_P_CTL_SPLIT, FE_P_CTL_SUBEN, FE_P_CTL_EN] = true
      | .controller _ => bitAt v.toNat 1 = false
      | _ => True
    -- the reset that a dump was made for follows its end (R484)
    let follow (t : Head) : Head := if h.resetDue then t else t.dumpFollow
    -- the units whose stop steps reach beyond their own registers as they begin
    let far : Prop := match u with
      | .modulePort _ | .laneGroup _ | .controller _ => True
      | _ => False
    let moved (t : Head) (e : Bool) (n : Nat) (r : Bool) : Prop :=
      SameMemory h t ∧ t.unitEn u = e ∧ t.unitState u = n ∧ t.unitRearm u = r
    (Accepted h x en.addr → able →
      (on = true → h.unitRefused u = true →
        WriteDone (.unitEnWrite x u v) s (fun t => moved t (h.unitEn u) (h.unitState u) (h.unitRearm u))) ∧
      ((on = true → h.unitRefused u = false) →
        (h.unitEn u = on → WriteDone (.unitEnWrite x u v) s (fun t => moved t on (h.unitState u) (h.unitRearm u))) ∧
        (h.unitEn u = false → on = true → h.unitState u = uOff →
          WriteDone (.unitEnWrite x u v) s (fun t => moved t true uStarting (h.unitRearm u))) ∧
        (h.unitEn u = false → on = true → h.unitState u = uStopping →
          WriteDone (.unitEnWrite x u v) s (fun t => moved t true uStopping true)) ∧
        (h.unitEn u = true → on = false → h.unitState u = uStopping →
          WriteDone (.unitEnWrite x u v) s (fun t => moved t false uStopping false)) ∧
        (h.unitEn u = true → on = false → h.unitState u = uStarting ∨ h.unitState u = uOn →
          (¬ far → WriteDone (.unitEnWrite x u v) s (fun t => moved t false uStopping (h.unitRearm u))) ∧
          (far → Completes (.unitEnWrite x u v) s (fun t => ∃ m, moved m false uStopping (h.unitRearm u) ∧
            t = follow ((match u with
              | .controller c => m.ctlReset c
              | _ => m.unitHalt u).reply .done)))))) ∧
    (h.plt.inReset = false → h.unitState u = uStarting →
      (match u with
        | .modulePort p => (h.port p).perstHeld = false
        | .controller _ => h.is MER_STS_EPVALID = true
        | _ => True) →
      Completes (.unitStartComplete u) s (fun t => moved t (h.unitEn u) uOn (h.unitRearm u) ∧
        (∀ c, u = .controller c → t.rd (FE_C_STS_RDY.nth c) = 1) ∧
        (∀ g, u = .laneGroup g → t.rd (SD_G_STS_TRAINED.nth g) = 1) ∧
        ((∃ n, u = .cluster n) ∨ (∃ n, u = .veilCache n) ∨ (∃ p, u = .modulePort p) → Beside h t [st] h))) ∧
    (h.plt.inReset = false → h.unitState u ≠ uStarting → Completes (.unitStartComplete u) s (fun t => t = h)) ∧
    (h.plt.inReset = false → h.unitState u = uStopping → h.stopReady u = true →
      (match u with
        | .cluster n => h.rd (CORE_CL_STS_ACTIVE.nth n) ≠ 0
        | .controller c => h.ctlQuiet c = true
        | _ => True) →
      (h.unitRearm u = true → Completes (.unitStopComplete u) s (fun t => moved t (h.unitEn u) uStarting false)) ∧
      (h.unitRearm u = false →
        ((∀ c, u ≠ .controller c) → Completes (.unitStopComplete u) s (fun t => moved t (h.unitEn u) uOff false)) ∧
        (∀ c, u = .controller c → Completes (.unitStopComplete u) s (fun t => ∃ m, moved m (h.unitEn u) uOff false ∧
          t = follow (m.ctlDelete c))))) ∧
    (h.plt.inReset = false → h.unitState u ≠ uStopping → h.resetDue = false →
      Completes (.unitStopComplete u) s (fun t => t = h))

/-- REF_CLOCK_LOSS, FREQUENCY_WINDOW_END out of range, PTP_MASTER_LOSS, FRAME_PULSE more than one tick off on a qualified
pair, and PTP_MESSAGE with a Delay_Resp that completes a frame measurement beyond PTPWIN: the error bit of the source is
set, it is not qualified any more and its count of good pulses starts again, and where it was qualified REF_LOST is
recorded with the error register as it then stands. Where no alignment toward the pair ends with it, no other register,
source or byte of memory changed. A pulse beyond 65,536 ticks, or beyond one tick with a message that names another frame,
sets PHASEFAR, bars the pair, and PHASE_FAR is recorded where the pair was not qualified. FREQUENCY_WINDOW_END in range:
the source meets the frequency rule, and nothing else changed. -/
def Obligations.ReferenceSourcesFail : Prop :=
  ∀ (s : State) (p : ClockPair) (n : Fin 3) (m : PtpMsg) (w : TodHeld),
    let h := s.head
    let others (k : Nat) (t : Head) : Prop := ∀ j < 3, j ≠ k → t.mer.source j = h.mer.source j
    let failed (k : Nat) (bit : Field) (t : Head) : Prop :=
      t.rd bit = 1 ∧ t.is (qualField k) = false ∧ (t.mer.source k).good = 0 ∧
        (h.is (qualField k) = true → Recorded h t 0x0202 1 k t.merErr t.mer.tick 0)
    let alone (k : Nat) (bit : Field) (t : Head) : Prop :=
      Beside h t [bit, qualField k] { h with mer := t.mer } ∧ others k t
    let (frame, off) := h.nearestFrame
    let k := pairSource p
    let src := h.mer.source k
    let comes : Prop := h.mer.tod = some w ∧ (∀ t, src.pulseAt = some t → t < w.arrived) ∧
      w.arrived + 2500 ≤ h.mer.sinceReset ∧ h.mer.sinceReset ≤ w.arrived + (65536 * h.cur + 65536)
    let far (announced : Nat) : Prop := Completes (.framePulse p) s (fun t =>
      t.rd MER_ERR_PHASEFAR = 1 ∧ (t.mer.source k).barred = true ∧
        (h.is (qualField k) = false → Recorded h t 0x0206 2 k (wrap64 off) announced 0))
    h.plt.inReset = false →
      Completes (.refClockLoss p) s (fun t => failed k (lossField k) t ∧
        (h.mer.aligning ≠ some p → alone k (lossField k) t)) ∧
      Completes (.frequencyWindowEnd n false) s (fun t => failed n.val (lossField n.val) t ∧
        ((n.val = 2 ∨ h.mer.aligning ≠ some (decide (n.val = 1))) → alone n.val (lossField n.val) t)) ∧
      Completes (.frequencyWindowEnd n true) s (fun t => (t.mer.source n.val).freqOk = true ∧ others n.val t ∧
        t = { h with mer := t.mer }) ∧
      Completes .ptpMasterLoss s (fun t => failed 2 MER_ERR_LOSSP t ∧ alone 2 MER_ERR_LOSSP t) ∧
      (src.barred = false → h.mer.loaded = true → h.is MER_STS_EPVALID = true → 1 < off.natAbs →
        (h.is (qualField k) = true → off.natAbs ≤ 65536 → h.mer.tod = none ∨ (comes ∧ w.epoch = frame) →
          Completes (.framePulse p) s (fun t => failed k (pulseField k) t ∧ alone k (pulseField k) t)) ∧
        (65536 < off.natAbs → h.mer.tod = none → far noEpoch) ∧
        (comes → 65536 < off.natAbs ∨ w.epoch ≠ frame → far w.epoch)) ∧
      (∀ q t1 t2 t3, m.port.val = h.rd FE_PTP_PORT → m.sub.val = h.rd FE_PTP_SUB → m.domain.toNat = h.rd FE_PTP_DOMAIN →
        m.encap.val = h.rd FE_PTP_ENCAP → m.kind = .delayResp → h.mer.ptp.sync = some (q, t2, some t1) →
        h.mer.ptp.request = some (m.seq.toNat, t3) → h.mer.p.barred = false → h.mer.p.freqOk = true →
        h.is MER_STS_EPVALID = true → h.rd MER_CTL_PTPWIN < (h.ptpPhase t1 t2 t3 m.stamp.toNat).natAbs →
        Completes (.ptpMessage m) s (fun t => failed 2 MER_ERR_LOSSP t ∧ alone 2 MER_ERR_LOSSP t))

/-- FRAME_PULSE within one tick of the frame tick on a pair that meets the frequency rule, is not barred and not qualified:
without a message the count of good pulses is 0; with a consistent one that accompanies the pulse, the first is counted,
and the second, in another frame, qualifies the pair, which is selected, with REF_SELECT recorded, where no source was
selected and the order names the pair. On a qualified pair without a message the pulse is remembered and nothing else
changed. PTP_MESSAGE on the chosen port, sub-port, domain and encapsulation: a one-step Sync, or the Follow_Up of the Sync
held, gives the master's time, and a Delay_Req goes out; the Delay_Resp to it completes a measurement (how it is computed
is assumption log 65, PRESUMED), and one within PTPWIN counts like a pulse: the first is counted, and one that follows a
measurement of the frame before qualifies PTP. An Announce, a peer-delay or unicast message, and one on another port,
sub-port, domain or encapsulation change nothing. -/
def Obligations.ReferenceSourcesQualify : Prop :=
  ∀ (s : State) (p : ClockPair) (m : PtpMsg) (w : TodHeld),
    let h := s.head
    let k := pairSource p
    let src := h.mer.source k
    let (frame, off) := h.nearestFrame
    let pulsed (good : Nat) : Head :=
      h.setSource k { src with lastPulse := some h.mer.tick, pulseAt := some h.mer.sinceReset, good := good, phase := off }
    let comes : Prop := h.mer.tod = some w ∧ (∀ t, src.pulseAt = some t → t < w.arrived) ∧
      w.arrived + 2500 ≤ h.mer.sinceReset ∧ h.mer.sinceReset ≤ w.arrived + (65536 * h.cur + 65536) ∧ w.ok = true ∧
      w.epoch = frame ∧ w.tick = h.predictedTick frame ∧ w.tai = h.taiOf w.tick ∧ w.len = h.predictedLen frame
    let tuned : Prop := m.port.val = h.rd FE_PTP_PORT ∧ m.sub.val = h.rd FE_PTP_SUB ∧ m.domain.toNat = h.rd FE_PTP_DOMAIN ∧
      m.encap.val = h.rd FE_PTP_ENCAP
    let now := h.taiOf h.mer.tick
    let asked (t : Head) (t1 t2 : Nat) : Prop :=
      t.mer.ptp = { sync := some (m.seq.toNat, t2, some t1), request := some (h.mer.ptp.nextSeq, now),
                    nextSeq := (h.mer.ptp.nextSeq + 1) % 65536 } ∧
        t = { h with mer := { h.mer with ptp := t.mer.ptp },
                     out := .frame (4 * m.port.val + m.sub.val) (.ptpDelayReq m.encap.val m.domain.toNat h.mer.ptp.nextSeq) :: h.out }
    let old := if h.is MER_STS_ALIGNING then h.mer.savedSrc else h.rd MER_STS_SRC
    let qualifies (k : Nat) (off : Int) (t : Head) : Prop :=
      t.is (qualField k) = true ∧ SameMemory h t ∧
        (h.selected = none → h.priorities.contains k = true → t.rd MER_STS_SRC = k ∧ t.rd MER_STS_ALIGNING = 0 ∧
          Recorded h t 0x0201 1 old k h.mer.tick (wrap64 off))
    h.plt.inReset = false → h.is MER_STS_EPVALID = true →
      (h.mer.loaded = true → src.barred = false → src.freqOk = true → off.natAbs ≤ 1 →
        (h.mer.tod = none → Completes (.framePulse p) s (fun t => t = pulsed 0)) ∧
        (h.is (qualField k) = false → comes → src.good = 0 → Completes (.framePulse p) s (fun t => t = pulsed 1)) ∧
        (h.is (qualField k) = false → comes → 0 < src.good → h.pulsedIn k frame = false → h.mer.aligning ≠ some p →
          Completes (.framePulse p) s (qualifies k off))) ∧
      (tuned → m.kind = .sync false → Completes (.ptpMessage m) s (fun t => asked t m.stamp.toNat now)) ∧
      (∀ t2, tuned → m.kind = .followUp → h.mer.ptp.sync = some (m.seq.toNat, t2, none) →
        Completes (.ptpMessage m) s (fun t => asked t m.stamp.toNat t2)) ∧
      (∀ q t1 t2 t3, tuned → m.kind = .delayResp → h.mer.ptp.sync = some (q, t2, some t1) →
        h.mer.ptp.request = some (m.seq.toNat, t3) → h.mer.p.barred = false → h.mer.p.freqOk = true →
        h.is MER_STS_QUALP = false → h.is MER_CTL_PTPEN = true →
        let o := h.ptpPhase t1 t2 t3 m.stamp.toNat
        o.natAbs ≤ h.rd MER_CTL_PTPWIN →
        ((∀ l, h.mer.p.lastPulse = some l → l + 65536 * h.cur < h.lastFrameTick) → Completes (.ptpMessage m) s (fun t =>
          t = { h with mer := { h.mer with p := { h.mer.p with good := 1, lastPulse := some h.mer.tick, phase := o },
                                           ptp := { h.mer.ptp with request := none } } })) ∧
        (∀ l, h.mer.p.lastPulse = some l → l < h.lastFrameTick → h.lastFrameTick ≤ l + 65536 * h.cur → 0 < h.mer.p.good →
          Completes (.ptpMessage m) s (qualifies 2 o))) ∧
      (¬ tuned ∨ m.kind = .announce ∨ m.kind = .peerDelay ∨ m.kind = .unicastNegotiation →
        Completes (.ptpMessage m) s (fun t => t = h))

/-- TOD_MESSAGE: bytes that are no valid message, or one that came before the previous pulse, set TODBAD, clear TODOK and
change no counter; before the counters are valid a valid one of the length in force is held; one of another length sets
LENMIS and LENGTH_MISMATCH is recorded; once they are valid a message for the next frame whose tick number, time and
length agree with the counters is held and sets TODOK, and one that does not agree in its tick number sets EPMIS and
TOD_MISMATCH is recorded. FRAME_PULSE on a pair that meets the frequency rule: with no counters loaded and a message that
came after the pair's previous pulse and at least 2,500 ticks ago, they are loaded from it, and the time of its tick is
its time, while MER_EPOCH stays as it was; at the loading pair's pulse of the next frame a consistent message makes the
epoch valid, MER_EPOCH takes it and the pair is qualified, and a pulse without a message discards the counters, the tick
number apart; a message that came less than 2,500 ticks before the pulse sets TODBAD. -/
def Obligations.CountersAreAcquired : Prop :=
  ∀ (s : State) (bytes : List Byte) (after : Bool) (p : ClockPair) (e tk tai len : Nat) (m : TodHeld),
    let h := s.head
    let k := pairSource p
    let src := h.mer.source k
    -- the line as it stood before the message, kept in case the next pulse finds the message too late (R24)
    let line := h.keepLine.mer
    let held : TodHeld := { epoch := e, tick := tk, tai := tai, len := len, arrived := h.mer.sinceReset, ok := true }
    let (frame, off) := h.nearestFrame
    let comes : Prop := h.mer.tod = some m ∧ (∀ t, src.pulseAt = some t → t < m.arrived) ∧
      m.arrived + 2500 ≤ h.mer.sinceReset ∧ h.mer.sinceReset ≤ m.arrived + (65536 * h.cur + 65536)
    h.plt.inReset = false →
      (parseTod bytes = none ∨ (parseTod bytes = some (e, tk, tai, len) ∧ after = false) →
        Completes (.todMessage bytes after) s (fun t => t.rd MER_ERR_TODBAD = 1 ∧ t.rd MER_STS_TODOK = 0 ∧
          OnlyFields { h with mer := { h.mer with todGood := 0 } } t [MER_ERR_TODBAD, MER_STS_TODOK])) ∧
      (parseTod bytes = some (e, tk, tai, len) →
        (h.is MER_STS_EPVALID = false → len = h.cur →
          Completes (.todMessage bytes true) s (fun t => t = { h with mer := { line with tod := some held } })) ∧
        (h.is MER_STS_EPVALID = false → len ≠ h.cur →
          Completes (.todMessage bytes true) s (fun t => t.rd MER_ERR_LENMIS = 1 ∧ t.rd MER_STS_TODOK = 0 ∧
            Recorded h t 0x020A 2 len h.cur e 0 ∧ Beside h t [MER_ERR_LENMIS, MER_STS_TODOK] { h with mer := line })) ∧
        (h.is MER_STS_EPVALID = true → e = h.lastFrame + 65536 →
          (tk = h.predictedTick e → tai = h.taiOf tk → len = h.predictedLen e → h.mer.todSuspended = false →
            Completes (.todMessage bytes true) s (fun t => t.rd MER_STS_TODOK = 1 ∧
              OnlyFields { h with mer := { line with tod := some held, todGood := 0 } } t [MER_STS_TODOK])) ∧
          (tk ≠ h.predictedTick e → Completes (.todMessage bytes true) s (fun t => t.rd MER_ERR_EPMIS = 1 ∧ t.rd MER_STS_TODOK = 0 ∧
            Recorded h t 0x0205 2 e e tk (h.predictedTick e) ∧
            Beside h t [MER_ERR_EPMIS, MER_STS_TODOK]
              { h with mer := { line with tod := some { held with ok := false }, todSuspended := true, todGood := 0 } })))) ∧
      (src.barred = false → src.freqOk = true →
        (h.mer.loaded = false → h.mer.seed = none → comes → m.len = h.cur → m.tai < 2 ^ 64 →
          Completes (.framePulse p) s (fun t => t.mer.early = m.epoch ∧ t.mer.tick = m.tick ∧ t.mer.tie = 0 ∧ t.mer.loaded = true ∧
            t.mer.loader = some p ∧ t.taiOf m.tick = m.tai ∧ (t.mer.source k).good = 1 ∧
            OnlyFields { h with mer := t.mer } t [MER_ORIGIN_ORIGIN])) ∧
        (h.mer.loaded = true → h.is MER_STS_EPVALID = false → h.mer.loader = some p → h.pulsedIn k frame = false →
          (off.natAbs ≤ 1 → comes → m.epoch = frame → m.tick = h.predictedTick frame → m.tai = h.taiOf m.tick →
            m.len = h.predictedLen frame →
            Completes (.framePulse p) s (fun t => t.rd MER_STS_EPVALID = 1 ∧ t.rd MER_STS_TODOK = 1 ∧ t.is (qualField k) = true ∧
              t.epoch = h.mer.early % 2 ^ 63 ∧ t.mer.tick = h.mer.tick)) ∧
          (h.mer.tod = none → Completes (.framePulse p) s (fun t =>
            t.mer.loaded = false ∧ t.mer.loader = none ∧ t.mer.tick = h.mer.tick ∧ t = { h with mer := t.mer })) ∧
          (h.mer.tod = some m → (∀ t, src.pulseAt = some t → t < m.arrived) → h.mer.sinceReset < m.arrived + 2500 →
            Completes (.framePulse p) s (fun t => t.rd MER_ERR_TODBAD = 1 ∧ t.rd MER_STS_TODOK = 0))))

/-- REF_SELECT: where the selected source is qualified no longer, the first qualified source of the order is selected and
REF_SELECT recorded with the phase of its last pulse, or, with none, SRC shows HOLDOVER, MER_HOLD is 0 and HOLDOVER_ENTER
is recorded; else nothing changes. HOLDOVER_LIMIT in HOLDOVER with MER_HOLD at MER_HOLDMAX: HOLDEXP is set, SRC shows TWIN
where the twin permits it and FREERUN otherwise, and HOLDOVER_LIMIT is recorded; before the limit, or in another state,
nothing changes. -/
def Obligations.SelectionAndHoldover : Prop :=
  ∀ (s : State),
    let h := s.head
    let after := if h.twinPermits then 4 else 5
    h.plt.inReset = false →
      (∀ k, h.selected = some k → h.qualified k = false →
        (∀ n, h.bestSource = some n → Completes .refSelect s (fun t => t.rd MER_STS_SRC = n ∧ t.rd MER_STS_ALIGNING = 0 ∧
          Recorded h t 0x0201 1 k n h.mer.tick (wrap64 (h.mer.source n).phase) ∧
          Beside h t [MER_STS_SRC, MER_STS_ALIGNING] { h with mer := { h.mer with aligning := none } })) ∧
        (h.bestSource = none → Completes .refSelect s (fun t => t.rd MER_STS_SRC = 3 ∧ t.rd MER_HOLD_HOLD = 0 ∧
          Recorded h t 0x0203 2 k h.mer.tick 0 0 ∧ Beside h t [MER_STS_SRC, MER_HOLD_HOLD] h))) ∧
      ((h.selected = none ∨ ∃ k, h.selected = some k ∧ h.qualified k = true) → Completes .refSelect s (fun t => t = h)) ∧
      (h.rd MER_STS_SRC = 3 → h.rd MER_HOLDMAX_HOLDMAX ≤ h.rd MER_HOLD_HOLD →
        Completes .holdoverLimit s (fun t => t.rd MER_ERR_HOLDEXP = 1 ∧ t.rd MER_STS_SRC = after ∧
          Recorded h t 0x0204 2 after (h.rd MER_HOLD_HOLD) 0 0 ∧ Beside h t [MER_ERR_HOLDEXP, MER_STS_SRC] h)) ∧
      ((h.rd MER_STS_SRC ≠ 3 ∨ h.rd MER_HOLD_HOLD < h.rd MER_HOLDMAX_HOLDMAX) →
        Completes .holdoverLimit s (fun t => t = h))

/-- Accepted accesses, a write by its own row or by REGISTER_WRITE where a rule speaks of any write. MER_EPLEN.NEXT takes 100
to 1600, and before the epoch is valid the length in force follows; MER_EPLEN_AT takes all ones, which disarms, or a frame
at least 65,536 epochs ahead; MER_SEED, with no counters loaded by a source and no twin heard, is kept for the next tick,
SRC shows FREERUN and EPOCH_SEEDED is recorded; four budgets are taken where the eight sum to at most three quarters of
the epoch; CMT_JBASE and CMT_JSIZE take a journal within DRAM once, and where the second of them finds the dump rows of a
pool already known too small, DUMPREADY is 0 and DUMPSPACE set. Any other value changes nothing but CFGERR. A read of
MER_EPOCH answers the epoch and latches the tick in epoch, tick number and TAI time; one of CMT_APPLIED answers the epoch
applied and latches the digest. -/
def Obligations.EpochRegistersAreWritten : Prop :=
  ∀ (s : State) (x : Access) (v : Word) (b : Bool),
    let h := s.head
    let n := v.toNat
    let row (f : Field) : Instr := .registerWrite x (BitVec.ofNat 48 f.addr) v
    let ignored (c : Instr) (f : Field) : Prop := WriteDone c s (fun t => t.rd f = 1 ∧ OnlyFields h t [f])
    let fields := if b then budgetFields.drop 4 else budgetFields.take 4
    let budget (f : Field) : Nat := if f ∈ fields then bitsAt n f.lo 11 else h.rd f
    let journal (f : Field) : Prop := h.written f = false ∧ inRange f (bitsAt n 0 f.width) = true ∧
      h.fieldCheck f f n (bitsAt n 0 f.width) = true
    (Accepted h x MER_EPLEN_NEXT.addr → (h.accessLevel x MER_EPLEN_NEXT.addr).reaches .s = true →
      (100 ≤ bitsAt n 16 11 → bitsAt n 16 11 ≤ 1600 → ∀ i ∈ [Instr.merEplenNextWrite x v, row MER_EPLEN_NEXT], WriteDone i s (fun t =>
        t.rd MER_EPLEN_NEXT = bitsAt n 16 11 ∧
          t.cur = (if h.is MER_STS_EPVALID then h.cur else bitsAt n 16 11) ∧ OnlyFields h t [MER_EPLEN_NEXT, MER_EPLEN_CUR])) ∧
      (bitsAt n 16 11 < 100 ∨ 1600 < bitsAt n 16 11 → ∀ i ∈ [Instr.merEplenNextWrite x v, row MER_EPLEN_NEXT],
        ignored i MER_ERR_CFGERR)) ∧
    (Accepted h x MER_EPLEN_AT_AT.addr →
      (bitsAt n 0 63 = noEpoch ∨ (bitsAt n 0 63 % 65536 = 0 ∧ h.epoch + 65536 ≤ bitsAt n 0 63) →
        ∀ i ∈ [Instr.merEplenAtWrite x v, row MER_EPLEN_AT_AT], WriteDone i s (fun t => t.rd MER_EPLEN_AT_AT = bitsAt n 0 63 ∧
          t.rd MER_STS_EPLENPEND = (if bitsAt n 0 63 = noEpoch then 0 else 1) ∧
          OnlyFields h t [MER_EPLEN_AT_AT, MER_STS_EPLENPEND])) ∧
      (bitsAt n 0 63 ≠ noEpoch → (bitsAt n 0 63 % 65536 ≠ 0 ∨ bitsAt n 0 63 < h.epoch + 65536) →
        ∀ i ∈ [Instr.merEplenAtWrite x v, row MER_EPLEN_AT_AT], ignored i MER_ERR_CFGERR)) ∧
    (Accepted h x MER_SEED_SEED.addr →
      (h.mer.loaded = false → h.mer.loadedAt = none → h.is MER_STS_EPVALID = false → h.sd.newest = none → h.mer.seed = none →
        WriteDone (.merSeedWrite x v) s (fun t => t.mer.seed = some (bitsAt n 0 63) ∧ t.rd MER_STS_SRC = 5 ∧
          Recorded h t 0x0209 1 (bitsAt n 0 63) 0 0 0 ∧ Beside h t [MER_STS_SRC] { h with mer := t.mer })) ∧
      ((h.mer.loaded = true ∨ h.mer.loadedAt ≠ none ∨ h.is MER_STS_EPVALID = true ∨ h.sd.newest ≠ none ∨ h.mer.seed ≠ none) →
        ignored (.merSeedWrite x v) MER_ERR_CFGERR)) ∧
    (Accepted h x (if b then MER_BUDB_CKPT.addr else MER_BUDA_GC.addr) →
      ((budgetFields.map budget).sum ≤ 3 * h.cur / 4 →
        ∀ i ∈ [Instr.merBudgetWrite x b v, row (if b then MER_BUDB_CKPT else MER_BUDA_GC)], WriteDone i s (fun t =>
        (∀ f ∈ budgetFields, t.rd f = budget f) ∧ OnlyFields h t fields)) ∧
      (3 * h.cur / 4 < (budgetFields.map budget).sum →
        ∀ i ∈ [Instr.merBudgetWrite x b v, row (if b then MER_BUDB_CKPT else MER_BUDA_GC)], ignored i MER_ERR_CFGERR)) ∧
    (Accepted h x MER_EPOCH_EPOCH.addr → Completes (.merEpochRead x) s (fun t =>
      t.out = .bus (.value (BitVec.ofNat 64 h.epoch)) :: h.out ∧ t.rd MER_TIE_TIE = h.mer.tie % 2 ^ 11 ∧
        t.rd MER_TICK_TICK = h.mer.tick % 2 ^ 64 ∧ t.rd MER_TAI_TAI = h.taiOf h.mer.tick ∧
        SameRegistersBut h t [MER_TIE_TIE, MER_TICK_TICK, MER_TAI_TAI] ∧ t = { h with fields := t.fields, out := t.out })) ∧
    (Accepted h x CMT_JBASE_BASE.addr →
      (journal CMT_JBASE_BASE → WriteDone (.cmtJbaseWrite x v) s (fun t => ∃ u, u.rd CMT_JBASE_BASE = bitsAt n 0 48 ∧
        u.written CMT_JBASE_BASE = true ∧ SameRegistersBut h u [CMT_JBASE_BASE] ∧ u = { h with fields := u.fields, rwo := u.rwo } ∧
        (h.written CMT_JSIZE_GIB = false ∨ h.mods = 0 ∨ h.rd FB_GEOM1_ROWS = 0 ∨ u.dumpSpaceOk = true → t = u) ∧
        (h.written CMT_JSIZE_GIB = true → h.mods ≠ 0 → h.rd FB_GEOM1_ROWS ≠ 0 → u.dumpSpaceOk = false →
          t.rd PAR_STS_DUMPREADY = 0 ∧ t.rd PAR_ERR_DUMPSPACE = 1 ∧ Beside u t [PAR_STS_DUMPREADY, PAR_ERR_DUMPSPACE] u))) ∧
      (h.written CMT_JBASE_BASE = false → ¬ journal CMT_JBASE_BASE → ignored (.cmtJbaseWrite x v) CMT_ERR_CFGERR)) ∧
    (Accepted h x CMT_JSIZE_GIB.addr →
      (journal CMT_JSIZE_GIB → WriteDone (.cmtJsizeWrite x v) s (fun t => ∃ u, u.rd CMT_JSIZE_GIB = bitsAt n 0 5 ∧
        u.written CMT_JSIZE_GIB = true ∧ SameRegistersBut h u [CMT_JSIZE_GIB] ∧ u = { h with fields := u.fields, rwo := u.rwo } ∧
        (h.written CMT_JBASE_BASE = false ∨ h.mods = 0 ∨ h.rd FB_GEOM1_ROWS = 0 ∨ u.dumpSpaceOk = true → t = u) ∧
        (h.written CMT_JBASE_BASE = true → h.mods ≠ 0 → h.rd FB_GEOM1_ROWS ≠ 0 → u.dumpSpaceOk = false →
          t.rd PAR_STS_DUMPREADY = 0 ∧ t.rd PAR_ERR_DUMPSPACE = 1 ∧ Beside u t [PAR_STS_DUMPREADY, PAR_ERR_DUMPSPACE] u))) ∧
      (h.written CMT_JSIZE_GIB = false → ¬ journal CMT_JSIZE_GIB → ignored (.cmtJsizeWrite x v) CMT_ERR_CFGERR)) ∧
    (Accepted h x CMT_APPLIED_EPOCH.addr → Completes (.cmtAppliedRead x) s (fun t =>
      t.out = .bus (.value (BitVec.ofNat 64 h.applied)) :: h.out ∧
        (∀ i < 4, t.rd (CMT_DIGEST_D.nth i) = h.cmt.digest.toNat / 2 ^ (64 * i) % 2 ^ 64) ∧
        SameRegistersBut h t ((List.range 4).map CMT_DIGEST_D.nth) ∧ t = { h with fields := t.fields, out := t.out }))

/-- TICK: the count since reset and the tick number advance by one, the tick in epoch by one where counters are loaded,
MER_HOLD by one in HOLDOVER only; background work is charged for the tick, and nothing else of the head changed before the
checks of the ±1 window of a frame and the base library's background jobs follow. With no recipe context and no such
window ending, that is all. With a seed pending the counters start at the seeded epoch, whose number is then valid.
EPOCH_BOUNDARY at the end of an epoch, and TICK there: the work of the first tick begins with the epoch number advanced by
exactly one (MER_EPOCH once the epoch is valid), the tick in epoch at 0 and the tick number advanced by one; before the
end of an epoch EPOCH_BOUNDARY changes nothing. -/
def Obligations.TicksAndEpochs : Prop :=
  ∀ (s : State) (hot : BitVec 12),
    let h := s.head
    let m := { h.mer with sinceReset := h.mer.sinceReset + 1 }
    let counted := { m with tick := h.mer.tick + 1, tie := h.mer.tie + h.mer.loaded.toNat }
    let hold (t : Head) : Prop :=
      t.rd MER_HOLD_HOLD = (if h.rd MER_STS_SRC = 3 then (h.rd MER_HOLD_HOLD + 1) % 2 ^ 64 else h.rd MER_HOLD_HOLD)
    let quiet (t : Head) : Prop := ¬ (t.mer.tick = t.lastFrameTick + 2 ∧ t.counted = t.lastFrame)
    h.plt.inReset = false →
      (h.boundaryDue = false →
        Completes (.epochBoundary hot) s (fun t => t = h) ∧
        (h.mer.seed = none →
          Completes (.tick hot) s (fun t => ∃ u, hold u ∧
            OnlyFields { h with mer := { counted with spent := u.mer.spent } } u [MER_HOLD_HOLD] ∧ t = (u.missedPulses).bgSteps) ∧
          ((∀ e ∈ h.ctxs, isStream e.1 = false) → h.mer.loaded = false ∨ quiet h.countTick →
            Completes (.tick hot) s (fun t => hold t ∧ OnlyFields { h with mer := counted } t [MER_HOLD_HOLD]))) ∧
        (∀ e, h.mer.seed = some e → Completes (.tick hot) s (fun t => ∃ u, hold u ∧ u.epoch = e % 2 ^ 63 ∧
          u.is MER_STS_EPVALID = true ∧ u.rd MER_ORIGIN_ORIGIN = 0 ∧
          OnlyFields { h with mer := { m with tick := e * h.cur, tie := 0, loaded := true, seed := none, spent := u.mer.spent } } u
            [MER_HOLD_HOLD, MER_EPOCH_EPOCH, MER_ORIGIN_ORIGIN, MER_STS_EPVALID] ∧ t = (u.missedPulses).bgSteps))) ∧
      (h.boundaryDue = true → ∀ c ∈ [Instr.tick hot, Instr.epochBoundary hot], Completes c s (fun t => ∃ u : Head,
        (if h.is MER_STS_EPVALID then u.epoch = (h.epoch + 1) % 2 ^ 63
          else u.epoch = h.epoch ∧ u.mer.early = (h.mer.early + 1) % 2 ^ 63) ∧
        u.mer.tie = 0 ∧ u.mer.tick = h.mer.tick + 1 ∧ hold u ∧ SameMemory h u ∧
        t = ((((u.boundaryClock).boundaryPair.boundaryFlash hot.toNat).boundaryRest).missedPulses).bgSteps))

/-- Accepted writes. CORE_DBELL: DOORBELL is pending at each core whose bit is 1, and nothing else changed. CORE_RELEASE
before the DRAM fill is complete changes nothing; after it each core named from 1 up is marked released, and one held in
reset runs, all else of its context as it was; no other context changed. ACC_QWw_CTL takes queue and core; ARM with an
absent queue stays 0; with the threshold above the queue's completion count ARM is 1; with the count there QUEUE becomes
pending at the core and ARM is 0. -/
def Obligations.DoorbellsReleasesAndWatches : Prop :=
  ∀ (s : State) (x : Access) (v : Word) (w : Fin 32),
    let h := s.head
    let n := v.toNat
    let pend (c : Nat) : Field := CORE_IPEND_PEND.ofCore c
    let q := bitsAt n 0 16
    let c := bitsAt n 16 5
    let armed : Prop := bitAt n 21 = true ∧ h.queueThere q = true
    let reached : Prop := h.rd (ACC_QW_THR_THRESH.nth w) ≤ (h.queue q).done
    let arm := ACC_QW_CTL_ARM.nth w
    let fields := [ACC_QW_CTL_QUEUE.nth w, ACC_QW_CTL_CORE.nth w, arm]
    let took (t : Head) : Prop := t.rd (ACC_QW_CTL_QUEUE.nth w) = q ∧ t.rd (ACC_QW_CTL_CORE.nth w) = c
    (Accepted h x CORE_DBELL_RING.addr → WriteDone (.coreDbellWrite x v) s (fun t =>
      (∀ k < 32, t.rd (pend k) = if bitAt n k then setBitN (h.rd (pend k)) 1 % 2 ^ 5 else h.rd (pend k)) ∧
        OnlyFields h t ((List.range 32).map pend))) ∧
    (Accepted h x CORE_RELEASE_CORE.addr →
      (h.is MEM_STS_FILLDONE = false → WriteDone (.coreReleaseWrite x v) s (fun t => t = h)) ∧
      (h.is MEM_STS_FILLDONE = true → WriteDone (.coreReleaseWrite x v) s (fun t =>
        (∀ k, 0 < k → k < 32 → bitAt n k = true → bitAt (t.rd CORE_RELEASE_CORE) (k - 1) = true ∧
          ((h.ctx k).run = .reset → t.ctx k = { h.ctx k with run := .running })) ∧
        (∀ k, k = 0 ∨ 32 ≤ k ∨ bitAt n k = false ∨ (h.ctx k).run ≠ .reset → t.ctx k = h.ctx k) ∧
        SameRegistersBut h t [CORE_RELEASE_CORE] ∧ t = { h with fields := t.fields, ctxs := t.ctxs }))) ∧
    (Accepted h x (ACC_QW_CTL_ARM.nth w).addr →
      (¬ armed → WriteDone (.accQwArmWrite x w v) s (fun t => took t ∧ t.rd arm = 0 ∧ OnlyFields h t fields)) ∧
      (armed → ¬ reached → WriteDone (.accQwArmWrite x w v) s (fun t => took t ∧ t.rd arm = 1 ∧ OnlyFields h t fields)) ∧
      (armed → reached → WriteDone (.accQwArmWrite x w v) s (fun t => took t ∧ t.rd arm = 0 ∧
        bitAt (t.rd (pend c)) 4 = true ∧ OnlyFields h t (pend c :: fields))))

/-- SEAL_SEND: the oldest half not sealed, complete and with room in the ring, is sealed and CMT_SEALED takes its epoch; else
nothing changes. SEAL_LATE: each half not sealed SEALMAX epochs after its epoch ended is marked late, SEALLATE is set and
one record made for each, once; with none newly late nothing changes. SEAL received for an epoch neither committed nor
sealed without the twin: CMT_TWSEALED takes the newer epoch; a half of the count and CRC stated is held, another is
dropped; a digest that differs from this head's for its epoch sets DIVERGE and DIVERGED. SEAL_ACK_SEND marks a held half
once; SEAL_ACK received marks the own sealed half; the eighth SEAL_NAK of an epoch takes the link down, an earlier one is
counted. Memory is unchanged. -/
def Obligations.HalvesAreSealed : Prop :=
  ∀ (s : State) (e n commands : Nat) (crc : BitVec 32) (asvMax ea : Nat) (d : Dig),
    let h := s.head
    let x := h.epochSt e
    let info : SealInfo := { n := n, commands := commands, crc := crc, asvMax := asvMax, ea := ea, d := d }
    let overdue (i : Nat) : Prop := e ≤ i ∧ i + 1 + h.rd CMT_CTL_SEALMAX ≤ h.epoch ∧ h.maySeal i = true
    let matches_ : Prop := x.twin.length = n ∧ halfCrc x.twin = crc
    (h.plt.inReset = false →
      (h.nextSeal = none → Completes .sealSend s (fun t => t = h) ∧ Completes .sealLate s (fun t => t = h)) ∧
      (h.nextSeal = some e → e < noEpoch →
        (h.maySeal e = true → h.halfDone e = true → h.spanFits e = true → Completes .sealSend s (fun t =>
          t.rd CMT_SEALED_EPOCH = e ∧ t.epochSt e = { x with sealed := true } ∧
            Beside h t [CMT_SEALED_EPOCH] { h with cmt := t.cmt })) ∧
        (h.maySeal e = false ∨ h.halfDone e = false ∨ h.spanFits e = false → Completes .sealSend s (fun t => t = h)) ∧
        Completes .sealLate s (fun t => (∀ i, overdue i → (t.epochSt i).late = true) ∧
          ((∃ i, overdue i ∧ (h.epochSt i).late = false) → t.rd CMT_ERR_SEALLATE = 1) ∧
          Beside h t [CMT_ERR_SEALLATE] { h with cmt := t.cmt }) ∧
        (h.maySeal e = true → e + 1 + h.rd CMT_CTL_SEALMAX = h.epoch → x.late = false → Completes .sealLate s (fun t =>
          t.epochSt e = { x with late := true } ∧ Recorded h t 0x0220 1 e (h.epoch - (e + 1)) 0 0)) ∧
        ((∀ i, overdue i → (h.epochSt i).late = true) → Completes .sealLate s (fun t => t = h))) ∧
      (x.twinSeal.isSome = true → x.ackSent = false → h.alone e = false → Completes (.sealAckSend e) s (fun t =>
        t.epochSt e = { x with ackSent := true } ∧ Beside h t [] { h with cmt := t.cmt })) ∧
      (x.twinSeal = none ∨ x.ackSent = true ∨ h.alone e = true → Completes (.sealAckSend e) s (fun t => t = h))) ∧
    (h.alone e = false → e < noEpoch → (h.last = noEpoch ∨ h.last < e) →
      OnMessage 0 (.sealReceive e n commands crc asvMax ea d) s (fun t =>
        SameMemory h t ∧ t.pair.twinMax = asvMax ∧
          t.rd CMT_TWSEALED_EPOCH = (if h.rd CMT_TWSEALED_EPOCH = noEpoch then e else max (h.rd CMT_TWSEALED_EPOCH) e) ∧
          (matches_ → (t.epochSt e).twinSeal = some info ∧ (t.epochSt e).twin = x.twin) ∧
          (¬ matches_ → (t.epochSt e).twin = []) ∧
          (∀ l, ea ≠ noEpoch → Tbl.find h.cmt.applyLog ea = some l → l.after ≠ d →
            t.rd CMT_ERR_DIVERGE = 1 ∧ t.rd CMT_STS_DIVERGED = 1))) ∧
    (h.alone e = false → x.sealed = true →
      OnMessage 0 (.sealAckReceive e) s (fun t => t.epochSt e = { x with ackRecv := true, naks := 0 } ∧ SameMemory h t ∧
        SameRegisters h t) ∧
      (x.naks ≠ 7 → OnMessage 0 (.sealNakReceive e) s (fun t => t.epochSt e = { x with naks := x.naks + 1 } ∧ SameMemory h t)) ∧
      (x.naks = 7 → h.is SD_STS_LINKUP = true → OnMessage 0 (.sealNakReceive e) s (fun t => t.is SD_STS_LINKUP = false)))

/-- EPOCH_COMMIT with every condition met: CMT_LAST takes the next epoch, a span of its intents in merge order stands in the
intent ring, which holds that much more, and memory outside the ring is unchanged; with one not met nothing changes.
APPLY_EPOCH of the next committed epoch, with the metadata pages it uses in the pool (else it waits): unless the apply
stops, CMT_APPLIED takes it and the digest follows from the digest before, the intents and their outcomes; where it stops,
as where a line of its span cannot be read, the head is fenced; with none to apply nothing changes. COMMIT_NOTE raises the
newest epoch noted. RERUN with no divergence being resolved: DIVERGED is set, and the head that yields is fenced. INTENTS
of 1 to 64 records of one epoch not committed join the twin's half; others set PROTO. DESCRIPTOR is counted at its epoch. -/
def Obligations.EpochsCommitAndApply : Prop :=
  ∀ (s : State) (e : Nat) (agrees : Bool) (recs : List Rec64) (cseq nsid ctrl cid opc cset len : Nat),
    let h := s.head
    let c := h.last + 1
    let a := h.applied + 1
    let live : Prop := h.plt.inReset = false
    let mayApply : Prop := h.last < noEpoch ∧ h.applied < h.last ∧ h.cmt.applyStopped = false ∧ h.plt.stopped = false ∧
      h.rd CMT_ASV_MAX ≠ 0
    let loser := if h.rerun e = agrees then 1 else if h.rerun e then 1 - h.headId else h.headId
    (live → h.last < noEpoch →
      (h.mayCommit c = true → h.spanFits c = true → Completes .epochCommit s (fun t => t.last = c ∧
        SameMemoryBut h t h.journal.1 h.intentRing ∧ t.cmt.epochs = Tbl.del h.cmt.epochs c ∧
        ∃ sp, Tbl.find t.cmt.spans c = some sp ∧ sp.off = h.cmt.intentHead ∧ sp.n0 + sp.n1 = (h.mergeOf c).length ∧
          t.cmt.intentUsed = h.cmt.intentUsed + sp.len ∧
          (h.cmt.intentHead < h.intentRing → t.intentsAt sp = h.mergeOf c))) ∧
      (h.mayCommit c = false ∨ h.spanFits c = false → Completes .epochCommit s (fun t => t = h))) ∧
    (live → h.last = noEpoch → Completes .epochCommit s (fun t => t = h)) ∧
    (live →
      (mayApply → (Tbl.find h.cmt.spans a).isSome = true → h.badSpan a ≠ [] →
        Completes .applyEpoch s (fun t => t.cmt.applyStopped = true ∧ t.role = rFenced)) ∧
      (∀ rs, mayApply → h.spanIntents a = some rs → h.badSpan a = [] → h.applyUses a rs = none →
        Completes .applyEpoch s (fun t => t = h)) ∧
      (∀ rs, mayApply → h.spanIntents a = some rs → h.badSpan a = [] → (h.applyUses a rs).isSome = true → Completes .applyEpoch s (fun t =>
        (t.cmt.applyStopped = true → t.role = rFenced) ∧
        (t.cmt.applyStopped = false → t.applied = a ∧ ∃ l, Tbl.find t.cmt.applyLog a = some l ∧ l.before = h.cmt.digest ∧
          l.after = stateDigest l.before a rs l.outcomes ∧ t.cmt.digest = l.after))) ∧
      (h.last = noEpoch ∨ h.applied = noEpoch ∨ h.last ≤ h.applied ∨ h.cmt.applyStopped = true ∨ h.plt.stopped = true ∨
        h.rd CMT_ASV_MAX = 0 → Completes .applyEpoch s (fun t => t = h))) ∧
    (h.alone e = false → OnMessage 0 (.commitNoteReceive e) s (fun t => t.cmt.notes = [h.cmt.notes.foldl max e])) ∧
    (h.cmt.diverge = none → OnMessage 0 (.rerunReceive e agrees) s (fun t =>
      t.rd CMT_ERR_DIVERGE = 1 ∧ t.rd CMT_STS_DIVERGED = 1 ∧ (loser = h.headId → t.role = rFenced))) ∧
    (∀ r rest, recs = r :: rest →
      (recs.length ≤ 64 → (∀ q ∈ recs, iEpoch q = iEpoch r) → h.alone (iEpoch r) = false →
        (h.last = noEpoch ∨ h.last < iEpoch r) → OnMessage 1 (.intentsReceive recs) s (fun t =>
          (t.epochSt (iEpoch r)).twin = (h.epochSt (iEpoch r)).twin ++ recs ∧ SameMemory h t ∧ SameRegisters h t)) ∧
      (64 < recs.length ∨ (∃ q ∈ recs, iEpoch q ≠ iEpoch r) → OnMessage 1 (.intentsReceive recs) s (fun t =>
        t.rd SD_ERR_PROTO = 1 ∧ t.cmt = h.cmt ∧ SameMemory h t))) ∧
    ((∀ v ∈ [cseq, nsid, ctrl, cid, opc, cset, len], v < 2 ^ 64) →
      OnMessage 1 (.descriptorReceive e cseq nsid ctrl cid opc cset len) s (fun t =>
        t.epochSt e = { h.epochSt e with descs := (h.epochSt e).descs + 1 } ∧ SameMemory h t ∧ SameRegisters h t))

/-- For a READY connection and a packet in order that passes its checks and, if a FIRST one, comes between messages. CHRT
WRITE, first packet of a message whose range the key allows: its bytes stand at the address, no other byte changed, the
PSN expected is one higher and the message is remembered unless the packet ended it. READ_REQ of at most one packet in a
range the key allows, with no answer waiting: the answer goes out with the bytes there where the credits and the link
allow it, and waits where the credits do not; memory is unchanged. READ_RESP whose PSN falls to an outstanding READ, next
in order: its bytes stand at their place of the READ's range, and no other byte changed. A SEND of another type than EVENT
on a software connection with a free slot: the slot holds its header and bytes and RXPI is one higher; with none it is
answered NAK RNR and nothing is placed. -/
def Obligations.PacketsArePlacedAndAnswered : Prop :=
  ∀ (s : State) (p : ChrtPkt) (i : Nat) (m : ChrtMsg) (ra rk n laddr : Nat),
    let h := s.head
    let c := p.conn.val
    let x := h.conn c
    let len := p.payload.length
    let a := p.raddr.toNat
    let clean (addr k : Nat) : Prop := dramBase ≤ addr → h.is MEM_STS_FILLDONE = true ∧ CleanLines h addr k
    let whole : Prop := h.plt.inReset = false ∧ x.state = 1 ∧ p.frameOk = true ∧ p.verOk = true ∧ p.tagOk = true ∧
      p.plen.toNat = len ∧ (c < 16 → h.pair.deaf = false)
    let next : Prop := p.psn.toNat = x.expPsn ∧ len ≤ x.payload ∧ (p.first = true → x.incoming = none)
    let e := h.cnEntry c
    let pi := h.load (e + 40) 4
    let slots := h.load (e + 12) 4
    let slot := h.load (e + 16) 8 + 4160 * (pi % slots)
    let taken := (pi + 2 ^ 32 - h.load (e + 44) 4) % 2 ^ 32
    (whole → next → p.first = true → len ≤ p.mlen.toNat → p.mlen.toNat ≤ 8388608 → (p.last = true → len = p.mlen.toNat) →
      h.keyOk c p.rkey.toNat a p.mlen.toNat true = some i → clean a len →
      Completes (.chrtWrite p) s (fun t => t.bytes a len = p.payload ∧ SameMemoryBut h t a len ∧
        (t.conn c).expPsn = (x.expPsn + 1) % 2 ^ 32 ∧
        (p.last = true → (t.conn c).incoming = none) ∧
        (p.last = false → ∃ q, (t.conn c).incoming = some q ∧ q.got = len ∧ q.mlen = p.mlen.toNat ∧ q.raddr = a))) ∧
    (whole → next → p.mlen.toNat ≤ x.payload → x.payload ≤ 8388608 → h.keyOk c p.rkey.toNat a p.mlen.toNat false = some i →
      clean a p.mlen.toNat → x.answers = [] → x.udp = true ∨ (h.is SD_STS_LINKUP = true ∧ h.bothActive ≠ []) →
      (h.creditOk c (unitsOf p.mlen.toNat) = true → Completes (.chrtReadReq p) s (fun t => SameMemory h t ∧
        (t.conn c).expPsn = (x.expPsn + 1) % 2 ^ 32 ∧ (t.conn c).answers = [] ∧
        t.out.head? = some (.chrt (.data c 4 (if x.udp then 0 else connVc c) 0 true true (p.psn.toNat % 2 ^ 32) p.mlen.toNat 0 0
          (h.bytes a p.mlen.toNat))))) ∧
      (h.creditOk c (unitsOf p.mlen.toNat) = false → Completes (.chrtReadReq p) s (fun t => SameMemory h t ∧
        (t.conn c).expPsn = (x.expPsn + 1) % 2 ^ 32 ∧
        (t.conn c).answers = [{ psn := p.psn.toNat % 2 ^ 32, mlen := p.mlen.toNat, first := true, last := true,
                                data := h.bytes a p.mlen.toNat }]))) ∧
    (whole → m.body = .read ra rk n laddr →
      x.out.find? (fun m => serialLe m.psn p.psn.toNat && ! serialLe ((m.psn + m.npsn) % 2 ^ 32) p.psn.toNat) = some m →
      (let off := (p.psn.toNat + 2 ^ 32 - m.psn) % 2 ^ 32 * x.payload
       off = m.got → off + len ≤ n → (p.last = true → off + len = n) → clean (laddr + off) len → m.entry = none →
       (∀ q ∈ x.out, q.entry = none) →
        Completes (.chrtReadResp p) s (fun t => t.bytes (laddr + off) len = p.payload ∧ SameMemoryBut h t (laddr + off) len))) ∧
    (whole → next → 16 ≤ c → p.mtype ≠ 0x20 →
      (taken = slots → Completes (.softwareSendReceive p) s (fun t => SameMemory h t ∧
        t.out.head? = some (.chrt (.nak c 4 p.psn.toNat)))) ∧
      (taken ≠ slots → p.mlen.toNat = len → len ≤ 4096 → p.first = true → p.last = true →
        (e + 64 ≤ slot ∨ slot + 4160 ≤ e) →
        Completes (.softwareSendReceive p) s (fun t =>
          t.bytes slot (64 + len) = toBytes 64 (recOf [(0, 4, len), (4, 4, p.psn.toNat), (8, 1, p.mtype.toNat)]) ++ p.payload ∧
          t.load (e + 40) 4 = (pi + 1) % 2 ^ 32 ∧ (t.conn c).expPsn = (x.expPsn + 1) % 2 ^ 32 ∧
          (∀ b, (b < slot ∨ slot + 4160 ≤ b) → (b < e + 40 ∨ e + 44 ≤ b) → t.byte b = h.byte b))))

/-- On a READY connection. ACK: the messages wholly acknowledged leave, the others stay in order, and the queue's completion
count rises by the entries among them. NAK SEQ and NAK LENGTH, and a wait that expires, with messages outstanding and
fewer than seven retries: one more retry, the wait doubled up to RTOMAX after an expiry; the eighth on a UDP connection is
its error state. NAK REMOTE_ACCESS and NAK INVALID: the error state with cause 2 or 4, which an entry outstanding takes.
NAK RNR stops transmission, and the end of its wait lets it go on. The ack timer with placed packets sends their ACK.
CREDIT takes the newer grants; a CNP is counted and, with ECN enabled, halves the rate down to MINRATE, at most once in
CNPINT. A UDP connection whose sub-port is down is in the error state with cause 6; an unknown control SEND sets PROTO. -/
def Obligations.AcknowledgementsAndRetries : Prop :=
  ∀ (s : State) (c : Fin 1024) (apsn : BitVec 32) (g : Vector (BitVec 32) 4) (k : Fin 2) (len : BitVec 16),
    let h := s.head
    let x := h.conn c
    let idle : Bool := decide (c.val < 16) || (x.out.all (fun m => m.entry.isNone) && (h.queue (0x9000 + c)).waiting.isEmpty)
    let failed (status : Nat) (t : Head) : Prop := (t.conn c).state = 2 ∧ (t.conn c).cause = (if idle then status else 4) ∧ t.rd SD_ERR_CONNERR = 1
    let cnps := FE_P_CNT_CNPRX.nth (x.sub / 4)
    let cut : Prop := ∀ n, x.lastCut = some n → n + 25 * h.rd FE_CC_CNPINT ≤ h.mer.sinceReset
    let noted (y : Conn) (t : Head) : Prop := t.conn c = y ∧ SameRegistersBut h t [cnps] ∧
      t.rd cnps = min (h.rd cnps + 1) (2 ^ cnps.width - 1) ∧ t = { h with sd := t.sd, fields := t.fields }
    let counted (f : Field) (t : Head) : Prop := t.rd f = min (h.rd f + 1) 65535
    let stays (i : Instr) : Prop := Completes i s (fun t => t = h)
    (h.plt.inReset = false → x.state = 1 →
      (x.out = [] → stays (.chrtAck c apsn)) ∧
      (x.out ≠ [] → Completes (.chrtAck c apsn) s (fun t =>
        (t.conn c).out.map (·.psn) = (x.out.dropWhile (ackedBy apsn.toNat)).map (·.psn) ∧
          (t.queue (0x9000 + c)).done = (h.queue (0x9000 + c)).done +
            ((x.out.takeWhile (ackedBy apsn.toNat)).filter (fun m => m.entry.isSome)).length)) ∧
      (x.out ≠ [] → x.retries < 7 →
        (∀ i ∈ [Instr.chrtNakSeq c apsn, Instr.chrtNakLength c apsn], Completes i s (fun t => counted SD_CNT_NAKS t ∧
          counted SD_CNT_RETRIES t ∧ (t.conn c).retries = x.retries + 1 ∧ (t.conn c).wait = x.wait ∧ SameMemory h t)) ∧
        Completes (.chrtRetransmitTimeout c) s (fun t => counted SD_CNT_RETRIES t ∧ (t.conn c).retries = x.retries + 1 ∧
          (t.conn c).wait = min (h.rd SD_CTL_RTOMAX) (2 * max x.wait (h.rd SD_CTL_RTO0)) ∧ SameMemory h t)) ∧
      (x.out ≠ [] → 7 ≤ x.retries → x.udp = true → Completes (.chrtRetransmitTimeout c) s (failed 3)) ∧
      Completes (.chrtNakRemoteAccess c apsn) s (fun t => failed 2 t ∧ counted SD_CNT_NAKS t) ∧
      Completes (.chrtNakInvalid c apsn) s (fun t => failed 4 t ∧ counted SD_CNT_NAKS t) ∧
      Completes (.chrtNakRnr c apsn) s (fun t => (t.conn c).rnr = true ∧ (t.conn c).out.length = x.out.length ∧
        counted SD_CNT_NAKS t ∧ OnlyFields { h with sd := t.sd } t [SD_CNT_NAKS]) ∧
      (x.rnr = true → Completes (.chrtRnrDelayExpiry c) s (fun t => (t.conn c).rnr = false ∧ (t.conn c).retries = x.retries ∧
        SameMemory h t)) ∧
      (0 < x.unacked → Completes (.chrtAckTimer c) s (fun t => (t.conn c).unacked = 0 ∧
        t.out = .chrt (.ack c ((x.expPsn + 2 ^ 32 - 1) % 2 ^ 32)) :: h.out ∧ t = { h with sd := t.sd, out := t.out })) ∧
      (x.unacked = 0 → stays (.chrtAckTimer c)) ∧
      (x.udp = true →
        (serialLe x.credGrant ((g.toList.map (·.toNat)).getD 0 0) = true → Completes (.chrtCredit (some c) g) s (fun t =>
          (t.conn c).credGrant = ((g.toList.map (·.toNat)).getD 0 0) ∧ SameMemory h t)) ∧
        (h.is FE_CC_ECNEN = true → cut → Completes (.chrtCnp c) s (noted { x with
          rate := max (h.connRate x / 2) (100 * h.rd FE_CC_MINRATE), cnpIn := h.mer.sinceReset, lastCut := some h.mer.sinceReset })) ∧
        (h.is FE_CC_ECNEN = true → ¬ cut → Completes (.chrtCnp c) s (noted { x with rate := h.connRate x, cnpIn := h.mer.sinceReset })) ∧
        (h.is FE_CC_ECNEN = false → Completes (.chrtCnp c) s (noted x)) ∧
        (bitAt (h.rd (FE_P_STS_SUBUP.nth (x.sub / 4))) (x.sub % 4) = false → Completes (.udpLinkDownTimeout c) s (failed 6)))) ∧
    (h.plt.inReset = false → x.rnr = false → stays (.chrtRnrDelayExpiry c)) ∧
    (h.plt.inReset = false → h.pair.deaf = false → h.is SD_STS_LINKUP = true →
      (∀ v < 4, serialLe (vcGet h.sd.grants v) ((g.toList.map (·.toNat)).getD v 0) = true) →
      Completes (.chrtCredit none g) s (fun t => ∀ v < 4, vcGet t.sd.grants v = (g.toList.map (·.toNat)).getD v 0)) ∧
    OnMessage k (.controlSendUnknown k len) s (fun t => t.rd SD_ERR_PROTO = 1 ∧ SameRegistersBut h t [SD_ERR_PROTO] ∧ SameMemory h t)

/-- CONNECTION_OPEN of a reset software connection whose entry is in range: READY, both PSNs 0, STATE 1 in its entry, and no
other byte changed; else CFGERR. CONNECTION_RESET of a software connection: all of it is as at reset, STATE, RXPI and RXCI
are 0. SD_MRREG in range, no revocation busy, loads the region from its entry; SD_MRREV in range, none busy, makes the
region invalid, clears VALID in its entry and sets BUSY; out of range both set CFGERR only. MR_REVOKE_DRAIN with no
request admitted clears BUSY. SQ_NOP at the front, in order and with nothing sent outstanding, completes OK in the
completion ring; SQ_SEND, SQ_WRITE and SQ_READ at the front begin: the entry has left the queue, and the PSNs of its
packets are taken. -/
def Obligations.ConnectionsRegionsAndSendQueues : Prop :=
  ∀ (s : State) (x : Access) (v : Word) (n : BitVec 10) (c : Fin 1024) (e : QEntry) (rest : List QEntry),
    let h := s.head
    let k := n.toNat
    let en := h.cnEntry k
    let i := bitsAt v.toNat 0 24
    let r := h.mrEntry i
    let ranged : Prop := 16 ≤ i ∧ i < 2 ^ h.rd SD_MRBASE_LOG
    let refused (i : Instr) : Prop := WriteDone i s (fun t => t.rd SD_ERR_CFGERR = 1 ∧ OnlyFields h t [SD_ERR_CFGERR])
    let q := 0x9000 + c.val
    let body := e.body.toNat
    let opc := recAt body 0 1
    let len := recAt body 4 4
    let a := recAt body 8 8
    let y := h.conn c
    let front : Prop := h.plt.inReset = false ∧ y.state = 1 ∧ (h.queue q).waiting = e :: rest ∧ e.ok = true ∧
      bitAt (recAt body 1 1) 0 = false
    let ring := h.rd SD_SWCQ_BASE * 2 ^ 20 + 1024 * c.val + (e.count - 1) % 64 * 16
    let begun (t : Head) : Prop := (t.queue q).waiting = rest ∧ (t.queue q).done = (h.queue q).done ∧ SameMemory h t ∧
      (t.conn c).sendPsn = (y.sendPsn + max 1 (ceilDiv len y.payload)) % 2 ^ 32 ∧ (t.conn c).out.length = y.out.length + 1
    (Accepted h x SD_CNCTL_CONN.addr →
      (16 ≤ k → (h.conn k).state = 0 → h.cnEntryOk k = true → WriteDone (.connectionOpen x n) s (fun t =>
        (t.conn k).state = 1 ∧ (t.conn k).sendPsn = 0 ∧ (t.conn k).expPsn = 0 ∧ (t.conn k).out = [] ∧
          t.byte (en + 1) = 1 ∧ SameMemoryBut h t (en + 1) 1 ∧ SameRegisters h t)) ∧
      (k < 16 ∨ (h.conn k).state ≠ 0 ∨ h.cnEntryOk k = false → refused (.connectionOpen x n)) ∧
      (16 ≤ k → WriteDone (.connectionReset x n) s (fun t => t.conn k = Conn.reset ∧ t.byte (en + 1) = 0 ∧ t.load (en + 40) 8 = 0)) ∧
      (k < 16 → refused (.connectionReset x n))) ∧
    (Accepted h x SD_MRREG_INDEX.addr →
      (ranged → h.is SD_MRREV_BUSY = false → WriteDone (.sdMrregWrite x v) s (fun t => ∃ g, Tbl.find t.sd.regions i = some g ∧ g.base = h.load r 8 ∧
        g.len = h.load (r + 8) 8 ∧ g.key = h.load (r + 16) 4 ∧
        g.admitted = ((h.region i).map (·.admitted)).getD 0 ∧ t = { h with sd := t.sd })) ∧
      (¬ ranged ∨ h.is SD_MRREV_BUSY = true → refused (.sdMrregWrite x v))) ∧
    (Accepted h x SD_MRREV_INDEX.addr →
      (ranged → h.is SD_MRREV_BUSY = false → WriteDone (.sdMrrevWrite x v) s (fun t => t.rd SD_MRREV_BUSY = 1 ∧
        t.sd.revoking = some i ∧ (∀ g, h.region i = some g → t.region i = some { g with valid := false }) ∧
        t.byte (r + 20) = BitVec.ofNat 8 (clrBitN (h.load (r + 20) 1) 2) ∧ SameMemoryBut h t (r + 20) 1 ∧
        SameRegistersBut h t [SD_MRREV_BUSY])) ∧
      (¬ ranged ∨ h.is SD_MRREV_BUSY = true → refused (.sdMrrevWrite x v))) ∧
    (h.plt.inReset = false → ∀ j, h.sd.revoking = some j →
      (((h.region j).map (·.admitted)).getD 0 = 0 → Completes .mrRevokeDrain s (fun t => t.rd SD_MRREV_BUSY = 0 ∧
        OnlyFields { h with sd := { h.sd with revoking := none } } t [SD_MRREV_BUSY])) ∧
      (((h.region j).map (·.admitted)).getD 0 ≠ 0 → Completes .mrRevokeDrain s (fun t => t = h))) ∧
    (front →
      (opc = 0 → (∀ m ∈ y.out, m.entry = none) → Completes (.sqNop c) s (fun t => (t.queue q).waiting = rest ∧
        (t.queue q).done = (h.queue q).done + 1 ∧ t.bytes ring 16 = toBytes 16 (recOf [(0, 2, 0), (4, 4, 0), (8, 8, e.count)]) ∧
        SameMemoryBut h t ring 16)) ∧
      ((dramBase ≤ a → h.is MEM_STS_FILLDONE = true ∧ CleanLines h a len) →
        (opc = 1 → Completes (.sqSend c) s begun) ∧ (opc = 2 → Completes (.sqWrite c) s begun)) ∧
      (opc = 3 → Completes (.sqRead c) s begun) ∧
      (∀ p ∈ [(Instr.sqNop c, 0), (Instr.sqSend c, 1), (Instr.sqWrite c, 2), (Instr.sqRead c, 3)], opc ≠ p.2 →
        Completes p.1 s (fun t => t = h)))

/-- SD_SIGNAL_LOSS of an enabled group, GROUP_TRAIN_TIMEOUT of a STARTING one and the third GROUP_HEARTBEAT_MISS: a group not
failed before is FAILED with its cause, inactive, its EN 0, and its retirement logged; in other states nothing changes,
and an earlier miss is counted. LINK_NO_GROUP_TIMEOUT with no group active at both heads takes an up link down and marks
it failed. HEARTBEAT_SEND at this head's heartbeat tick gives the heartbeat to every ON group and counts it; at another
tick nothing changes. Without a link key no heartbeat is sent or taken. HEARTBEAT_RECEIVE of a newer heartbeat from an
unfenced twin: it is the newest, MISSED is 0 and TWINREADY follows; an older copy is noted for its group only. An EVENT
received stands in the event ring, whose index is one higher, and is recorded. -/
def Obligations.GroupsHeartbeatsAndEvents : Prop :=
  ∀ (s : State) (g : Fin 6) (hb : Heartbeat) (code side about epoch p0 p1 p2 : Nat),
    let h := s.head
    let st := h.rd (SD_G_STS_STATE.nth g)
    let failed (cause : Nat) (t : Head) : Prop := t.rd (SD_G_STS_FAILED.nth g) = 1 ∧ t.rd (SD_G_STS_CAUSE.nth g) = cause ∧
      t.rd (SD_G_STS_ACTIVE.nth g) = 0 ∧ t.unitEn (.laneGroup g) = false ∧ t.retiredLog = h.retiredLog ++ [.laneGroup g]
    let stays (i : Instr) : Prop := Completes i s (fun t => t = h)
    let k := (Tbl.find h.sd.groupMiss g).getD 0 + 1
    let keyed : Prop := (h.roleKey 3).isSome = true
    let fresh : Prop := keyed ∧ h.pair.deaf = false ∧ ∀ n, h.sd.newest = some n → n.seq < hb.seq ∨ n.tick < hb.tick
    let pi := h.rd SD_EVRING_PI
    let slot := h.rd SD_EVRING_BASE * 2 ^ 14 + 64 * pi
    (h.plt.inReset = false →
      (h.is (SD_G_STS_FAILED.nth g) = false →
        (h.is (SD_G_CTL_EN.nth g) = true → Completes (.sdSignalLoss g) s (failed 0)) ∧
        (st = uStarting → Completes (.groupTrainTimeout g) s (failed 4)) ∧
        (∀ n, h.sd.newest = some n → st = uOn → Tbl.find h.sd.groupSeen g ≠ some n.seq → h.sd.newestTick + 50 ≤ h.mer.tick →
          (k = 3 → Completes (.groupHeartbeatMiss g) s (failed 1)) ∧
          (k ≠ 3 → Completes (.groupHeartbeatMiss g) s (fun t => Tbl.find t.sd.groupMiss g = some k ∧ t = { h with sd := t.sd })))) ∧
      (h.is (SD_G_CTL_EN.nth g) = false → stays (.sdSignalLoss g)) ∧
      (st ≠ uStarting → stays (.groupTrainTimeout g)) ∧
      (h.sd.newest = none ∨ st ≠ uOn → stays (.groupHeartbeatMiss g)) ∧
      (h.bothActive = [] → h.is SD_STS_LINKUP = true → Completes .linkNoGroupTimeout s (fun t =>
        t.rd SD_STS_LINKUP = 0 ∧ t.rd SD_STS_LINKFAIL = 1 ∧ t.rd SD_ERR_LINKFAIL = 1)) ∧
      (h.bothActive ≠ [] ∨ h.is SD_STS_LINKUP = false → stays .linkNoGroupTimeout) ∧
      (heartbeatTick h.headId h.mer.tick = true → keyed →
        Completes .heartbeatSend s (fun t => t.sd.hbSeq = h.sd.hbSeq + 1 ∧ (∀ j < 6, h.rd (SD_G_STS_STATE.nth j) = uOn → .chrt (.heartbeat j h.heartbeat) ∈ t.out) ∧
        SameMemory h t)) ∧
      (heartbeatTick h.headId h.mer.tick = false → stays .heartbeatSend) ∧
      (fresh → hb.fenced = false → Completes (.heartbeatReceive g hb) s (fun t => t.sd.newest = some hb ∧
        t.rd SD_PAIR_STS_MISSED = 0 ∧ t.rd PAR_STS_TWINREADY = hb.dumpready.toNat ∧ t.sd.newestTick = h.mer.tick)) ∧
      (¬ keyed → stays (.heartbeatReceive g hb) ∧ Completes .heartbeatSend s (fun t => t.sd.hbSeq = h.sd.hbSeq ∧
        ∀ j b, .chrt (.heartbeat j b) ∈ t.out → .chrt (.heartbeat j b) ∈ h.out)) ∧
      (keyed → ¬ fresh → Completes (.heartbeatReceive g hb) s (fun t => t.sd.newest = h.sd.newest ∧ t = { h with sd := t.sd } ∧
        Tbl.find t.sd.groupSeen g = some hb.seq))) ∧
    (code ≠ 1 → code ≠ 6 → pi < 256 → OnMessage 0 (.twinEventReceive code side about epoch p0 p1 p2) s (fun t =>
      t.bytes slot 64 = eventBytes code side about epoch p0 p1 p2 ∧ SameMemoryBut h t slot 64 ∧
        t.rd SD_EVRING_PI = (pi + 1) % 256 ∧ Recorded h t 0x0906 1 code p0 p1 p2))

/-- LINK_KEY_FRAME_SEND with an AKEK, an active group and no link formed: a frame with this head's nonce goes on every active
group, drawn first where none is held; otherwise nothing changes. LINK_KEY_FRAME_RECEIVE in order with another CHECK sets
LINKKEY and is recorded once; with this CHECK the twin's nonce is kept, and where this head's is held the link key is
derived from both, the link is up with every hardware connection READY, and an ALONE head is FORMING. HELLO in a role that
expects one: the same head id, another index size or a version above this head's MAX fences the head with that cause;
another pool or journal size sets MISMATCH, recorded, and a FORMING head is ALONE; agreement of two fresh heads makes head
0 name P, and a twin that is behind, joining or fenced makes this head its keeper. JOIN_AT for formation is taken by head
1, FORMED ends formation once this head's checkpoint is complete, CLOCK is kept. -/
def Obligations.LinkKeysHelloAndFormation : Prop :=
  ∀ (s : State) (f : LinkKeyFrame) (n : BitVec 256) (id role log jsize asvMax asvCur last applied p t0 cur next at_ : Nat)
    (pool origin : Word) (d : Dig) (k : KeyRec),
    let h := s.head
    let stays (c : Instr) : Prop := Completes c s (fun t => t = h)
    let hello : Instr := .helloReceive id role log jsize asvMax asvCur pool last applied d
    let inOrder : Prop := f.magic = 0x594B4E4C ∧ f.ver = 1 ∧ f.zeros = true ∧ h.mayLink = true
    let linked (own twin : BitVec 256) (t : Head) : Prop :=
      let a := toBytes 32 own.toNat
      let b := toBytes 32 twin.toNat
      t.umb.linkKey = some (kdf k.key "CH9K link" (if h.headId = 0 then a ++ b else b ++ a) 1) ∧
        t.rd SD_STS_LINKUP = 1 ∧ t.rd SD_STS_LINKFAIL = 0 ∧ (∀ c < 13, (t.conn c).state = 1) ∧ t.pair.deaf = false ∧
        SameMemory h t ∧ (h.role = rAlone → h.cmt.stopped = false → t.role = rForming)
    let up : Prop := h.is SD_STS_LINKUP = true
    let given (x : BitVec 256) (t : Head) : Prop := ∀ g ∈ h.ownActive, .chrt (.linkKey g (h.linkFrame k.key x)) ∈ t.out
    let expected : Prop := h.role = rAlone ∨ h.role = rForming ∨ h.role = rKeeper ∨ (h.role = rFenced ∧ h.pair.fence = none)
    let role' := if h.role = rForming then rAlone else h.role
    let sizes : Prop := pool = h.pair.pool ∧ log = h.cxLog
    let versions : Prop := asvCur ≤ h.rd CMT_ASV_MAX ∧ h.rd CMT_ASV_CUR ≤ asvMax
    let keepsRole (t : Head) : Prop := t.role = h.role ∧ t.pair = h.pair ∧ SameMemory h t
    (h.plt.inReset = false →
      (h.roleKey 0 = none → stays .linkKeyFrameSend ∧ stays (.linkKeyFrameReceive f)) ∧
      (h.sd.linkFormed = true ∨ h.ownActive = [] → stays .linkKeyFrameSend) ∧
      (h.mayLink = false → ¬ up → stays .linkKeyFrameSend) ∧
      (h.umb.ownNonce = none → h.is UMB_STS_RNGOK = false → stays .linkKeyFrameSend) ∧
      (∀ m, h.roleKey 0 = some k → h.sd.linkFormed = false → h.ownActive ≠ [] → h.mayLink = true → h.umb.twinNonce = some m →
        (h.umb.ownNonce = some n → Completes .linkKeyFrameSend s (linked n m)) ∧
        (h.umb.ownNonce = none → h.is UMB_STS_RNGOK = true → Completes .linkKeyFrameSend s (fun t => ∃ x, linked x m t))) ∧
      (h.roleKey 0 = some k → h.sd.linkFormed = false → h.ownActive ≠ [] → (h.mayLink = true ∧ h.umb.twinNonce = none) ∨ up →
        (h.umb.ownNonce = some n → Completes .linkKeyFrameSend s (fun t => given n t ∧ t = { h with out := t.out })) ∧
        (h.umb.ownNonce = none → h.is UMB_STS_RNGOK = true → Completes .linkKeyFrameSend s (fun t =>
          ∃ x, t.umb.ownNonce = some x ∧ given x t ∧ t.umb.mismatchPosted = false ∧ SameRegisters h t ∧ SameMemory h t))) ∧
      (¬ inOrder → stays (.linkKeyFrameReceive f)) ∧
      (h.roleKey 0 = some k → inOrder →
        (f.check ≠ linkCheck k.key →
          (h.umb.mismatchPosted = false → Completes (.linkKeyFrameReceive f) s (fun t => t.rd UMB_ERR_LINKKEY = 1 ∧
            Recorded h t 0x0B07 2 (linkCheck k.key).toNat f.check.toNat 0 0 ∧
            Beside h t [UMB_ERR_LINKKEY] { h with umb := { h.umb with mismatchPosted := true } })) ∧
          (h.umb.mismatchPosted = true → Completes (.linkKeyFrameReceive f) s (fun t => t.rd UMB_ERR_LINKKEY = 1 ∧
            OnlyFields h t [UMB_ERR_LINKKEY]))) ∧
        (f.check = linkCheck k.key →
          (h.umb.ownNonce = none → Completes (.linkKeyFrameReceive f) s (fun t =>
            t = { h with umb := { h.umb with twinNonce := some f.nonce } })) ∧
          (h.umb.ownNonce = some n → Completes (.linkKeyFrameReceive f) s (linked n f.nonce))))) ∧
    (last < 2 ^ 64 →
      (¬ expected → OnMessage 0 hello s keepsRole) ∧
      (expected → id = h.headId → OnMessage 0 hello s (fun t => t.role = rFenced ∧ t.pair.fence = some .sameHead)) ∧
      (expected → id ≠ h.headId →
        (pool ≠ h.pair.pool → OnMessage 0 hello s (fun t => t.rd SD_PAIR_ERR_MISMATCH = 1 ∧ t.role = role' ∧ SameMemory h t ∧
          Recorded h t 0x0911 2 2 h.pair.pool.toNat pool.toNat 0)) ∧
        (pool = h.pair.pool → log ≠ h.cxLog → OnMessage 0 hello s (fun t => t.rd CX_ERR_SIZEMIS = 1 ∧ t.role = rFenced ∧
          t.pair.fence = some .indexSize)) ∧
        (sizes → jsize ≠ h.rd CMT_JSIZE_GIB → OnMessage 0 hello s (fun t => t.rd SD_PAIR_ERR_MISMATCH = 1 ∧ t.role = role' ∧
          SameMemory h t ∧ Recorded h t 0x0911 2 4 (h.rd CMT_JSIZE_GIB) jsize 0)) ∧
        (sizes → jsize = h.rd CMT_JSIZE_GIB →
          (h.rd CMT_ASV_MAX < asvCur → OnMessage 0 hello s (fun t => t.rd CMT_ERR_ASVREJ = 1 ∧ t.role = rFenced ∧
            t.pair.fence = some .asv)) ∧
          (asvCur ≤ h.rd CMT_ASV_MAX → asvMax < h.rd CMT_ASV_CUR →
            OnMessage 0 hello s (fun t => t.role = role' ∧ SameMemory h t)) ∧
          (versions → h.role = rKeeper → OnMessage 0 hello s (fun t => t.role = rKeeper ∧
            (t.pair.joinPending = true ∨ t.pair.joinCut.isSome = true))) ∧
          (versions → h.role ≠ rKeeper → role = rKeeper ∨ h.role = rFenced ∨ h.cmt.stopped = true →
            OnMessage 0 hello s (fun t => t.role = h.role ∧ SameMemory h t)) ∧
          (versions → (h.role = rAlone ∨ h.role = rForming) → h.cmt.stopped = false → role ≠ rKeeper →
            role = rJoining ∨ role = rFenced ∨ appliedRank applied < appliedRank h.applied →
            OnMessage 0 hello s (fun t => t.role = rKeeper ∧ (t.pair.joinPending = true ∨ t.pair.joinCut.isSome = true))) ∧
          (versions → (h.role = rAlone ∨ h.role = rForming) → h.cmt.stopped = false →
            role ≠ rKeeper → role ≠ rJoining → role ≠ rFenced → applied = h.applied → d = h.cmt.digest →
            (h.headId = 0 → h.is MER_STS_EPVALID = true → OnMessage 0 hello s (fun t => t.role = h.role ∧
              t.pair.formEpoch = some (roundUp (h.epoch + 2048) 1024) ∧ t.pair.twinMax = asvMax ∧ SameMemory h t)) ∧
            (h.headId ≠ 0 → OnMessage 0 hello s (fun t => t.role = h.role ∧ SameMemory h t ∧
              t.pair = { h.pair with twinMax := asvMax })))))) ∧
    (h.role = rForming → h.headId = 1 → h.epoch + 64 < p → h.is MER_STS_EPVALID = true →
      OnMessage 0 (.joinAtReceive p false) s (fun t => SameMemory h t ∧ t.role = rForming ∧
        t.pair = { h.pair with formEpoch := some p, formCkpt := false, formedRecv := none })) ∧
    (h.role ≠ rForming ∨ h.headId ≠ 1 ∨ p ≤ h.epoch + 64 ∨ h.is MER_STS_EPVALID = false →
      OnMessage 0 (.joinAtReceive p false) s keepsRole) ∧
    (h.role = rJoining → h.is PAR_STS_DUMPREADY = true → p ≤ appliedRank h.applied → p < 2 ^ 63 →
      OnMessage 0 (.joinAtReceive p true) s (fun t => t.role = rPaired ∧ t.rd SD_PAIR_EP_EPOCH = p)) ∧
    (h.role = rJoining → appliedRank h.applied < p ∨ h.is PAR_STS_DUMPREADY = false → p < 2 ^ 63 → OnMessage 0 (.joinAtReceive p true) s (fun t =>
      t.role = rJoining ∧ t.rd SD_PAIR_EP_EPOCH = p ∧ t.pair = { h.pair with joinAt := some p } ∧ SameMemory h t)) ∧
    (h.role ≠ rJoining → OnMessage 0 (.joinAtReceive p true) s keepsRole) ∧
    (h.role = rForming → h.pair.formEpoch = some p → h.pair.formCkpt = true →
      OnMessage 0 (.formedReceive p) s (fun t => t.role = rPaired ∧ t.pair.formEpoch = none)) ∧
    (h.pair.formEpoch ≠ some p ∨ h.pair.formCkpt = false ∨ h.role ≠ rForming → OnMessage 0 (.formedReceive p) s (fun t =>
      t.role = h.role ∧ t.pair = { h.pair with formedRecv := some p } ∧ SameMemory h t)) ∧
    OnMessage 0 (.clockReceive p t0 origin cur next at_) s (fun t => SameMemory h t ∧ t.role = h.role ∧ t.pair = h.pair ∧
      t.sd.clock = some { e0 := p, t0 := t0, origin := origin, cur := cur, next := next, at_ := at_ })

/-- PAIR_HEARTBEAT_MISS past the deadline: the miss is counted, and the third takes the link of a PAIRED head down, which
bids, and fences a joiner. JOIN_OFFER makes a head JOINING; JOIN_COPY of the keeper's next epoch applies it; JOIN_READY
with a matching digest names J and one that does not match abandons the join, as does JOIN_BACKPRESSURE_TIMEOUT after
65,536 epochs of back-pressure. LEAVE makes a PAIRED head the keeper; LEAVE_SEND of a leaving head with its epochs
committed, nothing admitted and its stripes durable makes it LEFT, and with stripes not durable closes them. CLAIM in
FENCED after a failed link bids on every module reached, and a bid that its own modules decide makes the head keeper, or
fenced, LEAVE written in PAIRED names L and sets FE_STS.LEAVE; otherwise CFGERR. SD_SYNC takes an epoch committed and not
below its value, SD_SYNCGRP any mask. -/
def Obligations.TwinLostRejoinedAndLeft : Prop :=
  ∀ (s : State) (x : Access) (v : Word) (i : Fin 4) (cut root last e off : Nat) (d : Dig) (span : List Byte)
    (data : List (Nat × List Byte)) (sp : Span) (rs : List Rec64) (refs : List RingRef),
    let h := s.head
    let live : Prop := h.plt.inReset = false
    let stays (c : Instr) : Prop := Completes c s (fun t => t = h)
    let keepsRole (t : Head) : Prop := t.role = h.role ∧ t.pair = h.pair ∧ SameMemory h t
    let diff : Int := if 32768 ≤ h.rd MER_TWIN_DIFF then (h.rd MER_TWIN_DIFF : Int) - 65536 else h.rd MER_TWIN_DIFF
    let sent : Int := (h.mer.tick : Int) - (h.rd SD_RTT_TICKS + 1) / 2 - h.rd SD_PAIR_CTL_HBSLACK + diff
    let due : Prop := 0 ≤ sent ∧ heartbeatTick (1 - h.headId) sent.toNat = true ∧ ∀ n, h.sd.newest = some n → (n.tick : Int) < sent
    let watched : Prop := h.role = rPaired ∨ h.role = rJoining ∨ (h.role = rKeeper ∧ (h.pair.joinCut.isSome = true ∨ h.pair.joinAt.isSome = true)) ∨
      (h.is SD_STS_LINKUP = true ∧ h.pair.deaf = false)
    let missed := h.rd SD_PAIR_STS_MISSED
    let joiner : Prop := h.role = rAlone ∨ h.role = rForming ∨ (h.role = rFenced ∧ h.pair.fence = none)
    let agreed : Prop := (e = h.applied ∧ d = h.cmt.digest) ∨ (∃ l, Tbl.find h.cmt.applyLog e = some l ∧ l.after = d) ∨
      (∃ l, Tbl.find h.cmt.applyLog (e + 1) = some l ∧ l.before = d)
    let offered : Prop := h.role = rKeeper ∧ h.pair.joinCut.isSome = true ∧ h.pair.joinAt = none
    let cutOff (cause : Nat) (t : Head) : Prop := t.rd SD_PAIR_ERR_JOINFAIL = 1 ∧ t.pair.joinCut = none ∧
      t.pair.twinFailed = true ∧ t.role = h.role ∧ Recorded h t 0x0919 2 cause h.epoch 0 0
    let copied := (data.filter (fun q => decide (q.1 + q.2.length ≤ h.dataRingSize))).foldl
      (fun (h : Head) q => h.put (h.ringAddr q.1) q.2) (h.putRing off span)
    let after := copied.replayEpoch (h.applied + 1) sp rs refs
    let ctl : Prop := Accepted h x SD_PAIR_CTL_CLAIM.addr ∧ (h.accessLevel x SD_PAIR_CTL_CLAIM.addr).reaches .s = true ∧
      inRange SD_PAIR_CTL_HBSLACK (bitsAt v.toNat 0 9) = true
    let ps := (List.range h.mods).filter h.reaches
    let own (p : Nat) : Bool := (h.port p).leaseKnown && (h.port p).holder = h.ownSole
    let won := ps.filter own
    let rest := ps.filter (fun p => ! won.contains p)
    let bid : Bid := { open_ := rest, won := won, twins := [], unknown := (List.range h.mods).filter (fun p => ! h.reaches p),
                       retried := [], reached := ((List.range h.mods).filter h.reaches).length, since := h.mer.tick, decided := false }
    let sync := bitsAt v.toNat 0 63
    (live →
      (¬ due ∨ ¬ watched → stays .pairHeartbeatMiss) ∧
      (due → watched → missed ≠ 2 → Completes .pairHeartbeatMiss s (fun t => t.rd SD_PAIR_STS_MISSED = min 63 (missed + 1) ∧
        OnlyFields h t [SD_PAIR_STS_MISSED])) ∧
      (due → missed = 2 →
        (h.role = rPaired → Completes .pairHeartbeatMiss s (fun t => t.is SD_STS_LINKUP = false ∧ t.role ≠ rPaired)) ∧
        (h.role = rJoining → Completes .pairHeartbeatMiss s (fun t => t.role = rFenced ∧ t.rd SD_PAIR_ERR_JOINFAIL = 1)) ∧
        (h.role = rKeeper → h.pair.joinCut.isSome = true → Completes .pairHeartbeatMiss s (fun t => t.role = rKeeper ∧
          t.rd SD_PAIR_ERR_JOINFAIL = 1 ∧ t.pair.joinCut = none))) ∧
      (h.role = rJoining → h.applied ≠ noEpoch → off < h.intentRing → span.length ≤ h.intentRing →
        (∀ j, h.pair.joinAt = some j → h.applied + 1 < j) → copied.replayAt (h.applied + 1) off = .span sp rs refs →
        after.applied = h.applied + 1 → Completes (.joinCopy off span data) s (fun t => t.applied = h.applied + 1 ∧
          t.pair.copied = after.pair.copied + 1)) ∧
      (h.role = rJoining → h.applied ≠ noEpoch → off < h.intentRing → span.length ≤ h.intentRing →
        (∀ j, h.pair.joinAt = some j → h.applied + 1 < j) → (∀ sp rs refs, copied.replayAt (h.applied + 1) off ≠ .span sp rs refs) →
        Completes (.joinCopy off span data) s (fun t => t = copied)) ∧
      (h.role ≠ rJoining ∨ h.applied = noEpoch ∨ h.intentRing ≤ off ∨ h.intentRing < span.length → stays (.joinCopy off span data)) ∧
      (h.role = rKeeper → h.pair.joinCut.isSome = true → 65536 ≤ h.pair.joinWait →
        Completes .joinBackpressureTimeout s (cutOff 0)) ∧
      (h.role ≠ rKeeper ∨ h.pair.joinCut = none ∨ h.pair.joinWait < 65536 → stays .joinBackpressureTimeout) ∧
      (h.pair.leaveEpoch = some e → h.role = rPaired → h.last ≠ noEpoch → e ≤ h.last + 1 → h.rd FE_ADMIT_CUR = 0 →
        h.fb.stripes = [] → e < 2 ^ 63 → Completes .leaveSend s (fun t => t.role = rLeft ∧ t.rd SD_PAIR_EP_EPOCH = e)) ∧
      (h.pair.leaveEpoch = some e → h.role = rPaired → h.last ≠ noEpoch → e ≤ h.last + 1 → h.rd FE_ADMIT_CUR = 0 →
        h.fb.stripes ≠ [] → Completes .leaveSend s (fun t =>
          t = (h.fb.stripes.filter (fun q => q.2.phase = .open_)).foldl (fun (n : Head) q => n.closeStripe q.1) h)) ∧
      (h.pair.leaveEpoch = none ∨ h.role ≠ rPaired ∨ h.last = noEpoch → stays .leaveSend) ∧
      (h.pair.leaveEpoch = some e → h.last + 1 < e ∨ h.rd FE_ADMIT_CUR ≠ 0 → stays .leaveSend)) ∧
    (joiner → OnMessage 0 (.joinOfferReceive cut root last) s (fun t => t.role = rJoining ∧ t.pair.joinCut = some cut ∧
      t.pair.joinAt = none ∧ t.pair.twinFailed = false)) ∧
    (¬ joiner → OnMessage 0 (.joinOfferReceive cut root last) s keepsRole) ∧
    (offered → agreed → OnMessage 0 (.joinReadyReceive e d) s (fun t => SameMemory h t ∧
      t.pair = { h.pair with joinAt := some (h.epoch + 4), joinCut := none, joinWait := 0, twinFailed := false })) ∧
    (offered → ¬ agreed → OnMessage 0 (.joinReadyReceive e d) s (cutOff 1)) ∧
    (¬ offered → OnMessage 0 (.joinReadyReceive e d) s keepsRole) ∧
    (h.role = rPaired → OnMessage 0 (.leaveReceive e) s (fun t => t.role = rKeeper ∧ t.is SD_STS_LINKUP = false ∧
      t.pair.deaf = true ∧ t.pair.twinFailed = true ∧ t.pair.keeperOf = [])) ∧
    (h.role ≠ rPaired → OnMessage 0 (.leaveReceive e) s keepsRole) ∧
    (ctl → bitAt v.toNat 10 = false → bitAt v.toNat 11 = true →
      (h.role = rFenced → h.is SD_STS_LINKFAIL = true → h.pair.fence = none → h.wins won.length = false →
        h.wins (won.length + rest.length) = true → WriteDone (.sdPairClaimWrite x v) s (fun t => t.role = rBidding ∧
          t.rd SD_PAIR_STS_WON = won.length ∧ t.pair.bid = some bid)) ∧
      (h.role = rFenced → h.is SD_STS_LINKFAIL = true → h.pair.fence = none → h.wins won.length = true →
        WriteDone (.sdPairClaimWrite x v) s (fun t => t.role = rKeeper ∧ t.rd SD_PAIR_STS_WON = won.length)) ∧
      (h.role = rFenced → h.is SD_STS_LINKFAIL = true → h.pair.fence = none → h.wins won.length = false →
        h.wins (won.length + rest.length) = false → WriteDone (.sdPairClaimWrite x v) s (fun t => t.role = rFenced ∧
          t.rd SD_PAIR_ERR_BIDLOST = 1)) ∧
      (h.role ≠ rFenced ∨ h.is SD_STS_LINKFAIL = false ∨ h.pair.fence ≠ none → WriteDone (.sdPairClaimWrite x v) s (fun t =>
        t.rd SD_PAIR_ERR_CFGERR = 1 ∧ t.rd SD_PAIR_CTL_HBSLACK = bitsAt v.toNat 0 9 ∧
        OnlyFields h t [SD_PAIR_ERR_CFGERR, SD_PAIR_CTL_HBSLACK, SD_PAIR_CTL_PROMOTE]))) ∧
    (ctl → bitAt v.toNat 10 = true → bitAt v.toNat 11 = false →
      (h.role = rPaired → h.pair.leaveEpoch = none → WriteDone (.sdPairLeaveWrite x v) s (fun t =>
        t.pair = { h.pair with leaveEpoch := some (h.epoch + 2) } ∧ t.rd FE_STS_LEAVE = 1 ∧ t.role = rPaired ∧ SameMemory h t)) ∧
      (h.role ≠ rPaired ∨ h.pair.leaveEpoch ≠ none → WriteDone (.sdPairLeaveWrite x v) s (fun t =>
        t.rd SD_PAIR_ERR_CFGERR = 1 ∧ OnlyFields h t [SD_PAIR_ERR_CFGERR, SD_PAIR_CTL_HBSLACK, SD_PAIR_CTL_PROMOTE]))) ∧
    (Accepted h x SD_SYNC_EPOCH.addr →
      (h.rd SD_SYNC_EPOCH ≤ sync → h.last ≠ noEpoch → sync ≤ h.last → WriteDone (.sdSyncWrite x v) s (fun t =>
        t.rd SD_SYNC_EPOCH = sync)) ∧
      (sync < h.rd SD_SYNC_EPOCH ∨ h.last = noEpoch ∨ h.last < sync → WriteDone (.sdSyncWrite x v) s (fun t =>
        t.rd SD_PAIR_ERR_CFGERR = 1 ∧ OnlyFields h t [SD_PAIR_ERR_CFGERR]))) ∧
    (Accepted h x (SD_SYNCGRP_MASK.nth i).addr → WriteDone (.sdSyncgrpWrite x i v) s (fun t =>
      t.rd (SD_SYNCGRP_MASK.nth i) = v.toNat))

/-- STRIPE_CLOSE_TIMEOUT of a stripe open for CLOSEMAX epochs: it is closed and its band's WPTR stands behind it; no other
byte of memory changed. STRIPE_PROGRAM of a closed stripe with m or more positions missing: it is held, its band no longer
OPEN nor among the open ones, PAR_STS.HELD is 1 and the event recorded; with fewer missing it is being programmed on every
other position, unless the budget of its class (R252) lets no port be used, which changes nothing. STRIPE_DONE: no
data-ring reference to the stripe is left, and the band's last epoch rises to the one stated. BAND_NOTE without a remap
gives a band that is not FREE its entry, except its live count and last epoch, and a FREE one its entry without them and
no lost stripe, its owner being this head's to give on; with a remap the table maps the slot as told; BAND_GIVE makes this
head the owner; FLOOR is the twin's read floor, and FB_FLOOR the lower of the two. Where none of this is due nothing
changes. -/
def Obligations.StripesCloseProgramAndEnd : Prop :=
  ∀ (s : State) (k : BitVec 32) (n last pblk epoch e band pos : Nat) (entry : Word) (bs : List Nat),
    let h := s.head
    let b := stripeBand k.toNat
    let x := h.band b
    let w := stripeIndex k.toNat + 1
    let miss := h.missing k.toNat
    let m := (h.geomOf b).2
    let stays (c : Instr) : Prop := Completes c s (fun t => t = h)
    let noted := Band.ofNat entry.toNat
    (h.plt.inReset = false →
      (h.stripe k.toNat = none → stays (.stripeCloseTimeout k) ∧ stays (.stripeProgram k)) ∧
      (∀ st, h.stripe k.toNat = some st →
        (st.phase = .open_ → st.opened + h.rd FB_CTL_CLOSEMAX ≤ h.epoch → Completes (.stripeCloseTimeout k) s (fun t =>
          t.stripe k.toNat = some { st with phase := .closed } ∧ SameMemoryBut h t (h.bandAddr b) 32 ∧
          t.band b = { x with wptr := w, state := if x.state = bOpen ∧ h.stripesOf x.oneBit ≤ w then bClosed else x.state } ∧
          (h.stripesOf x.oneBit ≤ w → ∀ o ∈ t.fb.opens, o.2 ≠ b))) ∧
        (st.phase ≠ .open_ ∨ h.epoch < st.opened + h.rd FB_CTL_CLOSEMAX → stays (.stripeCloseTimeout k)) ∧
        (st.phase = .open_ ∨ st.phase = .programming → stays (.stripeProgram k)) ∧
        (st.phase = .held → m ≤ miss.length → stays (.stripeProgram k)) ∧
        (st.phase = .closed → m ≤ miss.length → Completes (.stripeProgram k) s (fun t =>
          t.stripe k.toNat = some { st with phase := .held } ∧ t.rd PAR_STS_HELD = 1 ∧
          Recorded h t 0x0708 2 k.toNat miss.length h.epoch 0 ∧
          t.band b = { x with state := if x.state = bOpen then bClosed else x.state } ∧
          (∀ o ∈ t.fb.opens, o.2 ≠ b) ∧ SameMemoryBut h t (h.bandAddr b) 32)) ∧
        (st.phase = .closed ∨ st.phase = .held → miss.length < m → h.mayProgram k.toNat st miss = false → stays (.stripeProgram k)) ∧
        (st.phase = .closed ∨ st.phase = .held → miss.length < m → h.mayProgram k.toNat st miss = true → Completes (.stripeProgram k) s (fun t =>
          t.stripe k.toNat = some { st with phase := .programming, skip := miss,
                                            todo := (List.range ((h.geomOf b).1 + m)).filter (fun p => ! miss.contains p) } ∧
          (miss = [] → SameMemory h t))))) ∧
    (last < 2 ^ 64 → OnMessage 0 (.stripeDoneReceive n last) s (fun t =>
      (∀ r ∈ t.cmt.ring, r ∈ h.cmt.ring ∧ (r.loc = 0 ∨ locStripe r.loc ≠ n)) ∧ SameMemoryBut h t (h.bandAddr (stripeBand n)) 32 ∧
      t.band (stripeBand n) = { h.band (stripeBand n) with last := max (h.band (stripeBand n)).last last })) ∧
    (epoch < 2 ^ 64 →
      (band < h.bandCount → noted.state ≠ bFree → OnMessage 0 (.bandNoteReceive band pblk entry 0xFF epoch) s (fun t =>
        t.band band = { noted with live := (h.band band).live, last := (h.band band).last })) ∧
      (band < h.bandCount → noted.state = bFree → OnMessage 0 (.bandNoteReceive band pblk entry 0xFF epoch) s (fun t =>
        (∃ o, t.band band = { noted with live := 0, last := 0, owner := o }) ∧ ∀ l ∈ t.fb.lost, stripeBand l.1 ≠ band)) ∧
      (band < h.bandCount → pos < 32 → pblk < 2 ^ 32 → (∀ j < h.bandCount, h.remapAddr pos (h.rowOf band) + 4 ≤ h.bandAddr j ∨
          h.bandAddr j + 32 ≤ h.remapAddr pos (h.rowOf band)) →
        OnMessage 0 (.bandNoteReceive band pblk entry pos epoch) s (fun t =>
          t.load (h.remapAddr pos (h.rowOf band)) 4 = pblk)) ∧
      (h.bandCount ≤ band → OnMessage 0 (.bandNoteReceive band pblk entry 0xFF epoch) s (fun t =>
        SameMemory h t ∧ SameRegisters h t))) ∧
    OnMessage 0 (.bandGiveReceive bs) s (fun t => ∀ j < h.bandCount,
      t.band j = { h.band j with owner := if j ∈ bs then h.headId else (h.band j).owner }) ∧
    (e < 2 ^ 63 → OnMessage 0 (.floorReceive e) s (fun t => t.fb.twinFloor = some e ∧ SameMemory h t ∧
      SameRegistersBut h t ([FB_FLOOR_EPOCH, CX_FREE_COUNT, CX_LIVE_COUNT, CX_INFL_COUNT, CX_INFLPEAK_PEAK, CX_ERR_IDLOW] ++ noteFields) ∧
      (h.ownFloor < 2 ^ 63 →
        t.rd FB_FLOOR_EPOCH = if h.pair.twinFailed then h.ownFloor else min h.ownFloor e)))

/-- VICTIM_SELECT, after foreground collection is entered or left: where the kind's class has a budget (a reshape runs), the
victim of the kind is VICTIM, FB_GC.VICTIMS one more, and a job posted for each of its stripes; otherwise nothing else
changes, but that a reshape closes its bands. BAND_ERASE of a band that may be erased, with no entry in its hole record
and every module up: it is ERASING with WPTR 0 and an erase of every position is owed. PATROL_PASS_START with no pass
running opens one, its period in epochs; PATROL_BEHIND records a pass that outlives it once. CHECKPOINT_BEGIN with the cut
due opens the checkpoint of that cut; CHECKPOINT_COMPLETE goes on with one without a root, and with the root durable makes
it the newest and FB_CKPT its last epoch; CKPT_LATE 4,096 epochs after the cut sets CKLATE and is recorded, begun or not.
RESTORE of a head that is not ALONE, has restored or whose DRAM is not filled changes nothing; where the twin holds the
sole lease only the dump rows are erased; one that finds nothing stored takes CMT_ASV.MAX; one whose newer dump has no
valid copy stops; else the state of the root and the dump is taken. Where none is due nothing changes. -/
def Obligations.BandsAreCollectedErasedPatrolledAndCheckpointed : Prop :=
  ∀ (s : State) (kind : VictimKind) (k : BitVec 32) (key : KeyRec) (c : CkptSt) (loc cut : Nat) (r : Segment)
    (gs : List Segment) (pass : Patrol),
    let h := s.head
    let stays (c : Instr) : Prop := Completes c s (fun t => t = h)
    let may : Prop := match kind with
      | .collect => h.fgCheck.mayCollect = true
      | .fold => h.fgCheck.budgetOf bFold ≠ 0
      | .reshape => h.fgCheck.is PAR_STS_RESHAPING = true ∧ h.fgCheck.budgetOf bReshape ≠ 0
    let g := match kind with
      | .reshape => h.fgCheck.closeReshape
      | _ => h.fgCheck
    let victim := match kind with
      | .collect => g.collectVictim
      | .fold => g.foldVictim
      | .reshape => g.reshapeVictim
    let cls := match kind with
      | .collect => 0
      | .fold => 1
      | .reshape => 6
    let b := k.toNat
    let adv := h.ckptAdvance
    let restored := (h.takeRoot loc r gs true).applyRetired
    h.plt.inReset = false →
      (¬ may → Completes (.victimSelect kind) s (fun t => t = h.fgCheck)) ∧
      (∀ v, may → victim = some v → Completes (.victimSelect kind) s (fun t =>
        t.band v = { g.band v with state := bVictim } ∧ SameMemoryBut g t (g.bandAddr v) 32 ∧
        t.rd FB_GC_VICTIMS = min (g.rd FB_GC_VICTIMS + 1) (2 ^ 32 - 1) ∧
        (t.queue (0xFF00 + cls)).posted = (g.queue (0xFF00 + cls)).posted + (g.band v).wptr)) ∧
      (may → victim = none → Completes (.victimSelect kind) s (fun t => t = g)) ∧
      (h.mayErase b = true → h.holes b = [] → h.width ≠ 0 →
        (h.holeAddr b + 16 ≤ h.bandAddr b ∨ h.bandAddr b + 32 ≤ h.holeAddr b) →
        (∀ p < h.width, h.reaches (h.homePos b p) = true ∧ modUp (h.modState (h.homePos b p)) = true ∧ (b, p) ∉ h.fb.badSlots) →
        Completes (.bandErase k) s (fun t => t.band b = { h.band b with state := bErasing, wptr := 0 } ∧
          Tbl.find t.fb.erases b = some { todo := List.range h.width } ∧ SameMemoryBut h t (h.bandAddr b) 32)) ∧
      (h.mayErase b = false → stays (.bandErase k)) ∧
      (h.passRuns = false → h.bandCount ≠ 0 → Completes .patrolPassStart s (fun t => SameMemory h t ∧ SameRegisters h t ∧
        ∃ p, t.fb.patrol = some p ∧ p.epoch = h.epoch ∧ p.behind = false ∧
          p.ends = h.epoch + ceilDiv (h.rd FB_PATROL_DAYS * 86400 * 25000000) h.cur)) ∧
      (h.passRuns = true ∨ h.bandCount = 0 → stays .patrolPassStart) ∧
      (h.fb.patrol = some pass → h.passRuns = true →
        (pass.behind = false → pass.ends ≤ h.epoch → Completes .patrolBehind s (fun t =>
          t.fb.patrol = some { pass with behind := true } ∧ Beside h t [] { h with fb := t.fb })) ∧
        (pass.behind = true ∨ h.epoch < pass.ends → stays .patrolBehind)) ∧
      (h.fb.patrol = none ∨ h.passRuns = false → stays .patrolBehind) ∧
      (h.ckptDue = some cut → h.roleKey 4 = some key →
        Completes .checkpointBegin s (fun t => t.fb.touched = [] ∧ t.fb.sweep = h.sweepShare.2 ∧
          ∃ d, t.fb.ckpt = some d ∧ d.cut = cut ∧ d.late = h.is FB_STS_CKLATE ∧ d.plain = h.rootPlain)) ∧
      (h.ckptDue = none ∨ h.roleKey 4 = none → stays .checkpointBegin) ∧
      (h.fb.ckpt = none → stays .checkpointComplete ∧
        (h.ckptDue = none → stays .ckptLate) ∧
        (h.ckptDue = some cut → h.is FB_STS_CKLATE = true ∨ h.epoch < cut + 4096 → stays .ckptLate) ∧
        (h.ckptDue = some cut → h.is FB_STS_CKLATE = false → cut + 4096 ≤ h.epoch → Completes .ckptLate s (fun t =>
          t.rd FB_STS_CKLATE = 1 ∧ t.rd FB_ERR_CKPTLATE = 1 ∧ Recorded h t 0x060A 2 cut h.applied 0 0 ∧
          Beside h t [FB_STS_CKLATE, FB_ERR_CKPTLATE] h))) ∧
      (h.fb.ckpt = some c →
        (c.root = none → (∀ d, adv.fb.ckpt = some d → ∀ l, d.root = some l → adv.stripesDurable [locStripe l] = false) →
          adv.fb.ckpt.isSome = true → Completes .checkpointComplete s (fun t => t = adv)) ∧
        (c.root = some loc → h.stripesDurable [locStripe loc] = false → stays .checkpointComplete) ∧
        (c.root = some loc → h.stripesDurable [locStripe loc] = true → c.cut - 1 < 2 ^ 63 →
          Completes .checkpointComplete s (fun t => t.fb.ckpt = none ∧ t.rd FB_CKPT_EPOCH = c.cut - 1 ∧ t.rd FB_STS_CKLATE = 0 ∧
            ∃ q, t.fb.root = some q ∧ q.cut = c.cut ∧ q.loc = loc)) ∧
        (c.late = false → c.cut + 4096 ≤ h.epoch → Completes .ckptLate s (fun t => t.rd FB_STS_CKLATE = 1 ∧
          ∃ d, t.fb.ckpt = some d ∧ d.cut = c.cut ∧ d.late = true)) ∧
        (c.late = false → c.cut + 4096 ≤ h.epoch → c.root = some loc → Completes .ckptLate s (fun t => t.rd FB_STS_CKLATE = 1 ∧
          t.rd FB_ERR_CKPTLATE = 1 ∧ t.fb.ckpt = some { c with late := true } ∧ Recorded h t 0x060A 2 c.cut h.applied 0 0 ∧
          Beside h t [FB_STS_CKLATE, FB_ERR_CKPTLATE] { h with fb := t.fb })) ∧
        (c.late = true ∨ h.epoch < c.cut + 4096 → stays .ckptLate)) ∧
      (h.role ≠ rAlone ∨ h.last ≠ noEpoch ∨ h.fb.lostDump.isSome = true ∨ h.is MEM_STS_FILLDONE = false → stays .restore) ∧
      (h.role = rAlone → h.last = noEpoch → h.fb.lostDump = none → h.is MEM_STS_FILLDONE = true →
        (h.twinHoldsSole = true → Completes .restore s (fun t => t = h.eraseDumpRows)) ∧
        (h.twinHoldsSole = false →
          (h.roleKey 4 = none → h.bandStrips = [] → h.journalEmpty = true → Completes .restore s (fun t =>
            t.rd CMT_ASV_CUR = h.rd CMT_ASV_MAX ∧ OnlyFields h t [CMT_ASV_CUR])) ∧
          (h.roleKey 4 = none → h.bandStrips ≠ [] ∨ h.journalEmpty = false → stays .restore) ∧
          (h.roleKey 4 = some key → h.newestRoot h.bandStrips key = none →
            (∀ u, h.loadDump = (false, u) → Completes .restore s (fun t => t = u ∧ t.rd PAR_ERR_DUMPLOST = 1 ∧
              t.cmt.stopped = true ∧ t.fb.lostDump.isSome = true)) ∧
            (∀ u, h.loadDump = (true, u) → Completes .restore s (fun t =>
              (h.segmentPlaces h.bandStrips = [] → u.journalEmpty = true → t.rd CMT_ASV_CUR = u.rd CMT_ASV_MAX ∧
                OnlyFields u t [CMT_ASV_CUR]) ∧
              (h.segmentPlaces h.bandStrips ≠ [] ∨ u.journalEmpty = false → t = u)))) ∧
          (h.roleKey 4 = some key → h.newestRoot h.bandStrips key = some (loc, r, gs) →
            (∀ u, restored.loadDump = (false, u) → Completes .restore s (fun t => t = u ∧ t.rd PAR_ERR_DUMPLOST = 1 ∧
              t.cmt.stopped = true ∧ t.fb.lostDump.isSome = true)) ∧
            (∀ u, restored.loadDump = (true, u) → Completes .restore s (fun t => t = u.restoreRest r.cut)))))

/-- MODULE_ABSENT_TIMEOUT of a position whose ABSENTS, in epochs, has elapsed, and PAR_MODj.FAIL of one in use and not FAILED:
it is FAILED; otherwise nothing changes. PAR_MODj.ACCEPT of a FAILED position that both heads reach takes the identity and
makes it REPLACING, or ONLINE where nothing is owed; else CFGERR. MOD_NOTE moves an up module to ABSENT, a RESYNC or
REPLACING one to ONLINE, one in use to FAILED, a FAILED one to REPLACING, an ABSENT one in time to RESYNC (or on to
ONLINE), where R262 gives it precedence, and no position beyond the pool. HOLE_NOTE is the band's hole record; LOST_NOTE
enters a stripe not yet listed, or sets LOSTFULL. REBUILD_STRIPE, for the band rebuild takes and as far as its budget
goes, does an owed erase first, then counts the strip rebuilt or, where it cannot be reconstructed, lost; a fenced read or
a spent budget leaves it. RESHAPE_STEP_ISSUE at the driver with bands cleared issues one background intent with the new
boundary; otherwise nothing changes. -/
def Obligations.ModulesFailReturnAndAreRebuilt : Prop :=
  ∀ (s : State) (x : Access) (v : Word) (j p : Fin 32) (band bad mask : BitVec 32) (pos stripe posn epoch hb : Nat) (pool : Word)
    (serial entry : BitVec 128) (e : Hole) (q : RebuildSt),
    let h := s.head
    let live : Prop := h.plt.inReset = false
    let stays (c : Instr) : Prop := Completes c s (fun t => t = h)
    let st := h.modState j.val
    let elapsed : Prop := (Tbl.find h.fb.absentUntil j.val).getD 0 ≤ h.epoch
    let a := (PAR_MOD_FAIL.nth j).addr
    let reached : Prop := Accepted h x a ∧ (h.accessLevel x a).reaches .s = true
    let told := (Tbl.find h.fb.modAt pos).getD 0
    let counts (n : Nat) : Prop := ¬ (told / 8 = epoch ∧ modRank n < modRank (told % 8) ∧ told % 8 = h.modState pos)
    let note (n : Nat) : Instr := .modNoteReceive pos n posn pool serial epoch
    let b := band.toNat
    let entry_ := (h.rebuildEntries b).find? (fun x => x.pos = p.val)
    let due : Prop := h.rebuildFirst = some b ∧ h.rebuildBusy b p.val = false
    let found := h.rebuildRange bad.toNat (b * 128 + e.lo) p.val 0 stripBytes
    let paid : Prop := ∀ q ∈ h.rebuildPorts bad.toNat (b * 128 + e.lo) p.val e.tgt, h.mayUsePort bRebuild q.1 = true
    let home := h.homePos b p.val
    let bound := h.rd PAR_BOUND_BAND
    let clear := ((List.range (min 64 (h.bandCount - bound))).takeWhile (fun i =>
      (h.band (bound + i)).state = bFree || (h.band (bound + i)).state = bRetired)).length
    let step : Rec64 := BitVec.ofNat 512 (recOf [(0, 1, 0x0A), (24, 1, 2), (28, 4, bound + clear)])
    (live →
      (st = mAbsent → elapsed →
        Completes (.moduleAbsentTimeout j) s (fun t => t.modState j.val = mFailed)) ∧
      (st ≠ mAbsent ∨ ¬ elapsed → stays (.moduleAbsentTimeout j)) ∧
      (entry_ = none ∨ ¬ due → stays (.rebuildStripe band p bad)) ∧
      (entry_ = some e → due →
        (e.eowed = true → h.mayUsePort bRebuild e.tgt = false → stays (.rebuildStripe band p bad)) ∧
        (e.eowed = true → h.mayUsePort bRebuild e.tgt = true → h.holeAt b p.val = some e → Completes (.rebuildStripe band p bad) s (fun t =>
          t.holeAt b p.val = some { e with eowed := false } ∧ SameMemoryBut h t (h.holeAddr b) 16)) ∧
        (e.eowed = false → ¬ paid ∨ found = .fenced → stays (.rebuildStripe band p bad)) ∧
        (e.eowed = false → paid → found ≠ .fenced → Tbl.find h.fb.rebuilds home = some q →
          Completes (.rebuildStripe band p bad) s (fun t => match found with
            | .ok _ => Tbl.find t.fb.rebuilds home = some { q with rebuilt := q.rebuilt + 1 }
            | _ => Tbl.find t.fb.rebuilds home = some { q with lost := q.lost + 1 } ∧
              ((∀ l ∈ h.fb.lost, l.1 ≠ b * 128 + e.lo) → t.rd PAR_ERR_STRIPELOST = 1)))) ∧
      ((h.headId = 0 ∨ h.pair.twinFailed = true) → h.is PAR_STS_RESHAPING = true → clear ≠ 0 → h.is MER_STS_EPVALID = true →
        h.issued false < 65536 → Completes .reshapeStepIssue s (fun t => SameMemory h t ∧
          (t.epochSt h.epoch).own = (h.epochSt h.epoch).own ++
            [fillIntent step h.headId h.epoch cseqBackground (h.issued false) false false true])) ∧
      (¬ (h.headId = 0 ∨ h.pair.twinFailed = true) ∨ h.is PAR_STS_RESHAPING = false ∨ clear = 0 → stays .reshapeStepIssue)) ∧
    (reached → bitAt v.toNat 8 = true → bitAt v.toNat 9 = false →
      (st ≠ mNone → st ≠ mFailed → WriteDone (.parModFailWrite x j v) s (fun t => t.modState j.val = mFailed)) ∧
      (st = mNone ∨ st = mFailed → WriteDone (.parModFailWrite x j v) s (fun t => t = h))) ∧
    (reached → bitAt v.toNat 8 = false → bitAt v.toNat 9 = true →
      (st = mFailed → h.reaches j.val = true → h.twinReaches j.val = true → WriteDone (.parModAcceptWrite x j v) s (fun t =>
        (t.modState j.val = mReplacing ∨ t.modState j.val = mOnline) ∧ Tbl.find t.fb.modIds j.val = some (h.port j.val).serial)) ∧
      (st ≠ mFailed ∨ h.reaches j.val = false ∨ h.twinReaches j.val = false → WriteDone (.parModAcceptWrite x j v) s (fun t =>
        t.rd PAR_ERR_CFGERR = 1 ∧ OnlyFields h t [PAR_ERR_CFGERR]))) ∧
    (pos < 32 → posn < 256 →
      (pos < h.mods → counts mAbsent → modUp (h.modState pos) = true → OnMessage 0 (note mAbsent) s (fun t =>
        t.modState pos = mAbsent ∧ pos ∈ t.fb.unreach ∧ SameMemory h t)) ∧
      (pos < h.mods → counts mOnline → (h.modState pos = mResync ∨ h.modState pos = mReplacing) →
        OnMessage 0 (note mOnline) s (fun t => t.modState pos = mOnline ∧ pos ∉ t.fb.unreach ∧ SameMemory h t)) ∧
      (pos < h.mods → counts mFailed → h.modState pos ≠ mNone → h.modState pos ≠ mFailed →
        OnMessage 0 (note mFailed) s (fun t => t.modState pos = mFailed)) ∧
      (pos < h.mods → counts mReplacing → h.modState pos = mFailed → OnMessage 0 (note mReplacing) s (fun t =>
        t.modState pos = mReplacing ∧ pos ∉ t.fb.unreach ∧ SameMemory h t)) ∧
      (pos < h.mods → counts mResync → h.modState pos = mAbsent → h.reaches pos = true →
        (Tbl.find h.fb.absentUntil pos).getD 0 ≤ h.epoch → OnMessage 0 (note mResync) s (fun t =>
          t.modState pos = mAbsent ∧ pos ∉ t.fb.unreach ∧ SameMemory h t)) ∧
      (pos < h.mods → counts mResync → h.modState pos = mAbsent → h.reaches pos = true →
        h.epoch < (Tbl.find h.fb.absentUntil pos).getD 0 → OnMessage 0 (note mResync) s (fun t =>
          (t.modState pos = mResync ∨ t.modState pos = mOnline) ∧ pos ∉ t.fb.unreach ∧ SameMemory h t)) ∧
      (h.mods ≤ pos → OnMessage 0 (note mAbsent) s (fun t => SameRegisters h t ∧ SameMemory h t))) ∧
    (epoch < 2 ^ 64 →
      (hb < h.bandCount → OnMessage 0 (.holeNoteReceive hb entry epoch) s (fun t => t.holes hb = holesOf entry.toNat ∧
        SameMemoryBut h t (h.holeAddr hb) 16)) ∧
      (h.bandCount ≤ hb → OnMessage 0 (.holeNoteReceive hb entry epoch) s (fun t => SameRegisters h t ∧ SameMemory h t))) ∧
    ((∀ l ∈ h.fb.lost, l.1 ≠ stripe) →
      (h.fb.lost.length < 65536 → OnMessage 0 (.lostNoteReceive stripe mask epoch) s (fun t =>
        Tbl.find t.fb.lost stripe = some (mask.toNat, epoch) ∧ t.retiredLog = h.retiredLog ++ [.lost stripe mask.toNat epoch])) ∧
      (65536 ≤ h.fb.lost.length → OnMessage 0 (.lostNoteReceive stripe mask epoch) s (fun t => t.rd PAR_ERR_LOSTFULL = 1 ∧
        t.fb.lost = h.fb.lost))) ∧
    ((∃ l ∈ h.fb.lost, l.1 = stripe) → OnMessage 0 (.lostNoteReceive stripe mask epoch) s (fun t => t.fb.lost = h.fb.lost ∧
      SameRegisters h t ∧ SameMemory h t))

/-- POWER_FAIL, not stopped yet: the head is stopped, NOTREADY shows, the merge buffer is empty, and a dump of the next
sequence with the epoch and tick stands; with nothing committed since the last dump it has ended and PF_DONE rises; a head
already stopped is unchanged. DUMP_COPY_COMPLETE of a copy whose trailer is durable: it is done, PAR_DUMP.SEQ is the
dump's sequence and DUMP_DONE is recorded with the copies written; otherwise nothing changes. DUMP_TIME_LIMIT ends a dump
that has not ended and raises PF_DONE, and the reset that waited for it follows. PAR_DUMP.FORCE at level V on a head that
waits for it leaves the lost dump; otherwise it changes nothing. -/
def Obligations.DumpsBeginAndEnd : Prop :=
  ∀ (s : State) (x : Access) (v : Word) (c : Fin 3) (d : DumpSt) (y : DumpCopy) (k : Nat),
    let h := s.head
    let live : Prop := h.plt.inReset = false
    let stays (i : Instr) : Prop := Completes i s (fun t => t = h)
    let d' := { d with copies := Tbl.upd d.copies c (fun z => { z with done := true }) }
    let ended : Head := { h with fb := { h.fb with dump := some { d with finished := true } }, out := .pin (.pfDone true) :: h.out }
    (live →
      (h.plt.stopped = true → stays .powerFail) ∧
      (h.plt.stopped = false → Completes .powerFail s (fun t => t.plt.stopped = true ∧ t.rd FE_STS_NOTREADY = 1 ∧
        t.memc.merge = [] ∧ SameMemory h t ∧
        ∃ u, t.fb.dump = some u ∧ u.epoch = h.epoch ∧ u.tick = h.mer.tick ∧ u.seq = (h.rd PAR_DUMP_SEQ + 1) % 2 ^ 32 ∧
          u.reset = none ∧ (h.fb.dirty = false → u.finished = true ∧ .pin (.pfDone true) ∈ t.out))) ∧
      (h.fb.dump = none → stays (.dumpCopyComplete c) ∧ stays .dumpTimeLimit) ∧
      (h.fb.dump = some d →
        (Tbl.find d.copies c = some y →
          (y.ended = true ∨ y.trailer = false ∨ y.left ≠ [] → stays (.dumpCopyComplete c)) ∧
          (y.ended = false → y.trailer = true → y.left = [] → d.reset = none → d.seq < 2 ^ 32 →
            Completes (.dumpCopyComplete c) s (fun t => t.rd PAR_DUMP_SEQ = d.seq ∧ SameMemory h t ∧
              Recorded h t 0x070C 1 d.seq h.last d'.written 0 ∧
              ∃ u, t.fb.dump = some u ∧ Tbl.find u.copies c = some { y with done := true }))) ∧
        (d.finished = true → stays .dumpTimeLimit) ∧
        (d.finished = false → d.reset = none → Completes .dumpTimeLimit s (fun t => t = ended)) ∧
        (d.finished = false → d.reset = some k → Completes .dumpTimeLimit s (fun t => t.plt.inReset = true ∧
          t.plt.resetKind = k ∧ t.plt.dumped = decide (d.written ≠ 0) ∧ t.fb.dump = none)))) ∧
    (Accepted h x PAR_DUMP_FORCE.addr →
      ((h.accessLevel x PAR_DUMP_FORCE.addr).reaches .v = false ∨ bitAt v.toNat 4 = false ∨ h.fb.lostDump = none →
        WriteDone (.parDumpForceWrite x v) s (fun t => t = h)) ∧
      ((h.accessLevel x PAR_DUMP_FORCE.addr).reaches .v = true → bitAt v.toNat 4 = true → h.fb.lostDump.isSome = true →
        WriteDone (.parDumpForceWrite x v) s (fun t => t.fb.lostDump = none)))

/-- ML_PERST_RELEASE of a STARTING port: the module leaves reset. PCIE_LINK_TRAINED of a port in use: a function of another
class is recorded and left disabled; one of the right class shows LINKUP, speed and width, its serial number is the
port's, and a position of the pool not yet in use whose identity is the one held comes ONLINE. LINK_TRAIN_TIMEOUT,
LINK_LOST and OP_TIMEOUT, no dump being written: the module is not reached, nothing is outstanding, an up position is
ABSENT, and OP_TIMEOUT counts. MODULE_COMPLETION with an unknown CID, or more data than its operation asked for, is a DMA
violation and drops the link; SUCCESS of a strip's program takes it off the stripe's list; the end of a software operation
lands its data and seal, and gives its queue a completion; a whole read of patrol is taken by patrol; FAILED makes the
position FAILED; FATAL drops the link. MODULE_DMA_WRITE within a software operation's range lands and changes no other
byte; with none outstanding it is a violation. In other states nothing changes. -/
def Obligations.ModuleLinksTrainCompleteAndDrop : Prop :=
  ∀ (s : State) (p : Fin 32) (tr : LinkTrained) (aer : BitVec 32) (c : ModCpl) (cid : BitVec 16) (addr : Word) (data : List Byte)
    (o : Outstanding) (k q n : Nat) (st : StripeSt),
    let h := s.head
    let y := h.port p
    let up := h.is (ML_P_STS_LINKUP.nth p)
    let state := h.rd (ML_P_STS_STATE.nth p)
    let stays (i : Instr) : Prop := Completes i s (fun t => t = h)
    let inUse : Prop := (state = uStarting ∨ state = uOn) ∧ y.perstHeld = false ∧ up = false
    let absent (t : Head) : Prop := t.rd (PAR_MOD_REACH.nth p) = 0 ∧
      t.modState p = if modUp (h.modState p) then mAbsent else h.modState p
    let dropped (t : Head) : Prop := t.is (ML_P_STS_LINKUP.nth p) = false ∧ (t.port p).outstanding = [] ∧ absent t
    let violation (t : Head) : Prop := t.rd ML_ERR_DMAVIOL = 1 ∧ dropped t
    let a := addr.toNat
    let freed := h.setPort p { y with outstanding := Tbl.del y.outstanding c.cid.toNat }
    let protocol := if c.status = 1 ∨ c.status = 9 then freed.wr ML_ERR_PROTO 1 else freed
    let withData := if o.op.dptr = 0 then freed else freed.put o.op.dptr.toNat c.data
    let landed := if o.op.mptr = 0 then withData else withData.put o.op.mptr.toNat (toBytes 64 c.sealRec.toNat)
    h.plt.inReset = false →
      (state = uStarting → y.perstHeld = true → Completes (.mlPerstRelease p) s (fun t => t.port p = { y with perstHeld := false } ∧
        t = { h with ports := t.ports, out := .pin (.perst p true) :: h.out })) ∧
      (state ≠ uStarting ∨ y.perstHeld = false → stays (.mlPerstRelease p)) ∧
      (¬ inUse → stays (.pcieLinkTrained p tr)) ∧
      (inUse → tr.speed = 6 → tr.x1 = false → tr.classCode ≠ 0x0180D9 → Completes (.pcieLinkTrained p tr) s (fun t =>
        Recorded h t 0x0805 1 p tr.classCode.toNat tr.ids.toNat 0 ∧ Beside h t [] h)) ∧
      (inUse → tr.classCode = 0x0180D9 → Completes (.pcieLinkTrained p tr) s (fun t => t.rd (ML_P_STS_LINKUP.nth p) = 1 ∧
        t.rd (ML_P_STS_SPEED.nth p) = tr.speed ∧ t.rd (ML_P_STS_X1.nth p) = tr.x1.toNat ∧ (t.port p).serial = tr.part.serial ∧
        (∃ m, t.module p = some m ∧ m.serial = tr.part.serial) ∧
        (p < h.mods → h.modState p = mNone → h.identityCause p tr = none → tr.failed = false → t.modState p = mOnline))) ∧
      (up = true ∨ y.perstHeld = true → stays (.linkTrainTimeout p)) ∧
      (up = false → y.perstHeld = false → Completes (.linkTrainTimeout p) s (fun t => absent t ∧ SameMemory h t ∧
        (modUp (h.modState p) = true → Recorded h t 0x0701 1 p h.headId 0 h.epoch))) ∧
      (up = false → stays (.linkLost p aer) ∧ stays (.moduleCompletion p c) ∧ stays (.moduleDmaWrite p addr data)) ∧
      (Tbl.find y.outstanding cid.toNat = none → stays (.opTimeout p cid)) ∧
      (h.fb.dump = none →
        (up = true → Completes (.linkLost p aer) s dropped) ∧
        (Tbl.find y.outstanding cid.toNat = some o → Completes (.opTimeout p cid) s (fun t => dropped t ∧
          t.rd ML_ERR_TIMEOUT = 1 ∧ t.rd (ML_P_CNT_TIMEOUTS.nth p) = min (h.rd (ML_P_CNT_TIMEOUTS.nth p) + 1) 65535)) ∧
        (up = true → Tbl.find y.outstanding c.cid.toNat = none → Completes (.moduleCompletion p c) s violation) ∧
        (up = true → Tbl.find y.outstanding c.cid.toNat = some o →
          (o.op.len.toNat < c.data.length → Completes (.moduleCompletion p c) s violation) ∧
          (c.data.length ≤ o.op.len.toNat →
            (c.status = 0 → o.purpose = .strip k q → o.op.opc = 3 → h.stripe k = some st → h.fb.ckpt = none →
              st.todo.filter (· ≠ q) ≠ [] → Completes (.moduleCompletion p c) s (fun t =>
                t.stripe k = some { st with todo := st.todo.filter (· ≠ q) } ∧
                t.port p = { y with outstanding := Tbl.del y.outstanding c.cid.toNat } ∧ SameMemory h t ∧
                ((∀ j < h.mods, h.modState j ≠ mResync ∧ h.modState j ≠ mReplacing) →
                  t = { h with ports := t.ports, fb := t.fb }))) ∧
            (c.status.toNat ≤ 9 → c.status ≠ 7 → o.op.opc ≠ 8 →
              (o.purpose = .software q n → Completes (.moduleCompletion p c) s (fun t => t =
                (if c.status = 0 ∨ c.status = 2 ∨ c.status = 8 then landed else protocol).swComplete p q n
                  (swCompletion c.cid.toNat n c.status.toNat c.corrmax.toNat c.level.toNat c.bytes.toNat))) ∧
              (o.purpose = .patrol k q → c.status = 0 → c.bytes.toNat = o.op.len.toNat → Completes (.moduleCompletion p c) s (fun t =>
                t = freed.patrolled k q (some c.corrmax.toNat)))) ∧
            (c.status = 0xFE → h.modState p ≠ mNone → Completes (.moduleCompletion p c) s (fun t => t.modState p = mFailed)) ∧
            (c.status = 0xFF → Completes (.moduleCompletion p c) s dropped))) ∧
        (up = true → (∀ e ∈ y.outstanding, ∀ q n, e.2.purpose ≠ .software q n) →
          Completes (.moduleDmaWrite p addr data) s violation)) ∧
      (up = true → (cid.toNat, o) ∈ y.outstanding → o.purpose = .software q n → o.op.dptr ≠ 0 → o.op.dptr.toNat ≤ a →
        a + data.length ≤ o.op.dptr.toNat + o.op.len.toNat → Completes (.moduleDmaWrite p addr data) s (fun t =>
          t.bytes a data.length = data ∧ SameMemoryBut h t a data.length ∧
          t = { h with mem := t.mem, memc := { h.memc with lines := t.memc.lines } }))

/-- For a module that is seen, each operation is answered to its port, and nothing but the module changed. One that has failed
answers FAILED, one that can do nothing more FATAL, an entry of another operation or with a field R312 does not list
INVALID, a block beyond its count BAD_BLOCK, and a fenced port FENCED for reads, programs and erases; none of these
changes the module. READ_PAGE and READ_RETRY give the range of the strip with its seal, or ERASED with zeros; PROGRAM_PAGE
adds the strip at the next slot of a block in one mode, and any other slot or mode is ORDER; ERASE_BLOCK empties the block
and counts. GET_STATUS and GET_GEOMETRY give their pages, also to a fenced port. SET_FENCE sets the port's own fence, or
as sole holder the other's. LEASE READ gives the word, HEARTBEAT the port's HB, ACQUIRE the holder and generation where
both match, else LEASE_MISMATCH. A module never seen answers nothing. -/
def Obligations.ModulesCarryOutOperations : Prop :=
  ∀ (s : State) (j : Fin 32) (port : Bool) (op : ModOp) (data : List Byte) (sr : Rec64) (m : Module) (st : Strip),
    let h := s.head
    let rows : List (Instr × Nat × Option Nat) := [(.readPage j port op, 1, none), (.readRetry j port op, 2, none),
      (.programPage j port op data sr, 3, none), (.eraseBlock j port op, 4, none), (.getStatus j port op, 5, none),
      (.getGeometry j port op, 6, none), (.setFence j port op, 7, none), (.leaseRead j port op, 8, some 0),
      (.leaseHeartbeat j port op, 8, some 1), (.leaseAcquire j port op, 8, some 2)]
    let answers (i : Instr) (status : Nat) (d : List Byte) (sl : Rec64) (m' : Module) : Prop := Completes i s (fun t =>
      t = { h with modules := Tbl.put h.modules j m', out := .moduleReply j port status d sl :: h.out })
    let block := m.block op.pblk.toNat
    let range (b : Strip) := b.range op.offset.toNat op.len.toNat
    let b := op.pblk.toNat
    let slot := op.slot.toNat
    let oneBit := op.flags.getLsbD 0
    let readFields : Prop := readRangeOk op = true ∧ slot < max m.spbf m.spb1
    let one : Prop := op.opc = 1 ∧ readFields ∧ unlistedZero op true true false false true true true true false false 0 = true
    let two : Prop := op.opc = 2 ∧ readFields ∧ op.level ≠ 0 ∧ op.level.toNat ≤ 15 ∧
      unlistedZero op true true true false true true true true false false 0 = true
    let three : Prop := op.opc = 3 ∧ op.len = 262144 ∧ unlistedZero op true true false false false true true true false false 1 = true
    let four : Prop := op.opc = 4 ∧ unlistedZero op true false false false false false false false false false 0 = true
    let page : Prop := op.len = 4096 ∧ unlistedZero op false false false false false true true false false false 0 = true
    let lease (sub : BitVec 8) : Prop := op.opc = 8 ∧ op.subop = sub ∧ op.len = 64 ∧
      unlistedZero op false false false true false true true false true true 0 = true
    let fields := [(one, Instr.readPage j port op), (two, .readRetry j port op), (three, .programPage j port op data sr),
      (four, .eraseBlock j port op)]
    let able : Prop := m.badBlock b = false ∧ m.fenced port = false
    (h.module j = none → ∀ r ∈ rows, Completes r.1 s (fun t => t = h)) ∧
    (h.module j = some m →
      (m.fatal = true → ∀ r ∈ rows, answers r.1 0xFF [] 0 m) ∧
      (m.fatal = false → m.failed = true → ∀ r ∈ rows, answers r.1 0xFE [] 0 m) ∧
      (m.fatal = false → m.failed = false →
        (∀ r ∈ rows, op.opc.toNat ≠ r.2.1 ∨ (∃ n, r.2.2 = some n ∧ op.subop.toNat ≠ n) → answers r.1 1 [] 0 m) ∧
        (op.opc = 1 → ¬ one → answers (.readPage j port op) 1 [] 0 m) ∧
        (∀ f ∈ fields, f.1 →
          (m.badBlock b = true → answers f.2 9 [] 0 m) ∧
          (m.badBlock b = false → m.fenced port = true → answers f.2 7 [] 0 m)) ∧
        (able → ∀ f ∈ fields.take 2, f.1 →
          (block.strips[slot]? = some st → answers f.2 0 (range st) st.sealRec m) ∧
          (block.strips[slot]? = none → answers f.2 2 (List.replicate op.len.toNat 0) 0 m)) ∧
        (able → three →
          (slot = block.strips.length → (block.strips = [] ∨ block.oneBit = oneBit) → slot < (if oneBit then m.spb1 else m.spbf) →
            answers (.programPage j port op data sr) 0 [] 0 (m.setBlock b
              { block with oneBit := oneBit, strips := block.strips ++ [{ data := data, sealRec := sr }] })) ∧
          (slot ≠ block.strips.length ∨ (block.strips ≠ [] ∧ block.oneBit ≠ oneBit) →
            answers (.programPage j port op data sr) 4 [] 0 m)) ∧
        (able → four → answers (.eraseBlock j port op) 0 [] 0
          (m.setBlock b { block with oneBit := false, strips := [], erases := block.erases + 1 })) ∧
        (page → (op.opc = 5 → answers (.getStatus j port op) 0 m.statusPage 0 m) ∧
          (op.opc = 6 → answers (.getGeometry j port op) 0 m.geometryPage 0 m)) ∧
        (op.opc = 7 → unlistedZero op false false false false false false false false false false 6 = true → m.fenced port = false →
          (op.flags.getLsbD 1 = true → op.flags.getLsbD 2 = false → answers (.setFence j port op) 0 [] 0
            { m with fence := setBitN m.fence port.toNat }) ∧
          (op.flags.getLsbD 1 = false → m.holder = soleOf port → answers (.setFence j port op) 0 [] 0
            { m with fence := if op.flags.getLsbD 2 then clrBitN m.fence (!port).toNat else setBitN m.fence (!port).toNat }) ∧
          (op.flags.getLsbD 1 = false → m.holder ≠ soleOf port → answers (.setFence j port op) 1 [] 0 m)) ∧
        (lease 0 → answers (.leaseRead j port op) 0 m.leaseWord 0 m) ∧
        (lease 1 → (let m' := if port then { m with hb1 := op.hbval.toNat } else { m with hb0 := op.hbval.toNat }
          answers (.leaseHeartbeat j port op) 0 m'.leaseWord 0 m')) ∧
        (lease 2 → op.newh.toNat ≤ 3 → op.exph.toNat ≤ 3 → op.newh.toNat ≠ soleOf (!port) →
          (m.fenced port = true → answers (.leaseAcquire j port op) 7 [] 0 m) ∧
          (m.fenced port = false → op.gen.toNat = m.gen → op.exph.toNat = m.holder →
            (let m' := { m with holder := op.newh.toNat, gen := m.gen + 1,
                                fence := if op.newh.toNat = soleOf port then 2 ^ (!port).toNat else 0 }
             answers (.leaseAcquire j port op) 0 m'.leaseWord 0 m')) ∧
          (m.fenced port = false → op.gen.toNat ≠ m.gen ∨ op.exph.toNat ≠ m.holder →
            answers (.leaseAcquire j port op) 8 m.leaseWord 0 m))))

/-- LANE_LINK_CHANGE of a port STARTING or ON whose lane differs: LANEUP shows the lane, and a sub-port is up exactly where
the port is ON, the sub-port enabled and all its lanes up; no memory and no other register changed but the lane map,
LANEOUT and what records change. An enabled sub-port that alone lost the lane moves to the spare lane where there is one,
its first lane in the map, and announces each of its addresses; with none, LANEOUT is set and the map stays. ARP_REQUEST,
NEIGHBOUR_SOLICITATION and ECHO_REQUEST on a sub-port that is down change nothing; on one that is up the answer goes out
for its own address, and any other is counted as dropped. FRAME_DISCARD counts on a port that is ON and does nothing on
another. A lane as it was, or of a port neither STARTING nor ON, changes nothing. -/
def Obligations.HostLinksAndFrames : Prop :=
  ∀ (s : State) (port : Fin 8) (sub lane q f : Fin 4) (up v6 : Bool) (ip4 : BitVec 32) (ip6 : BitVec 128) (data : List Byte)
    (kind : FrameKind),
    let h := s.head
    let p := port.val
    let state := h.rd (FE_P_STS_STATE.nth p)
    let laneUp := FE_P_STS_LANEUP.nth p
    let subUp := FE_P_STS_SUBUP.nth p
    let drop := FE_P_CNT_DROP.nth p
    let change := Instr.laneLinkChange port lane up
    let stays (i : Instr) : Prop := Completes i s (fun t => t = h)
    let differs : Prop := bitAt (h.rd laneUp) lane ≠ up
    let lost := h.wrBit laneUp lane false
    let gives (i : Instr) (r : FrameOut) : Prop := Completes i s (fun t => t = { h with out := .frame (4 * p + sub) r :: h.out })
    let counts (i : Instr) : Prop := Completes i s (fun t =>
      t.rd drop = min (h.rd drop + 1) (2 ^ drop.width - 1) ∧ OnlyFields h t [drop])
    let asks : List (Instr × Bool × FrameOut) :=
      [(.arpRequest port sub ip4, decide (h.ipv4 p sub = some ip4.toNat), .arpReply ip4.toNat),
       (.neighbourSolicitation port sub ip6, (h.ipv6 p sub).contains ip6.toNat, .neighbourAdvert ip6.toNat),
       (.echoRequest port sub ip6 v6 data,
        if v6 then (h.ipv6 p sub).contains ip6.toNat else decide (h.ipv4 p sub = some ip6.toNat), .echoReply ip6.toNat data)]
    h.plt.inReset = false →
      ((state ≠ 1 ∧ state ≠ 2) ∨ ¬ differs → stays change) ∧
      (state = 1 ∨ state = 2 → differs → Completes change s (fun t =>
        (∀ l < 4, bitAt (t.rd laneUp) l = if l = lane.val then up else bitAt (h.rd laneUp) l) ∧
        (∀ r < 4, bitAt (t.rd subUp) r =
          (decide (state = 2) && (t.enabledSubs p).contains r && (t.lanesOf p r).all (bitAt (t.rd laneUp)))) ∧
        SameRegistersBut h t ([laneUp, subUp, FE_P_LANE_MAP.nth p, FE_ERR_LANEOUT] ++ noteFields) ∧ SameMemory h t)) ∧
      (state = 2 → differs → up = false → (h.enabledSubs p).filter (fun r => (h.lanesOf p r).contains lane.val) = [q.val] →
        (lost.spareLane p q = some f.val → Completes change s (fun t => t.firstLane p q = f ∧
          (∀ r < 4, r ≠ q.val → t.firstLane p r = h.firstLane p r) ∧ t.rd FE_ERR_LANEOUT = h.rd FE_ERR_LANEOUT ∧
          (∀ a, h.ipv4 p q = some a → .frame (4 * p + q) (.gratuitousArp a) ∈ t.out) ∧
          ∀ a ∈ h.ipv6 p q, .frame (4 * p + q) (.unsolicitedAdvert a) ∈ t.out)) ∧
        (lost.spareLane p q = none → Completes change s (fun t => t.rd FE_ERR_LANEOUT = 1 ∧
          t.rd (FE_P_LANE_MAP.nth p) = h.rd (FE_P_LANE_MAP.nth p)))) ∧
      (∀ a ∈ asks, (h.subUp p sub = false → stays a.1) ∧
        (h.subUp p sub = true → a.2.1 = true → gives a.1 a.2.2) ∧ (h.subUp p sub = true → a.2.1 = false → counts a.1)) ∧
      (state = 2 → counts (.frameDiscard port kind)) ∧ (state ≠ 2 → stays (.frameDiscard port kind))

/-- On a queue pair that does not exist acknowledgements, NAKs, timers, CNPs, requests, RTU and DREQ change nothing. On one
that works: an ACK that covers the oldest operation ends it, counts it on the queue, and starts the retries afresh; a
sequence NAK sends what it asks for again and counts a retry; a timeout does too, doubling the wait to at most 1000; the
eighth makes the queue pair fail, as a fatal NAK and a remote request do: QPERR, a record, and the queue pair, belonging
to no controller, is gone. An RNR NAK waits, and what is outstanding goes out again when the delay ends. A CNP is counted
and, with ECN on, halves the rate to no less than MINRATE; the rate recovers by RAI. A READ response in order lands in the
command's buffers, and the last accepts the command with its stamp. CM_REQ makes the lowest free queue pair, RTU readies
it, DREQ destroys it. A receive buffer is posted where every condition of R341 and R342 holds. Shown with no command
outstanding on the queue pair where one would be answered. -/
def Obligations.HostQueuePairs : Prop :=
  ∀ (s : State) (qp : Fin 32768) (psn : BitVec 24) (port : Fin 8) (sub : Fin 4) (qid size : BitVec 16) (mtu : Fin 3)
    (q : Qp) (e : QpEntry) (rest : List QpEntry) (data : List Byte) (w off len left : Nat) (x : Work) (b m : Nat),
    let h := s.head
    let n := qp.val
    let stays (i : Instr) : Prop := Completes i s (fun t => t = h)
    let isRead (y : QpEntry) : Bool := match y.op with | .read .. => true | _ => false
    let open_ (y : QpEntry) (upTo : Nat) : Prop := y.done = false ∧
      (isRead y = true ∨ psnLe ((y.psn + y.npsn - 1) % 2 ^ 24) upTo = false)
    let before := (psn.toNat + 2 ^ 24 - 1) % 2 ^ 24
    let resent (t : Head) : Prop :=
      t.out = ((q.out.filter (fun y => ! y.done)).map (fun y => Out.roce n y.msg)).reverse ++ h.out
    let becomes (t : Head) (q' : Qp) : Prop := t.qp n = some q' ∧ t = { h with fe := t.fe, out := t.out } ∧ ∀ j, j ≠ n → t.qp j = h.qp j
    let failed (t : Head) (cause p : Nat) : Prop := t.rd FE_ERR_QPERR = 1 ∧ t.qp n = none ∧ (∀ j, j ≠ n → t.qp j = h.qp j) ∧
      Recorded h t 0x0104 1 n 0xFFFF cause p
    let cnpRx := FE_P_CNT_CNPRX.nth (q.subport / 4)
    let posting := h.dumpCheck
    let none_ : List Instr := [.roceAck qp psn, .roceNak qp psn .sequence, .roceNak qp psn .fatal, .roceRnrNak qp psn,
      .roceRnrDelayExpiry qp, .roceCnp qp, .roceRateRecover qp, .roceAckTimeout qp, .roceRemoteRequest qp psn, .cmRtu qp, .cmDreq qp,
      .roceReadResponse qp psn data false true]
    h.plt.inReset = false →
      (h.qp n = none → ∀ i ∈ none_, stays i) ∧
      (h.subUp port sub = false → stays (.cmReq port sub qid size mtu psn)) ∧
      (h.subUp port sub = true → h.freeQp = none → Completes (.cmReq port sub qid size mtu psn) s (fun t =>
        t = { h with out := .roce 0 .reject :: h.out })) ∧
      (h.subUp port sub = true → h.freeQp = some m → Completes (.cmReq port sub qid size mtu psn) s (fun t =>
        (∃ y, t.qp m = some y ∧ y.ctrl = none ∧ y.admin = decide (qid = 0) ∧ y.qid = qid.toNat ∧ y.size = size.toNat ∧
          y.subport = 4 * port + sub ∧ y.pmtu = 512 * 2 ^ min (mtu.val + 1) (h.rd (FE_P_CTL_PMTU.nth port)) ∧ y.ready = false ∧
          y.linked = false ∧ y.gone = false ∧ y.rx = [] ∧ y.out = [] ∧ y.sendPsn < 2 ^ 24 ∧ y.expPsn = psn.toNat ∧
          y.rate = 1000 * h.subRate port) ∧
        (∀ j, j ≠ m → t.qp j = h.qp j) ∧ t = { h with fe := t.fe, free := h.free + 1, out := .roce m .reply :: h.out })) ∧
      (h.qp n = some q →
        Completes (.cmRtu qp) s (fun t => becomes t { q with ready := true } ∧ t.out = h.out) ∧
        Completes (.cmDreq qp) s (fun t => t.qp n = none ∧ (∀ j, j ≠ n → t.qp j = h.qp j) ∧ .roce n .disconnected ∈ t.out) ∧
        Completes (.roceRateRecover qp) s (fun t => t.out = h.out ∧
          becomes t { q with rate := if h.is FE_CC_ECNEN then min (q.rate + h.rd FE_CC_RAI) (1000 * h.subRate (q.subport / 4))
                                     else q.rate }) ∧
        Completes (.roceCnp qp) s (fun t => t.rd cnpRx = min (h.rd cnpRx + 1) (2 ^ cnpRx.width - 1) ∧ SameRegistersBut h t [cnpRx] ∧
          (h.is FE_CC_ECNEN = false → t.qp n = some q) ∧
          (h.is FE_CC_ECNEN = true → q.lastCut = none →
            t.qp n = some { q with rate := max (q.rate / 2) (100 * h.rd FE_CC_MINRATE), lastCut := some h.mer.sinceReset })) ∧
        (q.rnrWait = true → Completes (.roceRnrDelayExpiry qp) s (fun t => becomes t { q with rnrWait := false } ∧ resent t)) ∧
        (q.rnrWait = false → stays (.roceRnrDelayExpiry qp)) ∧
        (q.out = [] ∨ q.rnrWait = true → stays (.roceAckTimeout qp)) ∧
        (q.gone = false →
          (h.worksOf n = [] → q.out = e :: rest → isRead e = false →
            psnLe ((e.psn + e.npsn - 1) % 2 ^ 24) psn.toNat = true → (∀ y ∈ rest, open_ y psn.toNat) →
            Completes (.roceAck qp psn) s (fun t =>
              t.qp n = some { q with out := rest, retries := 0, rnrTries := 0, wait := h.rd FE_CTL_ACKTO } ∧
              (t.queue n).done = (h.queue n).done + (match e.op with | .part _ => 0 | _ => 1) ∧ t.works = h.works ∧ SameMemory h t)) ∧
          (h.worksOf n = [] → q.retries < 7 → (∀ y ∈ q.out, open_ y before) → Completes (.roceNak qp psn .sequence) s (fun t =>
            becomes t { q with retries := q.retries + 1, rnrTries := 0, wait := h.rd FE_CTL_ACKTO } ∧ resent t)) ∧
          (q.out ≠ [] → q.rnrWait = false → q.retries < 7 → Completes (.roceAckTimeout qp) s (fun t =>
            becomes t { q with retries := q.retries + 1, wait := min 1000 (2 * q.wait) } ∧ resent t)) ∧
          (q.out = e :: rest → q.rnrWait = false → 7 ≤ q.retries → q.ctrl = none →
            Completes (.roceAckTimeout qp) s (fun t => failed t 0 e.psn)) ∧
          (q.rnrWait = true → stays (.roceRnrNak qp psn)) ∧
          (q.rnrWait = false → q.rnrTries < 7 → Completes (.roceRnrNak qp psn) s (fun t =>
            becomes t { q with rnrTries := q.rnrTries + 1, rnrWait := true } ∧ t.out = h.out)) ∧
          (q.ctrl = none → q.rnrWait = false → 7 ≤ q.rnrTries → Completes (.roceRnrNak qp psn) s (fun t => failed t 1 psn.toNat)) ∧
          (q.ctrl = none → Completes (.roceNak qp psn .fatal) s (fun t => failed t 2 psn.toNat)) ∧
          (q.ctrl = none → Completes (.roceRemoteRequest qp psn) s (fun t => failed t 3 psn.toNat ∧
            .roce n (.nakRemoteAccess psn.toNat) ∈ t.out)) ∧
          (q.out = [e] → e.op = .read w off len → (psn.toNat + 2 ^ 24 - e.psn) % 2 ^ 24 < e.npsn →
            (psn.toNat + 2 ^ 24 - e.psn) % 2 ^ 24 * q.pmtu = e.got → e.got + data.length < len → data.length < left →
            h.worksOf n = [(w, x)] → h.work w = some x → x.state = .fetching 0 left →
            Completes (.roceReadResponse qp psn data false true) s (fun t =>
              (t.qp n).map (·.out) = some [{ e with got := e.got + data.length }] ∧
              t.work w = some { x with state := .fetching 0 (left - data.length) } ∧
              t.mem = (h.putSegs (off + e.got) data x.segs).mem ∧ SameRegisters h t)) ∧
          (q.out = [e] → e.op = .read w off len → (psn.toNat + 2 ^ 24 - e.psn) % 2 ^ 24 < e.npsn →
            (psn.toNat + 2 ^ 24 - e.psn) % 2 ^ 24 * q.pmtu = e.got → e.got + data.length = len → data.length = left →
            h.worksOf n = [(w, x)] → h.work w = some x → x.state = .fetching 0 left → x.row ≠ 0xFFFF →
            h.is FE_STS_FENCED = false → h.pair.leaveEpoch = none → h.serving = true → h.plt.stopped = false →
            Completes (.roceReadResponse qp psn data false true) s (fun t => (t.qp n).map (·.out) = some [] ∧
              ∃ y, t.work w = some y ∧ y.state = .ready ∧ y.stamp = h.epoch ∧ y.readEpoch = (if x.reads then some h.last else none))) ∧
          ((∀ y ∈ q.out, isRead y = false) → stays (.roceReadResponse qp psn data false true)) ∧
          (posting.mayPost n q = true → (posting.allocIn 3 0).1 = .buffer b → Completes (.receiveBufferPost qp) s (fun t =>
            t.qp n = some { q with rx := q.rx ++ [b], due := q.due - 1 })) ∧
          (posting.mayPost n q = false → Completes (.receiveBufferPost qp) s (fun t => t.qp n = some q ∧ t.pools = h.pools))))

/-- For each block and Key Value command, reservation command and undefined opcode, with its own opcode and a queue that is
not an admin queue. No queue pair, one that has failed or is not ready: the frame is dropped and counted. A PSN behind the
expected one is acknowledged again, one ahead is answered by a sequence NAK, and without a posted buffer an RNR NAK goes
out. Otherwise the capsule is acknowledged, stored in the oldest posted buffer, and takes an admission credit. Where a
check fails, and no bid is open, its status is sent and the command is gone. Where all pass and the host sends no data,
the command is stamped with the epoch, a read-class one with the last committed epoch, or a reservation command is held in
the lowest free slot; in-capsule data is taken where it lies; data to fetch waits while a gate is closed. A capsule of
another opcode, or on an admin queue, is not this command's. -/
def Obligations.CapsulesArriveOnIoQueues : Prop :=
  ∀ (s : State) (c : Capsule) (kv : Bool) (q : Qp) (b : Nat) (more : List Nat) (st slot off len : Nat),
    let h := s.head
    let n := c.qp.val
    let psn := c.psn.toNat
    let o := sqeOpc c.sqe
    let rows : List (Instr × Bool × Bool) :=
      [(.nvmeFlush (.arrive c), false, decide (o = 0)), (.nvmeWrite (.arrive c), false, decide (o = 1)),
       (.nvmeRead (.arrive c), false, decide (o = 2)), (.nvmeCompare (.arrive c), false, decide (o = 5)),
       (.nvmeWriteZeroes (.arrive c), false, decide (o = 8)), (.nvmeDatasetManagement (.arrive c), false, decide (o = 9)),
       (.nvmeVerify (.arrive c), false, decide (o = 0x0C)), (.kvStore (.arrive c), true, decide (o = 1)),
       (.kvRetrieve (.arrive c), true, decide (o = 2)), (.kvList (.arrive c), true, decide (o = 6)),
       (.kvDelete (.arrive c), true, decide (o = 0x10)), (.kvExist (.arrive c), true, decide (o = 0x14)),
       (.reservationRegister c, false, decide (o = 0x0D)), (.reservationReport c, false, decide (o = 0x0E)),
       (.reservationAcquire c, false, decide (o = 0x11)), (.reservationRelease c, false, decide (o = 0x15)),
       (.nvmeUndefinedOpcode kv c, kv, ! definedOpc kv o)]
    let q1 : Qp := { q with rx := more, expPsn := (psn + 1) % 2 ^ 24 }
    let h0 := ((h.setQp n q1).emit (.roce n (.ack psn))).put (h.bufAddr b) (toBytes 64 c.sqe.toNat ++ c.data)
    let h1 := (h0.setLen b (64 + c.data.length)).wr FE_ADMIT_CUR (h.rd FE_ADMIT_CUR + 1)
    let w := h1.nextWork
    let drop := FE_P_CNT_DROP.nth c.port
    h.plt.inReset = false → ∀ r ∈ rows,
      let i := r.1
      let x := h1.capsuleWork r.2.1 c q1 b
      let writes := cmdKind r.2.1 o = .write
      let inline := (sglOf c.sqe c.data writes).inline
      let taken : Prop := h1.capsuleCheck r.2.1 c q1 = none ∧ h.is FE_STS_FENCED = false ∧ h.pair.leaveEpoch = none ∧
        (h.serving = true ∨ h.role = rBidding) ∧ h.plt.stopped = false
      (r.2.2 = false ∨ (h.qp n).any (·.admin) = true → Completes i s (fun t => t = h)) ∧
      (r.2.2 = true → h.qp n = none ∨ (h.qp n = some q ∧ q.admin = false ∧ (q.gone = true ∨ q.ready = false)) →
        Completes i s (fun t => t.rd drop = min (h.rd drop + 1) (2 ^ drop.width - 1) ∧ OnlyFields h t [drop])) ∧
      (r.2.2 = true → h.qp n = some q → q.admin = false → q.gone = false → q.ready = true → c.ce = false →
        (psn ≠ q.expPsn → Completes i s (fun t => t = { h with out := .roce n (
          if (q.expPsn + 2 ^ 24 - psn) % 2 ^ 24 < 2 ^ 23 then .ack ((q.expPsn + 2 ^ 24 - 1) % 2 ^ 24)
          else .nakSequence q.expPsn) :: h.out })) ∧
        (psn = q.expPsn → q.rx = [] → Completes i s (fun t =>
          (∃ q', t.qp n = some q' ∧ q'.rx = [] ∧ q'.expPsn = q.expPsn) ∧ t.works = h.works ∧ SameMemory h t ∧ SameRegisters h t ∧
            t.out = .roce n (.rnrNak psn (h.rd FE_CTL_RNRT)) :: h.out)) ∧
        (psn = q.expPsn → q.rx = b :: more → h.worksOf n = [] →
          (h.role ≠ rBidding → h1.capsuleCheck r.2.1 c q1 = some st → Completes i s (fun t => t.work w = none ∧
            ∃ p inval, .roce n (.response p inval (sqeCid c.sqe) st 0) ∈ t.out)) ∧
          (taken → inline = none → h1.inboundLen r.2.1 c.sqe = 0 → x.row ≠ 0xFFFF → Completes i s (fun t =>
            ∃ y, t.work w = some y ∧ y.state = .ready ∧ y.stamp = h1.epoch ∧
              y.readEpoch = (if x.reads then some h1.last else none) ∧ y.capsule = c.sqe ∧ y.cap = some b)) ∧
          (taken → inline = none → h1.inboundLen r.2.1 c.sqe = 0 → x.row = 0xFFFF → h.freeHold = some slot → Completes i s (fun t =>
            t.work w = some { x with state := .held slot } ∧ Tbl.find t.fe.holds slot = some w ∧
              t.rd FE_HOLD_PI = (h.rd FE_HOLD_PI + 1) % 65536)) ∧
          (taken → inline = some (off, len) → x.row ≠ 0xFFFF → Completes i s (fun t =>
            ∃ y, t.work w = some y ∧ y.state = .ready ∧ y.stamp = h1.epoch ∧
              y.segs = [{ buf := b, off := 64 + off, len := len }])) ∧
          (h1.capsuleCheck r.2.1 c q1 = none → inline = none → h1.inboundLen r.2.1 c.sqe ≠ 0 → h.gated = true →
            Completes i s (fun t => t.work w = some { x with state := .fetching x.keys.length (h1.inboundLen r.2.1 c.sqe) }))))

/-- An entry runs where its context runs at it, dispatched to a command of its set and opcode from a host; anywhere else the
command's row changes nothing. Data that cannot be read from DRAM end it DATA_CORRUPT; the rest is said with no raw line
in DRAM. An attribute word not in order ends it BAD_PARAM, a namespace that is not there too. Flush ends OK. A read-class
entry whose view is not applied, or whose pages are not in the pool, waits. Read, Compare and Verify end with the failure
of their range; Compare ends OK or COMPARE_MISS, Verify OK; Read, KV Retrieve and KV List hand bytes over in buffers of
the context, and wait for the next epoch without them. KV Retrieve and Exist of a key that is not there end KEY_ABSENT. A
Write beyond the namespace ends LBA_RANGE; the next chunk of a Write or KV Store is found, posted for placement, waited
for or fails, as reducing it says; after the last the intents go to CPLT, a KV Store's with its manifest's. Write Zeroes
and Dataset Management record their trims, or end LBA_RANGE or INTENT_FULL; without Deallocate OK. KV Store with an option
ends BAD_OPTION; KV Delete records KEY_DEL. Nothing but the context changed where the statement says so. -/
def Obligations.LibraryEntriesHandleCommands : Prop :=
  ∀ (s : State) (cl : Fin 24) (e : Fin 9) (cx : Fin 8) (bad : BitVec 32) (w : Nat) (x : Work),
    let h := s.head
    let k := ctxKey (.stream cl e cx)
    let c := h.ctx k
    let a := attrOf (c.gr 6).toNat
    let go := HostCmd.handle cl e cx bad
    let n := bad.toNat
    let flush : Instr × Bool × Nat × Nat := (.nvmeFlush go, false, 0, 5)
    let write : Instr × Bool × Nat × Nat := (.nvmeWrite go, false, 1, 1)
    let read : Instr × Bool × Nat × Nat := (.nvmeRead go, false, 2, 2)
    let compare : Instr × Bool × Nat × Nat := (.nvmeCompare go, false, 5, 6)
    let zeroes : Instr × Bool × Nat × Nat := (.nvmeWriteZeroes go, false, 8, 3)
    let dataset : Instr × Bool × Nat × Nat := (.nvmeDatasetManagement go, false, 9, 4)
    let verify : Instr × Bool × Nat × Nat := (.nvmeVerify go, false, 0x0C, 7)
    let store : Instr × Bool × Nat × Nat := (.kvStore go, true, 1, 16)
    let retrieve : Instr × Bool × Nat × Nat := (.kvRetrieve go, true, 2, 17)
    let list : Instr × Bool × Nat × Nat := (.kvList go, true, 6, 20)
    let delete : Instr × Bool × Nat × Nat := (.kvDelete go, true, 0x10, 18)
    let exist : Instr × Bool × Nat × Nat := (.kvExist go, true, 0x14, 19)
    let runs (r : Instr × Bool × Nat × Nat) : Prop := c.run = .running ∧ c.work = some w ∧ h.work w = some x ∧
      (decide (x.cset = 1)) = r.2.1 ∧ x.opc = r.2.2.1 ∧ x.qp.isSome = true ∧ h.atEntry k c r.2.2.2 = true ∧ h.plt.stopped = false
    let fits (r : Instr × Bool × Nat × Nat) : Prop := runs r ∧ attrFits (c.gr 6) r.2.1 = true
    let from_ (u : Head) (r : Instr × Bool × Nat × Nat) (c' : Context) : Prop :=
      Completes r.1 s (fun t => t.ctx k = c' ∧ OnlyContext u t k)
    let ended (c' : Context) (st : Nat) : Context :=
      { c' with run := .ending st .empty 0, intents := if st = rsOk then c'.intents else [] }
    let later (c' : Context) : Context := { c' with run := .epoch (h.epoch + 1) 0, lib := { c'.lib with wait := true } }
    let ends (u : Head) (r : Instr × Bool × Nat × Nat) (st : Nat) : Prop := from_ u r (ended c st)
    let records (u : Head) (r : Instr × Bool × Nat × Nat) (c' : Context) (l : List Rec64) : Prop :=
      (c'.intents.length + l.length ≤ 65536 → from_ u r { c' with run := .ending rsOk .empty 0, intents := c'.intents ++ l }) ∧
        (65536 < c'.intents.length + l.length → Completes r.1 s (fun t => (t.ctx k).run = .ending rsIntentFull .empty 0 ∧
          (t.ctx k).intents = []))
    let waits (r : Instr × Bool × Nat × Nat) : Prop := Completes r.1 s (fun t => t = h)
    let answers (u : Head) (r : Instr × Bool × Nat × Nat) (b : List Byte) : Prop :=
      if b = [] then ends u r rsOk
      else match (dataPools u b.length).bind (fun ps => (u.allocAll (u.classOf k c) ps).1) with
        | none => from_ u r (later c)
        | some bs => Completes r.1 s (fun t => t.ctx k = { c with bufs := bs ++ c.bufs, descs := h.nextDesc :: c.descs,
                                                                  run := .ending rsOk (.desc h.nextDesc) 0 } ∧
            Tbl.find t.descTbl h.nextDesc = some (segsOf b.length bs) ∧ t.works = u.works ∧ ∀ j, j ≠ k → t.ctx j = h.ctx j)
    let reduces (u : Head) (c0 : Context) (r : Instr × Bool × Nat × Nat) (b : List Byte) (mf : Bool) (found : Head → Nat → Prop) : Prop :=
      match (u.setCtx k c0).reduce n k w x a b mf with
      | (.known id, g) => found g id
      | (.posted p, g) => Completes r.1 s (fun t => OnlyContext g t k ∧
          t.ctx k = { g.ctx k with lib := { (g.ctx k).lib with placing := some { p with len := b.length }, manifest := mf } })
      | (.wait, g) => from_ g r (later c0)
      | (.fail st, g) => from_ g r (ended c0 st)
    let goesOn (u : Head) (c0 : Context) (r : Instr × Bool × Nat × Nat) : Prop :=
      let rest := (u.dataOf x).drop c0.lib.done
      let made := manifestBytes x.keyBytes h.headId x.nsid x.cseq x.stamp x.len c0.lib.found
      match nextLen a rest with
      | some len => (rest.take len).length = len → reduces u c0 r (rest.take len) false (fun v i =>
          from_ v r (libFound x r.2.1 (v.ctx k) i len))
      | none => if r.2.1 then reduces u c0 r made true (fun v i => records v r (v.ctx k) (storeEnd x c0.lib.found i))
          else records u r c0 []
    let pages (vs : List (Nat × Nat)) : Option Head := (h.usePages vs).map (fun g =>
      g.veilPages (lookupCache k (some x)).1 (lookupCache k (some x)).2 false vs)
    let keyUses := pages (h.keyUses x.readEpoch x.nsid x.keyBytes)
    let nlb := recAt x.capsule.toNat 48 2 + 1
    let ranges := (List.range ((h.dataOf x).length / 16)).map (fun i =>
      (leAt (h.dataOf x) (16 * i + 8) 8, leAt (h.dataOf x) (16 * i + 4) 4))
    let deallocates : Prop := bitAt (recAt x.capsule.toNat 44 4) 2 = true
    let all := [flush, write, read, compare, zeroes, dataset, verify, store, retrieve, list, delete, exist]
    h.plt.inReset = false →
      (∀ r ∈ all, (c.run ≠ .running ∨ c.work = none ∨ h.plt.stopped = true ∨ h.atEntry k c r.2.2.2 = false → waits r) ∧
        (runs r → attrFits (c.gr 6) r.2.1 = false → ends h r rsBadParam) ∧
        (fits r → h.badSegs 0 x.len x.segs ≠ [] → Completes r.1 s (fun t => t.ctx k = ended c rsDataCorrupt ∧
          ∀ j, j ≠ k → t.ctx j = h.ctx j))) ∧
      (h.memc.lines = [] →
        (fits flush → ends h flush rsOk) ∧
        (∀ r ∈ [read, compare, verify, retrieve, list, exist], fits r → h.libReady x = false → waits r) ∧
        (h.libReady x = true →
          (match pages (h.rangeUses x a) with
            | none => ∀ r ∈ [read, compare, verify], fits r → waits r
            | some g => match g.rangeData n x a with
              | .error st => ∀ r ∈ [read, compare, verify], fits r → ends g r st
              | .ok b => (fits compare → ends g compare (if b = h.dataOf x then rsOk else lsCompareMiss)) ∧
                  (fits verify → ends g verify rsOk) ∧ (fits read → answers g read b)) ∧
          (keyUses = none → ∀ r ∈ [retrieve, exist], fits r → waits r) ∧
          (∀ g, keyUses = some g →
            (h.nsView x.readEpoch x.nsid = none → ∀ r ∈ [retrieve, exist], fits r → ends g r rsBadParam) ∧
            ((h.nsView x.readEpoch x.nsid).isSome = true →
              (h.keyChunk x.readEpoch x.nsid x.keyBytes = none → ∀ r ∈ [retrieve, exist], fits r → ends g r lsKeyAbsent) ∧
              (∀ id, h.keyChunk x.readEpoch x.nsid x.keyBytes = some id → (fits exist → ends g exist rsOk) ∧
                (fits retrieve →
                  let llen := (chunkDesc (g.readStored n (rLoc (g.recView x.readEpoch id)) 64 true).data).llen
                  match g.libChunk n x.readEpoch (g.mediaKey x a) id llen with
                  | .error st => ends g retrieve st
                  | .ok m => match parseManifest m with
                    | none => ends g retrieve rsDataCorrupt
                    | some (size, es) => match g.libChunks n x.readEpoch (g.mediaKey x a) es with
                      | .error st => ends g retrieve st
                      | .ok b => answers (g.updWork w (fun y => { y with dw0 := size })) retrieve b)))) ∧
          (pages (h.nsUses x.readEpoch x.nsid) = none → fits list → waits list) ∧
          (∀ g, pages (h.nsUses x.readEpoch x.nsid) = some g → fits list →
            (h.nsView x.readEpoch x.nsid = none → ends g list rsBadParam) ∧
            ((h.nsView x.readEpoch x.nsid).isSome = true →
              let l := listKeys (x.len - 4) ((h.keysOf x.readEpoch x.nsid).filter (fun y => keyLe x.keyBytes y))
              answers g list ((toBytes 4 l.1 ++ l.2).take x.len)))) ∧
        (h.liveNs x.nsid = none → (∀ r ∈ [write, zeroes], fits r → ends h r rsBadParam) ∧
          (fits dataset → deallocates → ends h dataset rsBadParam)) ∧
        (kvOptions x = true → fits store → ends h store lsBadOption) ∧
        (kvOptions x = false → h.liveNs x.nsid = none → fits store → ends h store rsBadParam) ∧
        ((h.liveNs x.nsid).isSome = true →
          (h.mapSize none x.nsid < x.lba + x.len / (4096 * 2 ^ a.fsize) → fits write → ends h write lsLbaRange) ∧
          (∀ r ∈ [write, store], fits r → (r.2.1 = true → kvOptions x = false) →
            (r.2.1 = false → x.lba + x.len / (4096 * 2 ^ a.fsize) ≤ h.mapSize none x.nsid) →
            match c.lib.placing with
            | none => goesOn h c r
            | some p => match h.libPlaced k c x p with
              | .error st => if st = rsOk then waits r else ends h r st
              | .ok (g, c') => if c.lib.manifest then records g r c' (storeEnd x c'.lib.found p.chunk)
                  else goesOn g (libFound x r.2.1 c' p.chunk p.len) r) ∧
          (h.mapSize none x.nsid < x.lba + nlb → fits zeroes → ends h zeroes lsLbaRange) ∧
          (x.lba + nlb ≤ h.mapSize none x.nsid → fits zeroes → records h zeroes c (trimIntents x.nsid x.lba nlb)) ∧
          (fits dataset → deallocates →
            ((∃ r ∈ ranges, h.mapSize none x.nsid < r.1 + r.2) → ends h dataset lsLbaRange) ∧
            ((∀ r ∈ ranges, r.1 + r.2 ≤ h.mapSize none x.nsid) →
              records h dataset c ((ranges.flatMap (fun r => trimIntents x.nsid r.1 r.2)).take 65536)))) ∧
        (¬ deallocates → fits dataset → ends h dataset rsOk) ∧
        (fits delete → records h delete c [keyIntent 8 x.nsid x.keyBytes 0]))

/-- A capsule that its admin queue delivers, with no other command outstanding there. Before Connect it is answered that the
sequence is wrong. Keep Alive succeeds and restarts the count; Property Get answers CAP, VS, CC and CSTS; Property Set
takes CC, an enable of one that is OFF starting it and a disable of one that is ON stopping it; any other property is an
invalid field. An Abort with four waiting exceeds the limit; one that names no command succeeds with Dword 0 bit 0. An
Asynchronous Event Request is kept, a fifth refused. Get Log Page writes the ANA log to the host. Every other admin
command is held in the lowest free slot. Connect on an admin queue gives the lowest free controller number and the
subsystem named; on an I/O queue it joins its controller that is ready; a bad parameter, a full table and a second Connect
are answered so. A row whose capsule is not its own changes nothing. -/
def Obligations.AdminCommandsAndConnections : Prop :=
  ∀ (s : State) (c : Capsule) (subsys : Option (Fin 64)) (q : Qp) (k : Fin 4096) (b slot : Nat) (y : Ctl) (h1 : Head) (key addr len : Nat),
    let h := s.head
    let n := c.qp.val
    let e := c.sqe
    let o := sqeOpc e
    let fabric (t : Nat) : Bool := decide (o = 0x7F) && decide (sqeAt e 4 1 = t)
    let rows : List (Instr × Bool) := [(.keepAlive c, decide (o = 0x18)), (.propertyGet c, fabric 4), (.propertySet c, fabric 0),
      (.abort c, decide (o = 8)), (.asynchronousEventRequest c, decide (o = 0x0C)), (.getLogPage c, isAnaLog e),
      (.adminCommandHeld c, ! servedAdmin e)]
    let w := h1.nextWork
    let x := h1.capsuleWork false c q b
    let answers (i : Instr) (st dw0 : Nat) (P : Head → Prop) : Prop := Completes i s (fun t => t.work w = none ∧ P t ∧
      ∃ p inval, .roce n (.response p inval (sqeCid e) st dw0) ∈ t.out)
    let since := h1.mer.sinceReset
    let v := sqeAt e 48 4
    let u : UnitId := .controller k
    let page := ((h1.anaLog (h1.rd (FE_C_STS_SUBSYS.nth k)) (bitAt (sqeAt e 41 1) 0)).drop (sqeAt e 48 8)).take
      ((sqeAt e 42 2 + 2 ^ 16 * sqeAt e 44 2 + 1) * 4)
    let whole := page ++ List.replicate ((sqeAt e 42 2 + 2 ^ 16 * sqeAt e 44 2 + 1) * 4 - page.length) 0
    let connectOk : Prop := sqeAt e 40 2 = 0 ∧ q.linked = false
    let cid := leAt c.data 16 2
    let size := sqeAt e 44 2
    h.plt.inReset = false →
      (∀ r ∈ rows, r.2 = false ∨ (h.qp n).all (·.admin) = false → Completes r.1 s (fun t => t = h)) ∧
      (fabric 1 = false → Completes (.connect c subsys) s (fun t => t = h)) ∧
      (h.receiveSend c = (some (q, b), h1) → h1.worksOf n = [] →
        (q.admin = true → (h.qp n).all (·.admin) = true →
          (q.ctrl = none → ∀ r ∈ rows, r.2 = true → answers r.1 (nvmeStatus 0 0x0C false) 0 (fun _ => True)) ∧
          (q.ctrl = some k.val → h1.ctl k = some y →
            (o = 0x18 → answers (.keepAlive c) stOk 0 (fun t => t.ctl k = some { y with since := since })) ∧
            (fabric 4 = true → ∀ g ∈ [(0, capProperty), (8, 0x20000), (0x14, y.cc), (0x1C, h1.csts k)], sqeAt e 44 4 = g.1 →
              answers (.propertyGet c) stOk g.2 (fun _ => True)) ∧
            (fabric 4 = true → sqeAt e 44 4 ∉ [0, 8, 0x14, 0x1C] → answers (.propertyGet c) (nvmeStatus 0 2 false) 0 (fun _ => True)) ∧
            (fabric 0 = true → sqeAt e 44 4 ≠ 0x14 → answers (.propertySet c) (nvmeStatus 0 2 false) 0 (fun _ => True)) ∧
            (fabric 0 = true → sqeAt e 44 4 = 0x14 → bitAt v 0 = true ∨ h1.unitEn u = false → answers (.propertySet c) stOk 0 (fun t =>
              t.ctl k = some { y with since := since, cc := v } ∧
              (h1.unitState u = uOff → h1.unitEn u = false → bitAt v 0 = true → bitsAt v 14 2 = 0 →
                t.unitState u = uStarting ∧ t.unitEn u = true))) ∧
            (fabric 0 = true → sqeAt e 44 4 = 0x14 → bitAt v 0 = false → h1.unitEn u = true → h1.unitState u = uOn →
              Completes (.propertySet c) s (fun t => t.rd (FE_C_STS_RDY.nth k) = 0 ∧ t.unitState u = uStopping ∧
                t.unitEn u = false)) ∧
            (o = 8 → 4 ≤ y.aborts.length → answers (.abort c) (nvmeStatus 1 3 false) 0 (fun _ => True)) ∧
            (o = 8 → y.aborts.length < 4 → (∀ z ∈ h1.works, z.2.ctrl ≠ k ∨ z.2.cid ≠ sqeAt e 42 2) →
              answers (.abort c) stOk 1 (fun _ => True)) ∧
            (o = 0x0C → 4 ≤ y.aers.length → answers (.asynchronousEventRequest c) (nvmeStatus 1 5 false) 0 (fun _ => True)) ∧
            (o = 0x0C → y.aers.length < 4 → y.events = 0 → Completes (.asynchronousEventRequest c) s (fun t => t.work w = none ∧
              t.ctl k = some { y with since := since, aers := y.aers ++ [sqeCid e] } ∧ t.out = h1.out)) ∧
            (isAnaLog e = true → x.keys = [(key, addr, len)] → whole.length ≤ len → Completes (.getLogPage c) s (fun t =>
              ∃ p, .roce n (.write p key addr whole) ∈ t.out)) ∧
            (servedAdmin e = false → h1.freeHold = some slot → Completes (.adminCommandHeld c) s (fun t =>
              t.work w = some { x with state := .held slot } ∧ Tbl.find t.fe.holds slot = some w ∧
                t.rd FE_HOLD_PI = (h1.rd FE_HOLD_PI + 1) % 65536)))) ∧
        (fabric 1 = true →
          (q.linked = true → answers (.connect c subsys) (nvmeStatus 0 0x0C false) 0 (fun _ => True)) ∧
          (q.linked = false → sqeAt e 40 2 ≠ 0 → answers (.connect c subsys) (nvmeStatus 1 0x80 false) 0 (fun _ => True)) ∧
          (connectOk → subsys = none → (q.admin = true ∨ h1.ctl cid = none) →
            answers (.connect c subsys) badConnect 0 (fun _ => True)) ∧
          (connectOk → q.admin = true → ∀ sub : Fin 64, subsys = some sub →
            (h1.freeCtl = none → answers (.connect c subsys) (nvmeStatus 1 0x81 false) 0 (fun _ => True)) ∧
            (h1.freeCtl = some k.val → sqeAt e 42 2 = 0 → cid = 0xFFFF → 1 ≤ size → size ≤ 31 → 1 ≤ v → v ≤ 600000 →
              answers (.connect c subsys) stOk k (fun t => t.rd (FE_C_STS_SUBSYS.nth k) = sub ∧ t.rd (FE_C_STS_NIOQ.nth k) = 0 ∧
                (∃ z, t.ctl k = some z ∧ z.adminQp = n ∧ z.kato = max 1000 v ∧ z.since = since) ∧
                ∃ q', t.qp n = some q' ∧ q'.ctrl = some k.val ∧ q'.linked = true ∧ q'.size = size + 1))) ∧
          (connectOk → q.admin = false → cid = k.val → h1.ctl k = some y → ∀ sub : Fin 64, subsys = some sub →
            h1.rd (FE_C_STS_SUBSYS.nth k) = sub → 1 ≤ sqeAt e 42 2 → sqeAt e 42 2 ≤ 128 → 1 ≤ size → size ≤ 1023 →
            h1.rd (FE_C_STS_NIOQ.nth k) < 128 → (h1.ioQps k).any (fun j => (h1.qp j).any (fun z => z.qid = sqeAt e 42 2)) = false →
              (h1.is (FE_C_STS_RDY.nth k) = false → answers (.connect c subsys) (nvmeStatus 0 0x0C false) 0 (fun _ => True)) ∧
              (h1.is (FE_C_STS_RDY.nth k) = true → answers (.connect c subsys) stOk 0 (fun t =>
                t.rd (FE_C_STS_NIOQ.nth k) = h1.rd (FE_C_STS_NIOQ.nth k) + 1 ∧
                ∃ q', t.qp n = some q' ∧ q'.ctrl = some k.val ∧ q'.linked = true ∧ q'.qid = sqeAt e 42 2 ∧ q'.size = size + 1)))))

/-- HELD_DATA_ENTRY and HELD_RESPONSE_ENTRY: with no entry waiting nothing changes; one not in order is taken, sets BADPOST
and counts as done; DATA in order goes to the host's descriptor as an RDMA WRITE of the bytes; RESPONSE in order sends the
completion and frees the slot, but waits while a bid is open; the other row's entry stays. An accepted FE_ANA write of
legal states gives each group its state and counts the changes, unless the head is fenced; an illegal one changes nothing
but CFGERR. KATO_EXPIRED of a controller that is due records it and ends it, and KILL ends it: not ready, its I/O queues
gone, and it ends or is ending; without one nothing happens. An accepted SPLIT write with the port OFF takes the split,
keeps the sub-port enables that it has and changes no EN written as it is; with another state a new split only sets
CFGERR. -/
def Obligations.ControllersEndAndHeldEntriesAreSent : Prop :=
  ∀ (s : State) (qp : Fin 32768) (a : Access) (g : Fin 16) (ctrl : Fin 4096) (port : Fin 8) (v : Word) (e : QEntry)
    (more : List QEntry) (w slot key addr len : Nat) (x : Work) (q : Qp) (y : Ctl),
    let h := s.head
    let n := qp.val
    let stays (i : Instr) : Prop := Completes i s (fun t => t = h)
    let b := e.body.toNat
    let held : Prop := (h.queue n).waiting = e :: more ∧ h.heldFor n e = some w ∧ h.work w = some x ∧ h.qp n = some q
    let taken (t : Head) : Prop := (t.queue n).waiting = more
    let data := h.bytes (recAt b 16 8) (recAt b 12 4)
    let groups := FE_ANA_GRP.nth g
    let c := ctrl.val
    let u : UnitId := .controller ctrl
    let ended (t : Head) : Prop := t.rd (FE_C_STS_RDY.nth c) = 0 ∧ t.rd (FE_C_STS_NIOQ.nth c) = 0 ∧ t.unitEn u = false ∧
      (∀ j z, t.qp j = some z → z.ctrl = some c → z.admin = true) ∧ (∀ z, t.ctl c = some z → z.ending = true)
    let fs := fieldsAt a.origin (FE_P_CTL_SPLIT.nth port).addr
    let r : RegWrite := { origin := a.origin, level := h.accessLevel a (FE_P_CTL_SPLIT.nth port).addr,
                          index := indexAt fs (FE_P_CTL_SPLIT.nth port).addr, value := v.toNat, fields := fs }
    let split := bitsAt v.toNat 1 2
    let state := h.unitState (.frontPort port)
    let sameEn : Prop := bitAt v.toNat 0 = h.unitEn (.frontPort port)
    h.plt.inReset = false →
      ((h.queue n).waiting = [] → stays (.heldDataEntry qp) ∧ stays (.heldResponseEntry qp)) ∧
      ((h.queue n).waiting = e :: more → h.heldFor n e = none → ∀ i ∈ [Instr.heldDataEntry qp, .heldResponseEntry qp],
        Completes i s (fun t => taken t ∧ t.rd FE_ERR_BADPOST = 1 ∧ (t.queue n).done = (h.queue n).done + 1 ∧ SameMemory h t)) ∧
      (held →
        (recAt b 0 1 = 1 → stays (.heldResponseEntry qp)) ∧ (recAt b 0 1 = 2 → stays (.heldDataEntry qp)) ∧
        (recAt b 0 1 = 1 → x.keys = [(key, addr, len)] → recAt b 8 4 + recAt b 12 4 ≤ len → Completes (.heldDataEntry qp) s (fun t =>
          taken t ∧ t.out = .roce n (.write q.sendPsn key (addr + recAt b 8 4) data) :: h.out ∧ 
            t = { h with fe := t.fe, queues := t.queues, out := t.out })) ∧
        (recAt b 0 1 = 2 → (h.queue n).done + 1 < e.count → stays (.heldResponseEntry qp)) ∧
        (recAt b 0 1 = 2 → h.withholds n = true → stays (.heldResponseEntry qp)) ∧
        (recAt b 0 1 = 2 → h.withholds n = false → e.count ≤ (h.queue n).done + 1 → x.discard = false → x.state = .held slot →
          Completes (.heldResponseEntry qp) s (fun t => taken t ∧ t.work w = none ∧ Tbl.find t.fe.holds slot = none ∧
            .roce n (.response q.sendPsn (if x.inval then (x.keys.head?).map (·.1) else none) x.cid (recAt b 4 2 / 2) (recAt b 24 4))
              ∈ t.out))) ∧
      (Accepted h a groups.addr → (h.accessLevel a groups.addr).reaches .s = true →
        let legal : Bool := (List.range 16).all (fun j => [1, 2, 3, 4, 15].contains (bitsAt v.toNat (4 * j) 4))
        (legal = true → WriteDone (.feAnaWrite a g v) s (fun t =>
          (∀ j < 16, t.rd (FE_ANA_GRP.el g 0 j) = bitsAt v.toNat (4 * j) 4) ∧
          (h.is FE_STS_FENCED = true → t.fe = h.fe) ∧
          (h.is FE_STS_FENCED = false → t.fe.anaChanges = h.fe.anaChanges +
            ((List.range 16).filter (fun j => h.rd (FE_ANA_GRP.el g 0 j) ≠ bitsAt v.toNat (4 * j) 4)).length) ∧
          SameRegistersBut h t ((List.range 16).map (FE_ANA_GRP.el g 0) ++ noteFields))) ∧
        (legal = false → WriteDone (.feAnaWrite a g v) s (fun t => t.rd FE_ERR_CFGERR = 1 ∧ OnlyFields h t [FE_ERR_CFGERR]))) ∧
      (h.ctl c = none → stays (.katoExpired ctrl)) ∧
      (h.ctl c = some y →
        (y.ending = true ∨ h.mer.sinceReset < y.since + y.kato * 25000 → stays (.katoExpired ctrl)) ∧
        (y.ending = false → y.since + y.kato * 25000 ≤ h.mer.sinceReset → Completes (.katoExpired ctrl) s (fun t =>
          ended t ∧ Recorded h t 0x0105 1 c y.kato h.epoch 0)) ∧
        (Accepted h a (FE_C_CTL_KILL.nth c).addr → bitAt v.toNat 1 = true → WriteDone (.feKillWrite a ctrl v) s ended)) ∧
      (Accepted h a (FE_C_CTL_KILL.nth c).addr → bitAt v.toNat 1 = false → bitAt v.toNat 0 = h.unitEn u →
        WriteDone (.feKillWrite a ctrl v) s (fun t => t = h)) ∧
      (Accepted h a (FE_P_CTL_SPLIT.nth port).addr → h.writeOk r [FE_P_CTL_SPLIT, FE_P_CTL_SUBEN, FE_P_CTL_EN] = true → sameEn →
        (state = uOff → split < 3 → WriteDone (.feSplitWrite a port v) s (fun t => t.split port = split ∧
          (∀ j < 4, bitAt (t.rd (FE_P_CTL_SUBEN.nth port)) j = ((subports split).contains j && bitAt v.toNat (4 + j))) ∧
          t.unitState (.frontPort port) = uOff ∧ t.unitEn (.frontPort port) = h.unitEn (.frontPort port))) ∧
        (state ≠ uOff → split ≠ h.split port → WriteDone (.feSplitWrite a port v) s (fun t => t.split port = h.split port ∧
          t.rd FE_ERR_CFGERR = 1)))

/-- Accepted writes of MEM_CTL and MEM_TEST, and the controller's events. GO without a population, with role 1 or 2 on a
failed slot or without randomness sets CFGERR only; otherwise the shadow sets are in force, the DRAM key is 64 bytes in
role 1, RUN is 1 and FILLDONE 0. The fill zeroes installed DRAM and no other byte, sets FILLDONE and is recorded. A slot
due refreshes its channel. FCHG arms the next epoch, or sets CFGERR while a window is open or with a rate R426 does not
allow. The window swaps the sets, takes the rate, drains the merge buffer and is recorded; with a repair armed it leaves
its result. A scrub step with nothing found moves on, or ends the pass; an uncorrectable line becomes poison. OP 1 to 3
read and write a line raw while EN is 1, and memory shows there what the code then makes of it. A merge entry that times
out leaves the buffer. What is not due changes nothing. -/
def Obligations.DramStartsRefreshesChangesRateAndScrubs : Prop :=
  ∀ (s : State) (x : Access) (v : Word) (ch : Fin 12) (rep : Fin 3) (ns : BitVec 32) (ticks : BitVec 16) (line : BitVec 48) (en : Bool)
    (m : Nat),
    let h := s.head
    let stays (i : Instr) : Prop := Completes i s (fun t => t = h)
    let rate := bitsAt v.toNat 0 3
    let other (b : Nat) : Prop := bitAt v.toNat b = false ∧ rate ≤ 4
    let goOk : Prop := h.rd MEM_CFG_CHANS ≠ 0 ∧ h.roleFailed 1 = false ∧ h.roleFailed 2 = false ∧ h.is UMB_STS_RNGOK = true
    let fchgOk : Prop := h.is MEM_STS_FCHGBUSY = false ∧ h.rateOk rate = true
    let due : Prop := h.is MEM_STS_RUN = true ∧ ch.val < h.rd MEM_CFG_CHANS ∧ h.mer.tick % 97 = 8 * ch.val ∧ h.is MEM_STS_FCHGBUSY = false
    let n := min ticks.toNat (h.budgetLeft 3 0)
    let total := h.installed / 64
    let first := (h.rd MEM_SCRPOS_NEXT * 64 - dramBase) / 64
    let count := min (n * 16 * h.rd MEM_CFG_CHANS) total
    let scrubs : Prop := h.is MEM_STS_FILLDONE = true ∧ n ≠ 0 ∧ h.memc.lines = [] ∧ h.installed ≤ 2 ^ 47
    let test : List Field := [MEM_TEST_EN, MEM_STS_TEST]
    let tested (t : Head) : Prop := t.rd MEM_TEST_EN = en.toNat ∧ t.rd MEM_STS_TEST = en.toNat
    let raw (c k : List Byte) (t : Head) : Prop := tested t ∧ SameRegistersBut h t test ∧
      Tbl.find t.memc.lines m = some { cipher := c, check := k, poison := decide (k = Config.poisonCheck) } ∧
      SameMemoryBut h t (lineAddr m) 64 ∧
      t.bytes (lineAddr m) 64 = (h.plainOf m c k).getD (h.bytes (lineAddr m) 64) ∧
      (∀ l, l ≠ m → Tbl.find t.memc.lines l = Tbl.find h.memc.lines l)
    let regs := test ++ (List.range 8).map MEM_TDATA_D.nth ++ (List.range 2).map MEM_TCHK_D.nth
    (Accepted h x MEM_CTL_GO.addr →
      (other 4 → goOk → WriteDone (.memGoWrite x v) s (fun t => (∀ p ∈ timingSets, t.rd p.1 = h.rd p.2) ∧ t.rd MEM_STS_RUN = 1 ∧
        t.rd MEM_STS_FILLDONE = 0 ∧ t.rd MEM_CTL_RATE = rate ∧ t.rd MEM_STS_RATE = rate ∧ t.memc.key.length = 64 ∧
        Tbl.find t.umb.slots (h.rd (UMB_DEVMAP_SLOT.el 0 0 1)) =
          some (.loaded { key := t.memc.key, salt := [], kind := 1, use := 0, keyid := 0 }) ∧ SameMemory h t)) ∧
      (other 4 → ¬ goOk → WriteDone (.memGoWrite x v) s (fun t => t.rd MEM_ERR_CFGERR = 1 ∧ t.rd MEM_CTL_RATE = rate ∧
        OnlyFields h t [MEM_ERR_CFGERR, MEM_CTL_RATE])) ∧
      (4 < rate → WriteDone (.memGoWrite x v) s (fun t => t.rd MEM_ERR_CFGERR = 1 ∧ OnlyFields h t [MEM_ERR_CFGERR])) ∧
      (other 3 → fchgOk → WriteDone (.memFchgWrite x v) s (fun t => t.rd MEM_CTL_RATE = rate ∧ SameRegistersBut h t [MEM_CTL_RATE] ∧
        t = { h with fields := t.fields, memc := { h.memc with fchgAt := some (h.epoch + 1) } })) ∧
      (other 3 → ¬ fchgOk → WriteDone (.memFchgWrite x v) s (fun t => t.rd MEM_ERR_CFGERR = 1 ∧
        OnlyFields h t [MEM_ERR_CFGERR, MEM_CTL_RATE]))) ∧
    (Accepted h x MEM_TEST_EN.addr →
      (en = false ∨ h.testLine = none → ∀ i ∈ [Instr.memTestRawRead x en, .memTestRawWrite x en, .memTestCheckWrite x en],
        WriteDone i s (fun t => tested t ∧ OnlyFields h t test)) ∧
      (en = true → h.testLine = some m →
        WriteDone (.memTestRawRead x en) s (fun t => tested t ∧ OnlyFields h t regs ∧
          (∀ i < 8, t.rd (MEM_TDATA_D.nth i) = leAt (h.cells m).1 (8 * i) 8) ∧
          (∀ i < 2, t.rd (MEM_TCHK_D.nth i) = leAt (h.cells m).2 (8 * i) 8)) ∧
        WriteDone (.memTestRawWrite x en) s (raw h.testData h.testCheck) ∧
        WriteDone (.memTestCheckWrite x en) s (raw (h.cells m).1 h.testCheck))) ∧
    (h.plt.inReset = false →
      (h.is MEM_STS_RUN = false ∨ h.is MEM_STS_FILLDONE = true → stays .fillDone) ∧
      (h.is MEM_STS_RUN = true → h.is MEM_STS_FILLDONE = false → Completes .fillDone s (fun t => t.rd MEM_STS_FILLDONE = 1 ∧
        (∀ a, t.byte a = if dramBase ≤ a ∧ a < dramBase + h.installed then 0 else h.byte a) ∧ t.memc.lines = [] ∧ t.memc.merge = [] ∧
        Recorded h t 0x0A07 0 h.installed (h.mer.sinceReset - h.memc.goTick) 0 0 ∧
        SameRegistersBut h t (MEM_STS_FILLDONE :: noteFields))) ∧
      (due → Completes (.refreshSlot ch) s (fun t => t = { h with
        out := .refresh ch (2 ^ h.rd MEM_CFG_RBITS) (if bitAt (h.rd MEM_STS_HOTREF) ch then 2 else 1) :: h.out })) ∧
      (¬ due → stays (.refreshSlot ch)) ∧
      (h.is MEM_STS_FCHGBUSY = false → stays (.freqChangeWindow rep ns)) ∧
      (h.is MEM_STS_FCHGBUSY = true → Completes (.freqChangeWindow rep ns) s (fun t =>
        (∀ p ∈ timingSets, t.rd p.1 = h.rd p.2 ∧ t.rd p.2 = h.rd p.1) ∧ t.rd MEM_STS_FCHGBUSY = 0 ∧ t.memc.merge = [] ∧
        t.memc.fchgAt = none ∧ t.rd MEM_STS_RATE = h.rd MEM_CTL_RATE % 2 ^ 3 ∧
        (h.is MEM_PPR_GO = false → SameMemory h t ∧ t.memc.lines = h.memc.lines ∧
          Recorded h t 0x0A04 0 (h.rd MEM_STS_RATE) (h.rd MEM_CTL_RATE % 2 ^ 3) ns.toNat h.epoch) ∧
        (h.is MEM_PPR_GO = true → t.rd MEM_PPR_GO = 0 ∧ t.rd MEM_PPR_RESULT = rep.val + 1 ∧ (rep.val ≠ 0 → t.rd MEM_ERR_PPRFAIL = 1)))) ∧
      (h.is MEM_STS_FILLDONE = false ∨ n = 0 → stays (.scrubStep ticks [])) ∧
      (scrubs → first + count < total → Completes (.scrubStep ticks []) s (fun t =>
        t.rd MEM_SCRPOS_NEXT = lineAddr (first + count) / 64 ∧ SameRegistersBut h t [MEM_SCRPOS_NEXT] ∧ SameMemory h t ∧
        t.budgetLeft 3 0 = h.budgetLeft 3 0 - n)) ∧
      (scrubs → first < total → total ≤ first + count → Completes (.scrubStep ticks []) s (fun t =>
        t.rd MEM_SCRPOS_PASSES = min (h.rd MEM_SCRPOS_PASSES + 1) 65535 ∧ t.memc.passCe = 0 ∧ t.memc.passUe = 0 ∧ SameMemory h t)) ∧
      (scrubs → first ≤ m → m < first + count → first + count < total → Completes (.scrubStep ticks [(m, .uncorrectable)]) s (fun t =>
        Tbl.find t.memc.lines m = some { cipher := [], check := [], poison := true } ∧ t.rd MEM_ERR_UE = 1 ∧
        Recorded h t 0x0A01 2 (lineAddr m) t.elog1 6 0)) ∧
      Completes (.mergeEntryTimeout line) s (fun t =>
        t = { h with memc := { h.memc with merge := h.memc.merge.filter (· ≠ line.toNat) } }))

/-- VEIL_FILL_COMPLETE of an entry being filled makes every line valid and releases the slot; of another it changes nothing.
An accepted VEIL_OP write while BUSY, or with a cache or an index out of range, changes nothing but CFGERR. Otherwise BUSY
is 1, the operation is applied to the named entry of one cache, after its fill, and other entries stay: a clean keeps the
entry without dirty lines; an invalidate at level V drops it and memory shows what DRAM held under its dirty lines; an
invalidate at another level and a clean-and-invalidate drop it with memory as it was. With no entry holding the page only
the registers change. VEIL_OP_DONE clears BUSY. The counts of dirty and filling entries follow. -/
def Obligations.VeilFillsAndMaintenance : Prop :=
  ∀ (s : State) (x : Access) (v : Word) (c : Fin 28) (e : Fin 48),
    let h := s.head
    let n := v.toNat
    let y := h.veil c e
    let filled : VeilEntry := if y.filling then { y with filling := false, valid := BitVec.allOnes 64 } else y
    let others (t : Head) : Prop := ∀ (d : Fin 28) (i : Fin 48), (d, i) ≠ (c, e) → t.veil d i = h.veil d i
    let counts (t : Head) : Prop :=
      t.rd (VEIL_C_STS_DIRTY.nth c) = ((List.range 48).filter (fun i => (t.veil c i).dirty ≠ 0)).length ∧
      t.rd (VEIL_C_STS_FILLS.nth c) = ((List.range 48).filter (fun i => (t.veil c i).filling)).length % 16
    let shown := [VEIL_C_STS_DIRTY.nth c, VEIL_C_STS_FILLS.nth c]
    let keep := [VEIL_OP_OP, VEIL_OP_BY, VEIL_OP_ALL, VEIL_OP_CACHE, VEIL_OP_INDEX, VEIL_OP_BUSY]
    let ops : List (Instr × Nat) := [(.veilClean x v, 1), (.veilInvalidate x v, 2), (.veilCleanInvalidate x v, 3)]
    let refused : Prop := h.is VEIL_OP_BUSY = true ∨ (bitAt n 3 = false ∧ 28 ≤ bitsAt n 4 5) ∨ (bitAt n 2 = true ∧ 48 ≤ bitsAt n 10 6)
    let page := h.rd VEIL_OPADDR_PAGE * 4096
    let one : Prop := h.is VEIL_OP_BUSY = false ∧ bitAt n 3 = false ∧ bitsAt n 4 5 = c.val
    let named : Prop := one ∧ ((bitAt n 2 = true ∧ bitsAt n 10 6 = e.val) ∨ (bitAt n 2 = false ∧ h.veilHit c page = some e.val))
    let starts (op : Nat) (t : Head) : Prop := t.rd VEIL_OP_OP = op ∧ t.rd VEIL_OP_BUSY = 1 ∧ t.rd VEIL_OP_CACHE = c
    let leaves (i : Instr) (op : Nat) (z : VeilEntry) : Prop := WriteDone i s (fun t => starts op t ∧ t.veil c e = z ∧ others t ∧
      counts t ∧ SameMemory h t ∧ SameRegistersBut h t (keep ++ shown))
    (h.plt.inReset = false →
      (y.filling = false → Completes (.veilFillComplete c e) s (fun t => t = h)) ∧
      (y.filling = true → Completes (.veilFillComplete c e) s (fun t => t.veil c e = filled ∧ others t ∧ counts t ∧
        OnlyFields { h with veilEntries := t.veilEntries } t shown)) ∧
      Completes .veilOpDone s (fun t => t.rd VEIL_OP_BUSY = 0 ∧ OnlyFields h t [VEIL_OP_BUSY])) ∧
    (Accepted h x VEIL_OP_OP.addr →
      (refused → ∀ o ∈ ops, WriteDone o.1 s (fun t => t.rd VEIL_ERR_CFGERR = 1 ∧ OnlyFields h t [VEIL_ERR_CFGERR])) ∧
      (one → bitAt n 2 = false → h.veilHit c page = none → ∀ o ∈ ops, WriteDone o.1 s (fun t => starts o.2 t ∧ OnlyFields h t keep)) ∧
      (named →
        leaves (.veilClean x v) 1 { filled with dirty := 0, under := [], old := none } ∧ leaves (.veilCleanInvalidate x v) 3 VeilEntry.none ∧
        (h.accessLevel x VEIL_OP_OP.addr ≠ .v → leaves (.veilInvalidate x v) 2 VeilEntry.none) ∧
        (h.accessLevel x VEIL_OP_OP.addr = .v → WriteDone (.veilInvalidate x v) s (fun t => starts 2 t ∧ t.veil c e = VeilEntry.none ∧
          others t ∧ counts t ∧ SameRegistersBut h t (keep ++ shown) ∧
          t.mem = y.under.foldl (fun m u => Memory.writeAll m (y.page + 64 * u.1) u.2) h.mem))))

/-- An accepted write of UMB_CMD while an operation runs only sets CFGERR. Otherwise BUSY is 1 and the answer waiting is the
first of R466's conditions, in its order. NONCE draws 48 bytes and shows them. UNLOCK sets UNLOCKED and clears the latch,
or counts a bad credential; it, IMPORT_AKEK and TESTENTRY consume the challenge. IMPORT_AKEK stages the pool key for role
0 and writes it sealed after its input, LOAD_AKEK stages it from the sealed form, UNWRAP stages a key for its slot. ZERO
empties an ordinary slot and records the key it held. DIKPUB writes the device public key and the serial number. OWN fuses
the hash of the owner's key. TESTENTRY retires the part, damages the root secret, sets the latch and zeroes every slot
that has not failed. UMB_CMD_COMPLETE shows the answer, clears BUSY and loads the staged key, recorded; with no operation
running it changes nothing. -/
def Obligations.UmbraOperations : Prop :=
  ∀ (s : State) (x : Access) (slot : BitVec 16) (st k : Nat) (r : KeyRec) (b : List Byte),
    let h := s.head
    let o := x.origin
    let l := h.accessLevel x UMB_CMD_OP.addr
    let a := h.rd UMB_ADDR_ADDR * 8
    let n := slot.toNat
    let ends (i : Instr) (st : Nat) (P : Head → Prop) : Prop := WriteDone i s (fun t =>
      t.umb.answer = some st ∧ t.rd UMB_CMDSTS_BUSY = 1 ∧ P t)
    let rows : List Instr := [.nonce x, .unlock x, .importAkek x, .loadAkek x, .unwrap x slot, .zero x slot, .dikpub x, .own x,
      .testentry x]
    let retired := h.plt.fuses.retired
    let owned := h.plt.fuses.ownHash.isSome
    let key (z : Option (List Byte)) (p : KeyRec → Bool) : Option KeyRec := (z.bind parseKeyRec).filter p
    let pool := h.roleSlot 0
    let in1 := h.bytes a 200
    let good := decide (h.plt.fuses.ownHash = some (sha384 (in1.take 97))) &&
      Config.ecdsaVerify (in1.take 97) (h.challengeMsg 1) ((in1.drop 104).take 96)
    let unlocks := firstStatus [(! h.umbAddrOk o l 200 false || leAt in1 97 7 ≠ 0, 1), (retired, 9), (! owned, 10),
      (decide (8 ≤ h.rd UMB_STS_CREDFAILS), 4), (h.umb.nonce.isNone, 2), (! good, 3)]
    let in2 := h.bytes a 192
    let imported := (Config.ecdh h.dik (in2.take 97)).bind (fun z =>
      Config.unwrap5649 (kdf z "CH9K import" (h.serial ++ h.umb.nonce.getD []) 1) ((in2.drop 104).take 88))
    let imports := firstStatus [(! h.umbAddrOk o l 280 true || leAt in2 97 7 ≠ 0, 1), (retired, 9), (! owned, 10),
      (! h.is UMB_STS_UNLOCKED, 4), (h.umb.nonce.isNone, 2), ((key imported (·.kind = 5)).isNone, 5), (h.slotFailed pool, 7)]
    let loaded := key (Config.unwrap5649 h.dsk (h.bytes a 88)) (·.kind = 5)
    let loads := firstStatus [(! h.umbAddrOk o l 88 false, 1), (retired, 9), (h.umb.latch, 4), (loaded.isNone, 5),
      (h.slotFailed pool, 7)]
    let unwrapped : Option KeyRec := (h.roleKey 0).bind (fun z => key (Config.unwrap5649 z.key (h.bytes a 88)) (·.kind ≠ 5))
    let kind : Nat := (unwrapped.map (·.kind)).getD 0
    let target : Nat := if kind = 3 then h.roleSlot 4 else if kind = 4 then h.roleSlot 5 else n
    let unwraps := firstStatus [(! h.umbAddrOk o l 88 false, 1), (retired, 9), ((h.roleKey 0).isNone, 8), (unwrapped.isNone, 5),
      ((decide (kind ≤ 2) && decide (n < 256)) || h.slotFailed target, 7), ((h.slotKey target).isSome, 6)]
    let dikpubs := firstStatus [(! h.umbAddrOk o l 113 true, 1)]
    let owns := firstStatus [(l ≠ .v || ! h.umbAddrOk o l 97 false, 1), (retired, 9), (owned, 10)]
    let in9 := h.bytes a 7680
    let signed := decide (leAt in9 5 1 = 0) && h.sigOk in9 (h.challengeMsg 3)
    let retires := firstStatus [(l ≠ .v || ! h.umbAddrOk o l 7680 false, 1), (retired, 9), (! owned, 10), (h.umb.nonce.isNone, 2),
      (! signed, 3)]
    let failed (op : Nat) (t : Head) : Prop := t.rd UMB_ERR_CREDFAIL = 1 ∧
      t.rd UMB_STS_CREDFAILS = (if op = 2 then min (h.rd UMB_STS_CREDFAILS + 1) (2 ^ UMB_STS_CREDFAILS.width - 1) else h.rd UMB_STS_CREDFAILS) ∧
      Recorded h t 0x0B04 2 op (t.rd UMB_STS_CREDFAILS) 0 0
    (Accepted h x UMB_CMD_OP.addr →
      (h.is UMB_CMDSTS_BUSY = true → ∀ i ∈ rows, WriteDone i s (fun t => t.rd UMB_ERR_CFGERR = 1 ∧ OnlyFields h t [UMB_ERR_CFGERR])) ∧
      (h.is UMB_CMDSTS_BUSY = false →
        (h.is UMB_STS_RNGOK = false → ends (.nonce x) 11 (fun t => t.umb.nonce = h.umb.nonce)) ∧
        (h.is UMB_STS_RNGOK = true → ends (.nonce x) 0 (fun t => ∃ z, t.umb.nonce = some z ∧ z.length = 48 ∧
          ∀ i < 6, t.rd (UMB_NONCE_N.nth i) = leAt z (8 * i) 8)) ∧
        ends (.unlock x) unlocks (fun t => t.umb.nonce = none ∧
          (unlocks = 0 → t.rd UMB_STS_UNLOCKED = 1 ∧ t.umb.latch = false ∧ Recorded h t 0x0B08 1 h.umb.latch.toNat 0 0 0) ∧
          (unlocks ≠ 0 → t.rd UMB_STS_UNLOCKED = h.rd UMB_STS_UNLOCKED ∧ t.umb.latch = h.umb.latch) ∧ (unlocks = 3 → failed 2 t)) ∧
        ends (.importAkek x) imports (fun t => t.umb.nonce = none ∧
          (imports = 0 → imported = some b → key imported (·.kind = 5) = some r → t.umb.staged = some (pool, r) ∧
            t.mem = (h.put (a + 192) (Config.wrap5649 h.dsk b)).mem) ∧
          (imports ≠ 0 → t.umb.staged = h.umb.staged ∧ SameMemory h t)) ∧
        ends (.loadAkek x) loads (fun t => SameMemory h t ∧ (loads = 0 → loaded = some r → t.umb.staged = some (pool, r)) ∧
          (loads ≠ 0 → t.umb.staged = h.umb.staged)) ∧
        ends (.unwrap x slot) unwraps (fun t => SameMemory h t ∧ (unwraps = 0 → unwrapped = some r → t.umb.staged = some (target, r)) ∧
          (unwraps ≠ 0 → t.umb.staged = h.umb.staged)) ∧
        (n < 256 ∨ h.slotFailed n = true → ends (.zero x slot) 7 (fun t => t.umb.slots = h.umb.slots)) ∧
        (256 ≤ n → h.slotFailed n = false → ends (.zero x slot) 0 (fun t => t.slotKey n = none ∧
          (∀ m, m ≠ n → t.slotKey m = h.slotKey m) ∧ (h.slotKey n = some r → Recorded h t 0x0B03 0 n r.keyid 0 0))) ∧
        ends (.dikpub x) dikpubs (fun t =>
          (dikpubs = 0 → t.mem = (h.put a ((Config.p384Public h.dik).take 97 ++ h.serial)).mem) ∧ (dikpubs ≠ 0 → SameMemory h t)) ∧
        ends (.own x) owns (fun t => t.plt.fuses = { h.plt.fuses with
          ownHash := if owns = 0 then some (sha384 (h.bytes a 97)) else h.plt.fuses.ownHash }) ∧
        ends (.testentry x) retires (fun t => t.umb.nonce = none ∧
          (retires = 0 → t.plt.fuses.retired = true ∧ t.umb.drsDamaged = true ∧ t.umb.latch = true ∧ (∀ m, t.slotKey m = none) ∧
            (∀ m, h.slotFailed m = true → t.slotFailed m = true) ∧ Recorded h t 0x0B09 3 0 0 0 0) ∧
          (retires ≠ 0 → t.umb.latch = h.umb.latch ∧ t.plt.fuses = h.plt.fuses ∧ t.umb.slots = h.umb.slots) ∧
          (retires = 3 → failed 9 t)))) ∧
    (h.plt.inReset = false →
      (h.umb.answer = none → Completes .umbCmdComplete s (fun t => t = h)) ∧
      (h.umb.answer = some st → Completes .umbCmdComplete s (fun t => t.rd UMB_CMDSTS_STATUS = st % 2 ^ 8 ∧ t.rd UMB_CMDSTS_BUSY = 0 ∧
        t.umb.answer = none ∧ t.umb.staged = none ∧ SameMemory h t ∧
        (h.umb.staged = none → t.umb.slots = h.umb.slots) ∧
        (h.umb.staged = some (k, r) → t.slotKey k = some r ∧ (∀ m, m ≠ k → t.slotKey m = h.slotKey m) ∧
          Recorded h t 0x0B02 0 k r.kind r.use r.keyid))))

/-- An accepted UMB_DEVMAP write that moves one role to a sound spare slot that no other role has moves it and is recorded,
one that moves none changes no role, and one that names a slot below 240, failed or taken only sets CFGERR. An alarm with
a source, other than SUPPLY while PORST_N is low, leaves no key in any slot, sets the latch, records its sources, and
holds the head in reset; without one nothing changes. ALARM_RELEASE ends the hold. A failed health test sets RNGFAIL,
clears RNGOK and is recorded. GO of a digest unit, idle, with a defined algorithm and a range that level V may read, sets
BUSY and takes the digest of its bytes in Billow, or in DRAM that is filled and reports no error, and of the Afterglow
window, and ends in ERR before the fill; a busy unit, an undefined algorithm or another range sets CFGERR. UMB_DG_DONE
shows the result in RES0 to RES7, ERR, and clears BUSY; with no run it changes nothing. -/
def Obligations.UmbraRolesAlarmsAndDigests : Prop :=
  ∀ (s : State) (x : Access) (j : Fin 2) (v : Word) (r : Fin 8) (u : Fin 4) (alg : BitVec 3) (sources : BitVec 5) (test : Word)
    (d : DigestRun),
    let h := s.head
    let role := 8 * j.val + r.val
    let named (q : Nat) : Nat := if q / 8 = j.val then bitsAt v.toNat (8 * (q % 8)) 8 else h.roleSlot q
    let taken : Prop := ∃ q < 16, q ≠ role ∧ named q = named role
    let onlyRole : Prop := ∀ q < 16, q ≠ role → named q = h.roleSlot q
    let sound : Prop := 240 ≤ named role ∧ h.slotFailed (named role) = false ∧ ¬ taken
    let armed : BitVec 5 := if h.plt.inReset = true ∧ h.plt.resetKind = 0 then sources &&& 0b11110#5 else sources
    let ctl := UMB_DG_CTL_ALG.nth u
    let busy := UMB_DG_CTL_BUSY.nth u
    let a := h.rd (UMB_DG_ADDR_ADDR.nth u)
    let n := h.rd (UMB_DG_LEN_LEN.nth u)
    let window : Prop := afterglowBase ≤ a ∧ a + n ≤ afterglowBase + 2 ^ 23
    let readable : Prop := h.inMemory a n = true ∨ a + n ≤ romSize ∨ window
    let defined : Prop := h.is busy = false ∧ 1 ≤ alg.toNat ∧ alg.toNat ≤ 5 ∧ readable
    (Accepted h x (UMB_DEVMAP_SLOT.nth j).addr →
      (onlyRole → named role = h.roleSlot role → WriteDone (.umbDevmapWrite x j v) s (fun t => ∀ q < 16, t.roleSlot q = h.roleSlot q)) ∧
      (onlyRole → named role ≠ h.roleSlot role → sound → WriteDone (.umbDevmapWrite x j v) s (fun t =>
        (∀ q < 16, t.roleSlot q = named q) ∧ t.umb.slots = h.umb.slots ∧
          Recorded h t 0x0B06 1 role (h.roleSlot role) (named role) 0)) ∧
      (named role ≠ h.roleSlot role → ¬ sound → WriteDone (.umbDevmapWrite x j v) s (fun t =>
        t.rd UMB_ERR_CFGERR = 1 ∧ OnlyFields h t [UMB_ERR_CFGERR]))) ∧
    (Accepted h x ctl.addr →
      (defined → h.inDram a n = true → h.is MEM_STS_FILLDONE = false → WriteDone (.umbDgGo x u alg) s (fun t => t.rd busy = 1 ∧
        Tbl.find t.umb.digests u = some { result := [], err := true })) ∧
      (defined → (inBillow a n = true ∨ (h.inDram a n = true ∧ h.is MEM_STS_FILLDONE = true ∧ CleanLines h a n)) → WriteDone (.umbDgGo x u alg) s (fun t => t.rd ctl = alg.toNat ∧ t.rd busy = 1 ∧
        Tbl.find t.umb.digests u = some { result := (hash (dgAlg alg.toNat) (h.bytes a n)).take 64, err := false } ∧
        SameMemory h t ∧ SameRegistersBut h t [ctl, busy, UMB_DG_CTL_ERR.nth u])) ∧
      (defined → h.inMemory a n = false → window → WriteDone (.umbDgGo x u alg) s (fun t => t.rd busy = 1 ∧
        Tbl.find t.umb.digests u = some { result := (hash (dgAlg alg.toNat) (h.agBytes (a - afterglowBase) n)).take 64, err := false })) ∧
      (defined → h.inMemory a n = false → a + n ≤ romSize → WriteDone (.umbDgGo x u alg) s (fun t => t.rd busy = 1 ∧
        ∃ b, Tbl.find t.umb.digests u = some { result := b, err := false })) ∧
      (¬ defined → WriteDone (.umbDgGo x u alg) s (fun t => t.rd UMB_ERR_CFGERR = 1 ∧ OnlyFields h t [ctl, UMB_ERR_CFGERR]))) ∧
    (armed = 0 → Completes (.alarm sources) s (fun t => t = h)) ∧
    (armed ≠ 0 → Completes (.alarm sources) s (fun t => t.umb.slots = [] ∧ t.umb.latch = true ∧ t.umb.lastAlarm = armed.toNat ∧
      t.umb.holding = true ∧ t.plt.inReset = true ∧ t.rd UMB_ALARM_ACTIVE = armed.toNat ∧ t.plt.resetKind = 5 ∧
      t.plt.fuses = h.plt.fuses ∧ t.modules = h.modules ∧ Recorded h t 0x0B01 3 armed.toNat h.mer.tick 0 0)) ∧
    Completes .alarmRelease s (fun t => t.umb = { h.umb with holding := false } ∧ t.rd UMB_ALARM_ACTIVE = 0 ∧
      SameRegistersBut h t [UMB_ALARM_ACTIVE] ∧ t = { h with umb := t.umb, fields := t.fields }) ∧
    (h.plt.inReset = false →
      Completes (.rngHealthFail test) s (fun t => t.rd UMB_ERR_RNGFAIL = 1 ∧ t.rd UMB_STS_RNGOK = 0 ∧
        Recorded h t 0x0B0A 3 test.toNat 0 0 0 ∧ Beside h t [UMB_ERR_RNGFAIL, UMB_STS_RNGOK] h) ∧
      (Tbl.find h.umb.digests u = none → Completes (.umbDgDone u) s (fun t => t = h)) ∧
      (Tbl.find h.umb.digests u = some d → Completes (.umbDgDone u) s (fun t => t.rd busy = 0 ∧
        t.rd (UMB_DG_CTL_ERR.nth u) = d.err.toNat ∧ (∀ i < 8, t.rd (UMB_DG_RES_D.el u i 0) = leAt d.result (8 * i) 8) ∧
        Tbl.find t.umb.digests u = none ∧ SameMemory h t)))

/-- POWER_ON_RESET, PIN_RESET, an expired watchdog, an expired confirmation window and PLT_RST.GO put the head in reset: every
register field but Afterglow's reads its reset value, every context is as at reset, memory holds nothing, no key slot
holds a key, and fuses, alarm latch, boot flash and modules stay, with the kind for PLT_RCAUSE. Where a dump precedes,
this is shown for a head that has nothing to dump. WATCHDOG_EXPIRY is recorded. A watchdog or window that is not due
changes nothing, nor does PLT_RST without GO. RESET_RELEASE of a head that an alarm does not hold and that has not started
ends the reset, shows the straps, the cause and the flash devices that answer, takes the first patch block that passes,
makes the device storage key, and enters recovery where the strap says so; otherwise it changes nothing. -/
def Obligations.ResetsAndTheStart : Prop :=
  ∀ (s : State) (x : Access) (v : Word) (straps : Straps) (tests : StartTests) (m : BitVec 4),
    let h := s.head
    let held (kind : Nat) (t : Head) : Prop := t.plt.inReset = true ∧ t.plt.started = false ∧ t.plt.resetKind = kind ∧
      t.plt.dumped = false ∧ t.mem = [] ∧ t.umb.slots = [] ∧ t.umb.latch = h.umb.latch ∧ t.plt.fuses = h.plt.fuses ∧
      t.plt.flash0 = h.plt.flash0 ∧ t.plt.flash1 = h.plt.flash1 ∧ t.modules = h.modules ∧
      (∀ f : Field, (∀ g ∈ heldFields, f.key ≠ g.key) → t.rd f = f.reset % 2 ^ 64) ∧ (∀ k, t.ctx k = State.reset.head.ctx k)
    let stays (i : Instr) : Prop := Completes i s (fun t => t = h)
    let clean : Prop := h.plt.stopped = false ∧ h.fb.dirty = false
    let due : Prop := h.is PLT_WDOG_EN = true ∧ h.plt.wdogStart + h.rd PLT_WDOG_PERIOD * 25000 ≤ h.mer.sinceReset
    let windowOver : Prop := h.is DAY_STS_TRIAL = true ∧ ((h.plt.windowOpen = true ∧ h.rd DAY_WINLEFT_EPOCHS = 0) ∨
      (h.plt.windowOpen = false ∧ h.is MER_STS_EPVALID = false ∧
        h.plt.released + h.rd DAY_CTL_WINDOW * 25000000 ≤ h.mer.sinceReset))
    let release := Instr.resetRelease straps tests
    let free : Prop := h.umb.holding = false ∧ h.plt.started = false
    Completes .powerOnReset s (fun t => held 0 t ∧ t.ag = h.ag) ∧
    Completes .pinReset s (fun t => held 1 t ∧ t.ag = h.ag) ∧
    (h.plt.inReset = false →
      (¬ due → stays .watchdogExpiry) ∧
      (due → clean → Completes .watchdogExpiry s (fun t => held 2 t ∧
        Recorded h t 0x0006 3 (h.rd PLT_WDOG_PERIOD) h.plt.lastKick 0 0)) ∧
      (¬ windowOver → stays .confirmationReset) ∧
      (windowOver → clean → Completes .confirmationReset s (fun t => held 3 t ∧ t.ag = h.ag))) ∧
    (Accepted h x PLT_RST_GO.addr →
      (bitAt v.toNat 0 = false → WriteDone (.pltRstWrite x v) s (fun t => t = h)) ∧
      (bitAt v.toNat 0 = true → (bitAt v.toNat 1 = false ∨ clean) → WriteDone (.pltRstWrite x v) s (fun t => held 4 t ∧ t.ag = h.ag))) ∧
    (¬ free → stays release) ∧
    (free → Completes release s (fun t => t.plt.inReset = false ∧ t.plt.started = true ∧ t.plt.straps = straps ∧
      t.rd PLT_STRAP_HEAD_ID = straps.headId.toNat ∧ t.rd PLT_STRAP_RECOV = straps.recov.toNat ∧
      t.rd PLT_STRAP_SVCEN = straps.svcEn.toNat ∧ t.rd PLT_RCAUSE_KIND = h.plt.resetKind % 2 ^ 3 ∧
      t.rd PLT_RCAUSE_DUMPED = h.plt.dumped.toNat ∧ t.rd DAY_STS_FLDEVOK = tests.flash0.toNat + 2 * tests.flash1.toNat ∧
      (straps.recov = true → t.rd DAY_STS_RECOVERY = 1) ∧ (tests.rngOk = false → t.rd UMB_STS_RNGOK = 0) ∧
      (tests.flash0 = true → tests.patch0 = some m → t.plt.patchMask = m.toNat) ∧
      (tests.failedSlots = [] → h.retiredLog = [] → h.slotFailed (h.roleSlot 6) = false → h.roleSlot 2 ≠ h.roleSlot 6 →
        t.roleKey 6 = some { key := h.dsk, salt := [], kind := 1, use := 0, keyid := 0 })))

/-- An accepted DAY_CMD write starts its operation with the operands in the registers, or sets CFGERR while one runs.
DAY_CMD_COMPLETE clears BUSY and shows a status: READ copies the flash to memory, PROGRAM over erased bytes and ERASE
change the flash, each with its range checked; a failed READ marks the device and is recorded; VERIFY marks a slot that
passes on every good device; ACTIVATE needs a verified slot and no trial, and is recorded; FUSEKEY and REVOKE act once on
their index. DAY_CONFIRM ends a trial, CFGERR outside one. KICK restarts the count. AG_POST posts an allowed record,
CFGERR otherwise. A token comes when its ticks have passed, up to 4096. REPLAY gives a frame for every record. SVC_PERST
sets the port's reset. THROTTLE_CHANGE shows the sensor and changes ACTIVE, recorded, at the thresholds. -/
def Obligations.BootFlashWatchdogAndRecorder : Prop :=
  ∀ (s : State) (x : Access) (dev idx : BitVec 2) (v : Word) (fail : Option (Fin 2)) (low : Bool) (tj : BitVec 12) (sensor : BitVec 8)
    (op : DayOp),
    let h := s.head
    let stays (i : Instr) : Prop := Completes i s (fun t => t = h)
    let n := v.toNat
    let rows : List (Instr × Nat × Nat × Nat) := [(.dayCmdRead x dev, 1, dev.toNat, 0), (.dayCmdProgram x dev, 2, dev.toNat, 0),
      (.dayCmdErase x dev, 3, dev.toNat, 0), (.dayCmdActivate x, 4, 0, 0), (.dayCmdVerify x dev, 5, dev.toNat, 0),
      (.dayCmdFusekey x idx, 6, 0, idx.toNat), (.dayCmdRevoke x idx, 7, 0, idx.toNat)]
    let ends (st : Nat) (P : Head → Prop) : Prop := Completes (.dayCmdComplete fail) s (fun t => t.rd DAY_CMD_STATUS = st % 2 ^ 8 ∧
      t.rd DAY_CMD_BUSY = 0 ∧ t.plt.dayOp = none ∧ P t)
    let failsOn (d : Nat) : Prop := fail.map (·.val) = some d
    let sameFlash (t : Head) : Prop := t.plt.flash0 = h.plt.flash0 ∧ t.plt.flash1 = h.plt.flash1
    let good := [0, 1].filter h.flashOk
    let other := 1 - h.rd DAY_STS_SLOT
    let kick : Prop := 100 ≤ bitsAt n 0 16 ∧ bitsAt n 0 16 ≤ 60000
    let sev := bitsAt n 0 2
    let at_ := bitsAt n 5 43 * 32
    let level := h.accessLevel x AG_POST_POST.addr
    let allowed : Prop := bitsAt n 2 3 = 0 ∧ h.inMemory at_ 32 = true ∧ (level = .v ∨ h.granted x.origin at_ 32 .load = true) ∧
      (sev = 3 → level = .v)
    let high : Int := 8 * (h.rd PLT_THERM_THROTTLE : Int)
    let below : Int := 8 * ((h.rd PLT_THERM_THROTTLE : Int) - (h.rd PLT_THERM_HYST : Int))
    let heat := Instr.thermalThrottleChange tj sensor
    let shows (t : Head) (on : Nat) : Prop := t.rd PLT_TEMP_TJ = tj.toNat ∧ t.rd PLT_TEMP_SENSOR = sensor.toNat ∧
      t.rd PLT_THERM_ACTIVE = on
    let changes (on : Bool) : Prop := Completes heat s (fun t => shows t on.toNat ∧
      Recorded h t 0x000A 1 on.toNat tj.toNat sensor.toNat h.epoch ∧ .pin (.throttle on) ∈ t.out)
    (Accepted h x DAY_CMD_OP.addr →
      (h.is DAY_CMD_BUSY = true → ∀ r ∈ rows, WriteDone r.1 s (fun t => t.rd DAY_ERR_CFGERR = 1 ∧ OnlyFields h t [DAY_ERR_CFGERR])) ∧
      (h.is DAY_CMD_BUSY = false → ∀ r ∈ rows, WriteDone r.1 s (fun t => t.rd DAY_CMD_BUSY = 1 ∧ SameRegistersBut h t [DAY_CMD_BUSY] ∧
        t.plt.dayOp = some { op := r.2.1, dev := r.2.2.1, idx := r.2.2.2, fl := h.rd DAY_FLADDR_ADDR, mem := h.rd DAY_MEMADDR_ADDR,
                             len := h.rd DAY_LEN_LEN } ∧ SameMemory h t))) ∧
    (Accepted h x DAY_CONFIRM_GO.addr →
      (bitAt n 0 = false → WriteDone (.dayConfirmWrite x v) s (fun t => t = h)) ∧
      (bitAt n 0 = true → h.is DAY_STS_TRIAL = false → WriteDone (.dayConfirmWrite x v) s (fun t => t.rd DAY_ERR_CFGERR = 1 ∧
        OnlyFields h t [DAY_ERR_CFGERR])) ∧
      (bitAt n 0 = true → h.is DAY_STS_TRIAL = true → WriteDone (.dayConfirmWrite x v) s (fun t => t.rd DAY_STS_TRIAL = 0 ∧
        t.rd DAY_WINLEFT_EPOCHS = 0 ∧ t.plt.windowOpen = false ∧ (h.plt.bootSource = .billow → h.is DAY_CTL_BURN = false →
          sameFlash t ∧ Recorded h t 0x0004 0 2 0 h.plt.bootVersion h.plt.fuses.secver)))) ∧
    (Accepted h x PLT_WDOG_KICK.addr →
      (kick → bitAt n 17 = true → WriteDone (.pltWdogKick x v) s (fun t => t.plt.wdogStart = h.mer.sinceReset ∧
        t.plt.lastKick = h.mer.tick ∧ t.rd PLT_WDOG_PERIOD = bitsAt n 0 16)) ∧
      (¬ kick → WriteDone (.pltWdogKick x v) s (fun t => t.rd PLT_ERR_CFGERR = 1 ∧ OnlyFields h t [PLT_ERR_CFGERR]))) ∧
    (Accepted h x AG_POST_POST.addr →
      (allowed → WriteDone (.agPostWrite x v) s (fun t => OnlyNotes h t ∧
        Recorded h t (0x8000 + bitsAt n 48 15) sev (h.load at_ 8) (h.load (at_ + 8) 8) (h.load (at_ + 16) 8) (h.load (at_ + 24) 8))) ∧
      (¬ allowed → WriteDone (.agPostWrite x v) s (fun t => t.rd AG_ERR_CFGERR = 1 ∧ OnlyFields h t [AG_ERR_CFGERR]))) ∧
    (Accepted h x OBS_CTL_REPLAY.addr → bitsAt n 16 5 ≤ 24 → bitAt n 9 = true → h.is OBS_STS_REPLAYING = false →
      WriteDone (.obsReplayWrite x v) s (fun t => t.rd OBS_CTL_LANEEN = bitsAt n 0 4 ∧ t.rd OBS_CTL_TYPES = bitsAt n 4 5 ∧
        t.ag = h.ag ∧ SameMemory h t ∧ SameRegistersBut h t [OBS_CTL_LANEEN, OBS_CTL_TYPES, OBS_CTL_EPLOG] ∧
        t.out.length = h.out.length + (if bitsAt n 0 4 ≠ 0 ∧ bitAt n 4 = true then h.ag.length else 0))) ∧
    (h.plt.inReset = false →
      Completes (.svcPerst low) s (fun t => t = { h with plt := { h.plt with svcReset := low } }) ∧
      (h.mer.sinceReset < h.plt.tokenTicks + 25000000 → stays .agTokenGain) ∧
      (h.plt.tokenTicks + 25000000 ≤ h.mer.sinceReset → Completes .agTokenGain s (fun t =>
        t.rd AG_STS_TOKENS = min 4096 (h.rd AG_STS_TOKENS + 1) ∧ t.plt.tokenTicks = h.plt.tokenTicks + 25000000 ∧
          SameRegistersBut h t [AG_STS_TOKENS])) ∧
      (h.is PLT_THERM_ACTIVE = false → high < tj.toInt → changes true) ∧
      (h.is PLT_THERM_ACTIVE = true → tj.toInt < below → changes false) ∧
      ((h.is PLT_THERM_ACTIVE = false ∧ tj.toInt ≤ high) ∨ (h.is PLT_THERM_ACTIVE = true ∧ below ≤ tj.toInt) →
        Completes heat s (fun t => shows t (h.rd PLT_THERM_ACTIVE) ∧ OnlyFields h t [PLT_TEMP_TJ, PLT_TEMP_SENSOR])) ∧
      (h.plt.dayOp = none → stays (.dayCmdComplete fail)) ∧
      (h.plt.dayOp = some op →
        (op.op = 1 ∨ op.op = 2 ∨ op.op = 3 → h.dayRangeOk op = false → ends 9 (fun t => sameFlash t ∧ SameMemory h t)) ∧
        (h.dayRangeOk op = true → ¬ failsOn op.dev →
          (op.op = 1 → ends 0 (fun t => sameFlash t ∧ t.mem = (h.put op.mem (h.flashBytes op.dev op.fl op.len)).mem)) ∧
          (op.op = 2 → (∀ i < op.len, Tbl.get (255 : Byte) (h.flashTbl op.dev) (op.fl + i) = 255) →
            ends 0 (fun t => t.flashBytes op.dev op.fl op.len = h.bytes op.mem op.len ∧ SameMemory h t)) ∧
          (op.op = 3 → ends 0 (fun t => SameMemory h t ∧ ∀ a, Tbl.get (255 : Byte) (t.flashTbl op.dev) a =
            if op.fl ≤ a ∧ a < op.fl + roundUp op.len 65536 then 255 else Tbl.get (255 : Byte) (h.flashTbl op.dev) a))) ∧
        (h.dayRangeOk op = true → failsOn op.dev → op.op = 1 → ends 1 (fun t => t.flashOk op.dev = false ∧ t.rd DAY_ERR_FLASH = 1 ∧
          SameMemory h t ∧ Recorded h t 0x0008 2 op.dev op.fl 1 0)) ∧
        (fail = none →
          (op.op = 4 → (h.is DAY_STS_TRIAL = true ∨ h.verified other = false) → ends 2 (fun t => sameFlash t)) ∧
          (op.op = 4 → h.is DAY_STS_TRIAL = false → h.verified other = true →
            ends 0 (fun t => ∃ seq version, Recorded h t 0x0003 0 other seq version 0)) ∧
          (op.op = 5 → op.dev ≤ 1 → good = [] → ends 1 (fun t => sameFlash t)) ∧
          (op.op = 5 → op.dev ≤ 1 → good ≠ [] → (∀ d ∈ good, h.checkSet (h.slotRead op.dev d) = none) →
            ends 0 (fun t => t.verified op.dev = true ∧ sameFlash t)) ∧
          (op.op = 6 → h.inMemory op.mem 48 = false → ends 9 (fun t => t.plt.fuses = h.plt.fuses)) ∧
          (op.op = 6 → h.inMemory op.mem 48 = true →
            ((Tbl.find h.plt.fuses.oemHash op.idx).isSome = true → ends 2 (fun t => t.plt.fuses = h.plt.fuses)) ∧
            (Tbl.find h.plt.fuses.oemHash op.idx = none → op.idx < 4 → ends 0 (fun t => bitAt (t.rd DAY_KEYS_OEMSET) op.idx = true ∧
              Tbl.find t.plt.fuses.oemHash op.idx = some (h.bytes op.mem 48)))) ∧
          (op.op = 7 →
            ((Tbl.find h.plt.fuses.oemHash op.idx).isNone = true → ends 2 (fun t => t.plt.fuses = h.plt.fuses)) ∧
            ((Tbl.find h.plt.fuses.oemHash op.idx).isSome = true → op.idx < 4 → ends 0 (fun t =>
              bitAt (t.rd DAY_KEYS_OEMREV) op.idx = true ∧ bitAt t.plt.fuses.oemRevoked op.idx = true))) ∧
          (op.op = 0 ∨ 7 < op.op → ends 9 (fun t => sameFlash t ∧ SameMemory h t)))))
end

