-- ==== Sys2Proof/Laws/Bytes.lean ====
section
/-! SUPPORT. The laws of numbers as little-endian bytes: lengths, bounds and bits. -/
namespace Sys2Proof.Machine

@[simp] theorem length_toBytes (n v : Nat) : (toBytes n v).length = n := by
  induction n generalizing v with
  | zero => rfl
  | succ n ih => simp [toBytes, ih]

theorem getElem_toBytes (n v i : Nat) (h : i < (toBytes n v).length) : (toBytes n v)[i] = BitVec.ofNat 8 (v / 256 ^ i) := by
  induction n generalizing v i with
  | zero => simp at h
  | succ n ih =>
    cases i with
    | zero => simp [toBytes]
    | succ i => simp [toBytes, ih, Nat.div_div_eq_div_mul, Nat.pow_succ, Nat.mul_comm]

theorem ofBytes_lt (l : List Byte) : ofBytes l < 256 ^ l.length := by
  induction l with
  | nil => simp [ofBytes]
  | cons b t ih =>
    have := b.isLt
    simp only [ofBytes, List.length_cons, Nat.pow_succ]
    omega

theorem ofBytes_toBytes (n v : Nat) : ofBytes (toBytes n v) = v % 256 ^ n := by
  induction n generalizing v with
  | zero => simp [toBytes, ofBytes, Nat.mod_one]
  | succ n ih =>
    rw [toBytes, ofBytes, ih, BitVec.toNat_ofNat, Nat.pow_succ 256, Nat.mul_comm (256 ^ n) 256, Nat.mod_mul]

theorem testBit_ofBytes (l : List Byte) (i j : Nat) (hj : j < 8) (hi : i < l.length) :
    (ofBytes l).testBit (8 * i + j) = l[i].getLsbD j := by
  induction l generalizing i with
  | nil => simp at hi
  | cons b t ih =>
    rw [ofBytes, Nat.add_comm, show (256 : Nat) = 2 ^ 8 from rfl, Nat.mul_comm, ← Nat.shiftLeft_eq,
      Nat.shiftLeft_add_eq_or_of_lt b.isLt, Nat.testBit_or, Nat.testBit_shiftLeft]
    cases i with
    | zero => simp [BitVec.getLsbD, show ¬ 8 ≤ j by omega]
    | succ i =>
      have hb : b.toNat.testBit (8 * (i + 1) + j) = false :=
        Nat.testBit_lt_two_pow (Nat.lt_of_lt_of_le b.isLt (Nat.pow_le_pow_right (by decide) (by omega)))
      rw [hb, show 8 * (i + 1) + j - 8 = 8 * i + j by omega, ih i (by simpa using hi)]
      simp [show 8 ≤ 8 * (i + 1) + j by omega]

end Sys2Proof.Machine
end

