-- ==== Sys2Proof/Laws/Tbl.lean ====
section
/-! SUPPORT. The laws of sparse tables: what a read gives after a write, and that every table operation keeps the canonical
form. -/
namespace Sys2Proof.Machine

/-! ### Reading after writing -/

theorem Tbl.find_put_self {α : Type} (t : Tbl α) (k : Nat) (v : α) : Tbl.find (Tbl.put t k v) k = some v := by
  induction t with
  | nil => simp [Tbl.put, Tbl.find]
  | cons e t ih =>
    obtain ⟨j, w⟩ := e
    simp only [Tbl.put]
    split
    · simp [Tbl.find]
    · split
      · simp [Tbl.find]
      · next h =>
        have : ¬ j = k := fun e => h e.symm
        simp [Tbl.find, this, ih]

theorem Tbl.find_put_ne {α : Type} (t : Tbl α) {k j : Nat} (v : α) (h : j ≠ k) :
    Tbl.find (Tbl.put t k v) j = Tbl.find t j := by
  induction t with
  | nil => simp [Tbl.put, Tbl.find, h.symm]
  | cons e t ih =>
    obtain ⟨i, w⟩ := e
    simp only [Tbl.put]
    split
    · simp [Tbl.find, h.symm]
    · split
      · next hk => subst hk; simp [Tbl.find, h.symm]
      · simp [Tbl.find, ih]

theorem Tbl.find_del_self {α : Type} (t : Tbl α) (k : Nat) : Tbl.find (Tbl.del t k) k = none := by
  induction t with
  | nil => rfl
  | cons e t ih =>
    obtain ⟨j, w⟩ := e
    simp only [Tbl.del]
    split
    · exact ih
    · next h => simp [Tbl.find, h, ih]

theorem Tbl.find_del_ne {α : Type} (t : Tbl α) {k j : Nat} (h : j ≠ k) : Tbl.find (Tbl.del t k) j = Tbl.find t j := by
  induction t with
  | nil => rfl
  | cons e t ih =>
    obtain ⟨i, w⟩ := e
    simp only [Tbl.del]
    split
    · next hk => subst hk; simp [Tbl.find, h.symm, ih]
    · simp [Tbl.find, ih]

@[simp] theorem Tbl.get_set_self {α : Type} [DecidableEq α] (d : α) (t : Tbl α) (k : Nat) (v : α) :
    Tbl.get d (Tbl.set d t k v) k = v := by
  unfold Tbl.get Tbl.set
  split
  · next h => simp [Tbl.find_del_self, h]
  · simp [Tbl.find_put_self]

theorem Tbl.get_set_ne {α : Type} [DecidableEq α] (d d' : α) (t : Tbl α) {k j : Nat} (v : α) (h : j ≠ k) :
    Tbl.get d' (Tbl.set d t k v) j = Tbl.get d' t j := by
  unfold Tbl.get Tbl.set
  split
  · simp [Tbl.find_del_ne t h]
  · simp [Tbl.find_put_ne t v h]

theorem Tbl.find_upd_self {α : Type} (t : Tbl α) (k : Nat) (f : α → α) :
    Tbl.find (Tbl.upd t k f) k = (Tbl.find t k).map f := by
  unfold Tbl.upd
  cases h : Tbl.find t k <;> simp [h, Tbl.find_put_self]

theorem Tbl.find_upd_ne {α : Type} (t : Tbl α) {k j : Nat} (f : α → α) (h : j ≠ k) :
    Tbl.find (Tbl.upd t k f) j = Tbl.find t j := by
  unfold Tbl.upd
  cases Tbl.find t k <;> simp [Tbl.find_put_ne t _ h]

/-! ### The canonical form -/

theorem Tbl.risesFrom_weaken {α : Type} {a b : Nat} {t : Tbl α} (h : a ≤ b) (ht : Tbl.risesFrom (some b) t = true) :
    Tbl.risesFrom (some a) t = true := by
  cases t with
  | nil => rfl
  | cons e t =>
    obtain ⟨j, w⟩ := e
    simp only [Tbl.risesFrom, Bool.and_eq_true, decide_eq_true_eq] at ht ⊢
    exact ⟨by omega, ht.2⟩

theorem Tbl.risesFrom_none {α : Type} {b : Nat} {t : Tbl α} (ht : Tbl.risesFrom (some b) t = true) :
    Tbl.risesFrom none t = true := by
  cases t with
  | nil => rfl
  | cons e t =>
    obtain ⟨j, w⟩ := e
    simp only [Tbl.risesFrom, Bool.and_eq_true] at ht ⊢
    exact ⟨trivial, ht.2⟩

theorem Tbl.risesFrom_put {α : Type} (t : Tbl α) (k : Nat) (v : α) (b : Option Nat)
    (hb : ∀ x, b = some x → x < k) (ht : Tbl.risesFrom b t = true) : Tbl.risesFrom b (Tbl.put t k v) = true := by
  induction t generalizing b with
  | nil => cases b <;> simp_all [Tbl.put, Tbl.risesFrom]
  | cons e t ih =>
    obtain ⟨j, w⟩ := e
    simp only [Tbl.risesFrom, Bool.and_eq_true] at ht
    simp only [Tbl.put]
    split
    · next h => cases b <;> simp_all [Tbl.risesFrom]
    · split
      · next h => subst h; simp only [Tbl.risesFrom, Bool.and_eq_true]; exact ht
      · next h h' =>
        simp only [Tbl.risesFrom, Bool.and_eq_true]
        exact ⟨ht.1, ih (some j) (fun x hx => by cases hx; omega) ht.2⟩

theorem Tbl.risesFrom_del {α : Type} (t : Tbl α) (k : Nat) (b : Option Nat) (ht : Tbl.risesFrom b t = true) :
    Tbl.risesFrom b (Tbl.del t k) = true := by
  induction t generalizing b with
  | nil => exact ht
  | cons e t ih =>
    obtain ⟨j, w⟩ := e
    simp only [Tbl.risesFrom, Bool.and_eq_true] at ht
    simp only [Tbl.del]
    split
    · refine ih b ?_
      cases b with
      | none => exact Tbl.risesFrom_none ht.2
      | some x =>
        have : x < j := by simpa using ht.1
        exact Tbl.risesFrom_weaken (Nat.le_of_lt this) ht.2
    · simp only [Tbl.risesFrom, Bool.and_eq_true]
      exact ⟨ht.1, ih (some j) ht.2⟩

theorem Tbl.ordered_put {α : Type} (t : Tbl α) (k : Nat) (v : α) (ht : Tbl.ordered t = true) :
    Tbl.ordered (Tbl.put t k v) = true := Tbl.risesFrom_put t k v none (by simp) ht

theorem Tbl.ordered_del {α : Type} (t : Tbl α) (k : Nat) (ht : Tbl.ordered t = true) : Tbl.ordered (Tbl.del t k) = true :=
  Tbl.risesFrom_del t k none ht

theorem Tbl.mem_put {α : Type} {t : Tbl α} {k : Nat} {v : α} {e : Nat × α} (h : e ∈ Tbl.put t k v) : e = (k, v) ∨ e ∈ t := by
  induction t with
  | nil => simpa [Tbl.put] using h
  | cons x t ih =>
    obtain ⟨j, w⟩ := x
    simp only [Tbl.put] at h
    split at h
    · simpa using h
    · split at h
      · rcases List.mem_cons.mp h with h | h
        · exact .inl h
        · exact .inr (.tail _ h)
      · simp only [List.mem_cons] at h ⊢
        rcases h with h | h
        · exact .inr (.inl h)
        · rcases ih h with h | h
          · exact .inl h
          · exact .inr (.inr h)

theorem Tbl.mem_del {α : Type} {t : Tbl α} {k : Nat} {e : Nat × α} (h : e ∈ Tbl.del t k) : e ∈ t := by
  induction t with
  | nil => exact h
  | cons x t ih =>
    obtain ⟨j, w⟩ := x
    simp only [Tbl.del] at h
    split at h
    · exact .tail _ (ih h)
    · simp only [List.mem_cons] at h ⊢
      exact h.imp id ih

/-- Writing keeps the canonical form of a table with a default. -/
theorem Tbl.wf_set {α : Type} [DecidableEq α] (d : α) (t : Tbl α) (k : Nat) (v : α) (ht : Tbl.wf d t = true) :
    Tbl.wf d (Tbl.set d t k v) = true := by
  simp only [Tbl.wf, Bool.and_eq_true, List.all_eq_true, decide_eq_true_eq] at ht ⊢
  unfold Tbl.set
  split
  · exact ⟨Tbl.ordered_del t k ht.1, fun e he => ht.2 e (Tbl.mem_del he)⟩
  · next hv =>
    refine ⟨Tbl.ordered_put t k v ht.1, fun e he => ?_⟩
    rcases Tbl.mem_put he with h | h
    · subst h; exact hv
    · exact ht.2 e h

end Sys2Proof.Machine
end

