-- ==== Sys2Proof/Laws/Memory.lean ====
section
/-! SUPPORT. The laws of memory: a read gives what was written, a write leaves every other byte, and every memory operation
keeps the canonical form. -/
namespace Sys2Proof.Machine

theorem Memory.read_write_self (m : List Host.Cell) (a : Nat) (v : Byte) : Memory.read (Memory.write m a v) a = v :=
  Tbl.get_set_self memDefault m a v

theorem Memory.read_write_ne (m : List Host.Cell) {a b : Nat} (v : Byte) (h : b ≠ a) :
    Memory.read (Memory.write m a v) b = Memory.read m b := Tbl.get_set_ne memDefault memDefault m v h

/-- Writing a run of bytes leaves every byte outside it. -/
theorem Memory.read_writeAll_out (l : List Byte) (m : List Host.Cell) (a b : Nat) (h : b < a ∨ a + l.length ≤ b) :
    Memory.read (Memory.writeAll m a l) b = Memory.read m b := by
  induction l generalizing m a with
  | nil => rfl
  | cons v t ih =>
    simp only [List.length_cons] at h
    rw [Memory.writeAll, ih (Memory.write m a v) (a + 1) (by omega), Memory.read_write_ne m v (by omega)]

/-- Writing a run of bytes puts each of them at its place. -/
theorem Memory.read_writeAll_in (l : List Byte) (m : List Host.Cell) (a i : Nat) (h : i < l.length) :
    Memory.read (Memory.writeAll m a l) (a + i) = l[i] := by
  induction l generalizing m a i with
  | nil => exact absurd h (by simp)
  | cons v t ih =>
    rw [Memory.writeAll]
    cases i with
    | zero => rw [Memory.read_writeAll_out t _ (a + 1) (a + 0) (by omega)]; exact Memory.read_write_self m a v
    | succ j =>
      have hj : j < t.length := by simpa using h
      rw [show a + (j + 1) = a + 1 + j by omega, ih (Memory.write m a v) (a + 1) j hj]
      simp

/-- Reading back a run of bytes just written gives them. -/
theorem Memory.readAll_writeAll (l : List Byte) (m : List Host.Cell) (a : Nat) :
    Memory.readAll (Memory.writeAll m a l) a l.length = l := by
  induction l generalizing m a with
  | nil => rfl
  | cons v t ih =>
    rw [List.length_cons, Memory.readAll, Memory.writeAll, ih]
    rw [Memory.read_writeAll_out t _ (a + 1) a (by omega), Memory.read_write_self]

/-- Every memory operation keeps the canonical form. -/
theorem Memory.wf_write (m : List Host.Cell) (a : Nat) (v : Byte) (h : Memory.wf m = true) :
    Memory.wf (Memory.write m a v) = true := Tbl.wf_set memDefault m a v h

theorem Memory.wf_writeAll (l : List Byte) (m : List Host.Cell) (a : Nat) (h : Memory.wf m = true) :
    Memory.wf (Memory.writeAll m a l) = true := by
  induction l generalizing m a with
  | nil => exact h
  | cons v t ih => exact ih _ _ (Memory.wf_write m a v h)

theorem Head.wf_put (h : Head) (a : Nat) (l : List Byte) (hm : Memory.wf h.mem = true) : Memory.wf (h.put a l).mem = true :=
  Memory.wf_writeAll l h.mem a hm

theorem State.reset_memory_wf : Memory.wf State.reset.head.mem = true := rfl

end Sys2Proof.Machine
end

