-- ==== Sys2Proof/Laws/State.lean ====
section
/-! SUPPORT. What the primitive updates of the head leave alone, field by field, each true by definition, and what a register
field reads as after a write. -/
namespace Sys2Proof.Machine

/-! ### h.wr f v -/

@[simp] theorem Head.wr_mem (h : Head) (f : Field) (v : Nat) : (h.wr f v).mem = h.mem := rfl
@[simp] theorem Head.wr_rwo (h : Head) (f : Field) (v : Nat) : (h.wr f v).rwo = h.rwo := rfl
@[simp] theorem Head.wr_free (h : Head) (f : Field) (v : Nat) : (h.wr f v).free = h.free := rfl
@[simp] theorem Head.wr_out (h : Head) (f : Field) (v : Nat) : (h.wr f v).out = h.out := rfl
@[simp] theorem Head.wr_mer (h : Head) (f : Field) (v : Nat) : (h.wr f v).mer = h.mer := rfl
@[simp] theorem Head.wr_cmt (h : Head) (f : Field) (v : Nat) : (h.wr f v).cmt = h.cmt := rfl
@[simp] theorem Head.wr_ctxs (h : Head) (f : Field) (v : Nat) : (h.wr f v).ctxs = h.ctxs := rfl
@[simp] theorem Head.wr_works (h : Head) (f : Field) (v : Nat) : (h.wr f v).works = h.works := rfl
@[simp] theorem Head.wr_nextWork (h : Head) (f : Field) (v : Nat) : (h.wr f v).nextWork = h.nextWork := rfl
@[simp] theorem Head.wr_jobs (h : Head) (f : Field) (v : Nat) : (h.wr f v).jobs = h.jobs := rfl
@[simp] theorem Head.wr_nextJob (h : Head) (f : Field) (v : Nat) : (h.wr f v).nextJob = h.nextJob := rfl
@[simp] theorem Head.wr_lens (h : Head) (f : Field) (v : Nat) : (h.wr f v).lens = h.lens := rfl
@[simp] theorem Head.wr_descTbl (h : Head) (f : Field) (v : Nat) : (h.wr f v).descTbl = h.descTbl := rfl
@[simp] theorem Head.wr_nextDesc (h : Head) (f : Field) (v : Nat) : (h.wr f v).nextDesc = h.nextDesc := rfl
@[simp] theorem Head.wr_queues (h : Head) (f : Field) (v : Nat) : (h.wr f v).queues = h.queues := rfl
@[simp] theorem Head.wr_libs (h : Head) (f : Field) (v : Nat) : (h.wr f v).libs = h.libs := rfl
@[simp] theorem Head.wr_failedEngines (h : Head) (f : Field) (v : Nat) : (h.wr f v).failedEngines = h.failedEngines := rfl
@[simp] theorem Head.wr_nss (h : Head) (f : Field) (v : Nat) : (h.wr f v).nss = h.nss := rfl
@[simp] theorem Head.wr_pages (h : Head) (f : Field) (v : Nat) : (h.wr f v).pages = h.pages := rfl
@[simp] theorem Head.wr_inflight (h : Head) (f : Field) (v : Nat) : (h.wr f v).inflight = h.inflight := rfl
@[simp] theorem Head.wr_liveIds (h : Head) (f : Field) (v : Nat) : (h.wr f v).liveIds = h.liveIds := rfl
@[simp] theorem Head.wr_pendingIds (h : Head) (f : Field) (v : Nat) : (h.wr f v).pendingIds = h.pendingIds := rfl
@[simp] theorem Head.wr_freedIds (h : Head) (f : Field) (v : Nat) : (h.wr f v).freedIds = h.freedIds := rfl
@[simp] theorem Head.wr_idLowPosted (h : Head) (f : Field) (v : Nat) : (h.wr f v).idLowPosted = h.idLowPosted := rfl
@[simp] theorem Head.wr_fe (h : Head) (f : Field) (v : Nat) : (h.wr f v).fe = h.fe := rfl
@[simp] theorem Head.wr_fb (h : Head) (f : Field) (v : Nat) : (h.wr f v).fb = h.fb := rfl
@[simp] theorem Head.wr_ports (h : Head) (f : Field) (v : Nat) : (h.wr f v).ports = h.ports := rfl
@[simp] theorem Head.wr_modules (h : Head) (f : Field) (v : Nat) : (h.wr f v).modules = h.modules := rfl
@[simp] theorem Head.wr_sd (h : Head) (f : Field) (v : Nat) : (h.wr f v).sd = h.sd := rfl
@[simp] theorem Head.wr_pair (h : Head) (f : Field) (v : Nat) : (h.wr f v).pair = h.pair := rfl
@[simp] theorem Head.wr_memc (h : Head) (f : Field) (v : Nat) : (h.wr f v).memc = h.memc := rfl
@[simp] theorem Head.wr_pools (h : Head) (f : Field) (v : Nat) : (h.wr f v).pools = h.pools := rfl
@[simp] theorem Head.wr_owners (h : Head) (f : Field) (v : Nat) : (h.wr f v).owners = h.owners := rfl
@[simp] theorem Head.wr_veilEntries (h : Head) (f : Field) (v : Nat) : (h.wr f v).veilEntries = h.veilEntries := rfl
@[simp] theorem Head.wr_veilClock (h : Head) (f : Field) (v : Nat) : (h.wr f v).veilClock = h.veilClock := rfl
@[simp] theorem Head.wr_umb (h : Head) (f : Field) (v : Nat) : (h.wr f v).umb = h.umb := rfl
@[simp] theorem Head.wr_plt (h : Head) (f : Field) (v : Nat) : (h.wr f v).plt = h.plt := rfl
@[simp] theorem Head.wr_ag (h : Head) (f : Field) (v : Nat) : (h.wr f v).ag = h.ag := rfl
@[simp] theorem Head.wr_retiredLog (h : Head) (f : Field) (v : Nat) : (h.wr f v).retiredLog = h.retiredLog := rfl

/-! ### h.emit o -/

@[simp] theorem Head.emit_mem (h : Head) (o : Out) : (h.emit o).mem = h.mem := rfl
@[simp] theorem Head.emit_fields (h : Head) (o : Out) : (h.emit o).fields = h.fields := rfl
@[simp] theorem Head.emit_rwo (h : Head) (o : Out) : (h.emit o).rwo = h.rwo := rfl
@[simp] theorem Head.emit_free (h : Head) (o : Out) : (h.emit o).free = h.free := rfl
@[simp] theorem Head.emit_mer (h : Head) (o : Out) : (h.emit o).mer = h.mer := rfl
@[simp] theorem Head.emit_cmt (h : Head) (o : Out) : (h.emit o).cmt = h.cmt := rfl
@[simp] theorem Head.emit_ctxs (h : Head) (o : Out) : (h.emit o).ctxs = h.ctxs := rfl
@[simp] theorem Head.emit_works (h : Head) (o : Out) : (h.emit o).works = h.works := rfl
@[simp] theorem Head.emit_nextWork (h : Head) (o : Out) : (h.emit o).nextWork = h.nextWork := rfl
@[simp] theorem Head.emit_jobs (h : Head) (o : Out) : (h.emit o).jobs = h.jobs := rfl
@[simp] theorem Head.emit_nextJob (h : Head) (o : Out) : (h.emit o).nextJob = h.nextJob := rfl
@[simp] theorem Head.emit_lens (h : Head) (o : Out) : (h.emit o).lens = h.lens := rfl
@[simp] theorem Head.emit_descTbl (h : Head) (o : Out) : (h.emit o).descTbl = h.descTbl := rfl
@[simp] theorem Head.emit_nextDesc (h : Head) (o : Out) : (h.emit o).nextDesc = h.nextDesc := rfl
@[simp] theorem Head.emit_queues (h : Head) (o : Out) : (h.emit o).queues = h.queues := rfl
@[simp] theorem Head.emit_libs (h : Head) (o : Out) : (h.emit o).libs = h.libs := rfl
@[simp] theorem Head.emit_failedEngines (h : Head) (o : Out) : (h.emit o).failedEngines = h.failedEngines := rfl
@[simp] theorem Head.emit_nss (h : Head) (o : Out) : (h.emit o).nss = h.nss := rfl
@[simp] theorem Head.emit_pages (h : Head) (o : Out) : (h.emit o).pages = h.pages := rfl
@[simp] theorem Head.emit_inflight (h : Head) (o : Out) : (h.emit o).inflight = h.inflight := rfl
@[simp] theorem Head.emit_liveIds (h : Head) (o : Out) : (h.emit o).liveIds = h.liveIds := rfl
@[simp] theorem Head.emit_pendingIds (h : Head) (o : Out) : (h.emit o).pendingIds = h.pendingIds := rfl
@[simp] theorem Head.emit_freedIds (h : Head) (o : Out) : (h.emit o).freedIds = h.freedIds := rfl
@[simp] theorem Head.emit_idLowPosted (h : Head) (o : Out) : (h.emit o).idLowPosted = h.idLowPosted := rfl
@[simp] theorem Head.emit_fe (h : Head) (o : Out) : (h.emit o).fe = h.fe := rfl
@[simp] theorem Head.emit_fb (h : Head) (o : Out) : (h.emit o).fb = h.fb := rfl
@[simp] theorem Head.emit_ports (h : Head) (o : Out) : (h.emit o).ports = h.ports := rfl
@[simp] theorem Head.emit_modules (h : Head) (o : Out) : (h.emit o).modules = h.modules := rfl
@[simp] theorem Head.emit_sd (h : Head) (o : Out) : (h.emit o).sd = h.sd := rfl
@[simp] theorem Head.emit_pair (h : Head) (o : Out) : (h.emit o).pair = h.pair := rfl
@[simp] theorem Head.emit_memc (h : Head) (o : Out) : (h.emit o).memc = h.memc := rfl
@[simp] theorem Head.emit_pools (h : Head) (o : Out) : (h.emit o).pools = h.pools := rfl
@[simp] theorem Head.emit_owners (h : Head) (o : Out) : (h.emit o).owners = h.owners := rfl
@[simp] theorem Head.emit_veilEntries (h : Head) (o : Out) : (h.emit o).veilEntries = h.veilEntries := rfl
@[simp] theorem Head.emit_veilClock (h : Head) (o : Out) : (h.emit o).veilClock = h.veilClock := rfl
@[simp] theorem Head.emit_umb (h : Head) (o : Out) : (h.emit o).umb = h.umb := rfl
@[simp] theorem Head.emit_plt (h : Head) (o : Out) : (h.emit o).plt = h.plt := rfl
@[simp] theorem Head.emit_ag (h : Head) (o : Out) : (h.emit o).ag = h.ag := rfl
@[simp] theorem Head.emit_retiredLog (h : Head) (o : Out) : (h.emit o).retiredLog = h.retiredLog := rfl

/-! ### h.put a b -/

@[simp] theorem Head.put_fields (h : Head) (a : Nat) (b : List Byte) : (h.put a b).fields = h.fields := rfl
@[simp] theorem Head.put_rwo (h : Head) (a : Nat) (b : List Byte) : (h.put a b).rwo = h.rwo := rfl
@[simp] theorem Head.put_free (h : Head) (a : Nat) (b : List Byte) : (h.put a b).free = h.free := rfl
@[simp] theorem Head.put_out (h : Head) (a : Nat) (b : List Byte) : (h.put a b).out = h.out := rfl
@[simp] theorem Head.put_mer (h : Head) (a : Nat) (b : List Byte) : (h.put a b).mer = h.mer := rfl
@[simp] theorem Head.put_cmt (h : Head) (a : Nat) (b : List Byte) : (h.put a b).cmt = h.cmt := rfl
@[simp] theorem Head.put_ctxs (h : Head) (a : Nat) (b : List Byte) : (h.put a b).ctxs = h.ctxs := rfl
@[simp] theorem Head.put_works (h : Head) (a : Nat) (b : List Byte) : (h.put a b).works = h.works := rfl
@[simp] theorem Head.put_nextWork (h : Head) (a : Nat) (b : List Byte) : (h.put a b).nextWork = h.nextWork := rfl
@[simp] theorem Head.put_jobs (h : Head) (a : Nat) (b : List Byte) : (h.put a b).jobs = h.jobs := rfl
@[simp] theorem Head.put_nextJob (h : Head) (a : Nat) (b : List Byte) : (h.put a b).nextJob = h.nextJob := rfl
@[simp] theorem Head.put_lens (h : Head) (a : Nat) (b : List Byte) : (h.put a b).lens = h.lens := rfl
@[simp] theorem Head.put_descTbl (h : Head) (a : Nat) (b : List Byte) : (h.put a b).descTbl = h.descTbl := rfl
@[simp] theorem Head.put_nextDesc (h : Head) (a : Nat) (b : List Byte) : (h.put a b).nextDesc = h.nextDesc := rfl
@[simp] theorem Head.put_queues (h : Head) (a : Nat) (b : List Byte) : (h.put a b).queues = h.queues := rfl
@[simp] theorem Head.put_libs (h : Head) (a : Nat) (b : List Byte) : (h.put a b).libs = h.libs := rfl
@[simp] theorem Head.put_failedEngines (h : Head) (a : Nat) (b : List Byte) : (h.put a b).failedEngines = h.failedEngines := rfl
@[simp] theorem Head.put_nss (h : Head) (a : Nat) (b : List Byte) : (h.put a b).nss = h.nss := rfl
@[simp] theorem Head.put_pages (h : Head) (a : Nat) (b : List Byte) : (h.put a b).pages = h.pages := rfl
@[simp] theorem Head.put_inflight (h : Head) (a : Nat) (b : List Byte) : (h.put a b).inflight = h.inflight := rfl
@[simp] theorem Head.put_liveIds (h : Head) (a : Nat) (b : List Byte) : (h.put a b).liveIds = h.liveIds := rfl
@[simp] theorem Head.put_pendingIds (h : Head) (a : Nat) (b : List Byte) : (h.put a b).pendingIds = h.pendingIds := rfl
@[simp] theorem Head.put_freedIds (h : Head) (a : Nat) (b : List Byte) : (h.put a b).freedIds = h.freedIds := rfl
@[simp] theorem Head.put_idLowPosted (h : Head) (a : Nat) (b : List Byte) : (h.put a b).idLowPosted = h.idLowPosted := rfl
@[simp] theorem Head.put_fe (h : Head) (a : Nat) (b : List Byte) : (h.put a b).fe = h.fe := rfl
@[simp] theorem Head.put_fb (h : Head) (a : Nat) (b : List Byte) : (h.put a b).fb = h.fb := rfl
@[simp] theorem Head.put_ports (h : Head) (a : Nat) (b : List Byte) : (h.put a b).ports = h.ports := rfl
@[simp] theorem Head.put_modules (h : Head) (a : Nat) (b : List Byte) : (h.put a b).modules = h.modules := rfl
@[simp] theorem Head.put_sd (h : Head) (a : Nat) (b : List Byte) : (h.put a b).sd = h.sd := rfl
@[simp] theorem Head.put_pair (h : Head) (a : Nat) (b : List Byte) : (h.put a b).pair = h.pair := rfl
@[simp] theorem Head.put_pools (h : Head) (a : Nat) (b : List Byte) : (h.put a b).pools = h.pools := rfl
@[simp] theorem Head.put_owners (h : Head) (a : Nat) (b : List Byte) : (h.put a b).owners = h.owners := rfl
@[simp] theorem Head.put_veilEntries (h : Head) (a : Nat) (b : List Byte) : (h.put a b).veilEntries = h.veilEntries := rfl
@[simp] theorem Head.put_veilClock (h : Head) (a : Nat) (b : List Byte) : (h.put a b).veilClock = h.veilClock := rfl
@[simp] theorem Head.put_umb (h : Head) (a : Nat) (b : List Byte) : (h.put a b).umb = h.umb := rfl
@[simp] theorem Head.put_plt (h : Head) (a : Nat) (b : List Byte) : (h.put a b).plt = h.plt := rfl
@[simp] theorem Head.put_ag (h : Head) (a : Nat) (b : List Byte) : (h.put a b).ag = h.ag := rfl
@[simp] theorem Head.put_retiredLog (h : Head) (a : Nat) (b : List Byte) : (h.put a b).retiredLog = h.retiredLog := rfl

/-! ### h.setCtx k c -/

@[simp] theorem Head.setCtx_mem (h : Head) (k : Nat) (c : Context) : (h.setCtx k c).mem = h.mem := rfl
@[simp] theorem Head.setCtx_fields (h : Head) (k : Nat) (c : Context) : (h.setCtx k c).fields = h.fields := rfl
@[simp] theorem Head.setCtx_rwo (h : Head) (k : Nat) (c : Context) : (h.setCtx k c).rwo = h.rwo := rfl
@[simp] theorem Head.setCtx_free (h : Head) (k : Nat) (c : Context) : (h.setCtx k c).free = h.free := rfl
@[simp] theorem Head.setCtx_out (h : Head) (k : Nat) (c : Context) : (h.setCtx k c).out = h.out := rfl
@[simp] theorem Head.setCtx_mer (h : Head) (k : Nat) (c : Context) : (h.setCtx k c).mer = h.mer := rfl
@[simp] theorem Head.setCtx_cmt (h : Head) (k : Nat) (c : Context) : (h.setCtx k c).cmt = h.cmt := rfl
@[simp] theorem Head.setCtx_works (h : Head) (k : Nat) (c : Context) : (h.setCtx k c).works = h.works := rfl
@[simp] theorem Head.setCtx_nextWork (h : Head) (k : Nat) (c : Context) : (h.setCtx k c).nextWork = h.nextWork := rfl
@[simp] theorem Head.setCtx_jobs (h : Head) (k : Nat) (c : Context) : (h.setCtx k c).jobs = h.jobs := rfl
@[simp] theorem Head.setCtx_nextJob (h : Head) (k : Nat) (c : Context) : (h.setCtx k c).nextJob = h.nextJob := rfl
@[simp] theorem Head.setCtx_lens (h : Head) (k : Nat) (c : Context) : (h.setCtx k c).lens = h.lens := rfl
@[simp] theorem Head.setCtx_descTbl (h : Head) (k : Nat) (c : Context) : (h.setCtx k c).descTbl = h.descTbl := rfl
@[simp] theorem Head.setCtx_nextDesc (h : Head) (k : Nat) (c : Context) : (h.setCtx k c).nextDesc = h.nextDesc := rfl
@[simp] theorem Head.setCtx_queues (h : Head) (k : Nat) (c : Context) : (h.setCtx k c).queues = h.queues := rfl
@[simp] theorem Head.setCtx_libs (h : Head) (k : Nat) (c : Context) : (h.setCtx k c).libs = h.libs := rfl
@[simp] theorem Head.setCtx_failedEngines (h : Head) (k : Nat) (c : Context) : (h.setCtx k c).failedEngines = h.failedEngines := rfl
@[simp] theorem Head.setCtx_nss (h : Head) (k : Nat) (c : Context) : (h.setCtx k c).nss = h.nss := rfl
@[simp] theorem Head.setCtx_pages (h : Head) (k : Nat) (c : Context) : (h.setCtx k c).pages = h.pages := rfl
@[simp] theorem Head.setCtx_inflight (h : Head) (k : Nat) (c : Context) : (h.setCtx k c).inflight = h.inflight := rfl
@[simp] theorem Head.setCtx_liveIds (h : Head) (k : Nat) (c : Context) : (h.setCtx k c).liveIds = h.liveIds := rfl
@[simp] theorem Head.setCtx_pendingIds (h : Head) (k : Nat) (c : Context) : (h.setCtx k c).pendingIds = h.pendingIds := rfl
@[simp] theorem Head.setCtx_freedIds (h : Head) (k : Nat) (c : Context) : (h.setCtx k c).freedIds = h.freedIds := rfl
@[simp] theorem Head.setCtx_idLowPosted (h : Head) (k : Nat) (c : Context) : (h.setCtx k c).idLowPosted = h.idLowPosted := rfl
@[simp] theorem Head.setCtx_fe (h : Head) (k : Nat) (c : Context) : (h.setCtx k c).fe = h.fe := rfl
@[simp] theorem Head.setCtx_fb (h : Head) (k : Nat) (c : Context) : (h.setCtx k c).fb = h.fb := rfl
@[simp] theorem Head.setCtx_ports (h : Head) (k : Nat) (c : Context) : (h.setCtx k c).ports = h.ports := rfl
@[simp] theorem Head.setCtx_modules (h : Head) (k : Nat) (c : Context) : (h.setCtx k c).modules = h.modules := rfl
@[simp] theorem Head.setCtx_sd (h : Head) (k : Nat) (c : Context) : (h.setCtx k c).sd = h.sd := rfl
@[simp] theorem Head.setCtx_pair (h : Head) (k : Nat) (c : Context) : (h.setCtx k c).pair = h.pair := rfl
@[simp] theorem Head.setCtx_memc (h : Head) (k : Nat) (c : Context) : (h.setCtx k c).memc = h.memc := rfl
@[simp] theorem Head.setCtx_pools (h : Head) (k : Nat) (c : Context) : (h.setCtx k c).pools = h.pools := rfl
@[simp] theorem Head.setCtx_owners (h : Head) (k : Nat) (c : Context) : (h.setCtx k c).owners = h.owners := rfl
@[simp] theorem Head.setCtx_veilEntries (h : Head) (k : Nat) (c : Context) : (h.setCtx k c).veilEntries = h.veilEntries := rfl
@[simp] theorem Head.setCtx_veilClock (h : Head) (k : Nat) (c : Context) : (h.setCtx k c).veilClock = h.veilClock := rfl
@[simp] theorem Head.setCtx_umb (h : Head) (k : Nat) (c : Context) : (h.setCtx k c).umb = h.umb := rfl
@[simp] theorem Head.setCtx_plt (h : Head) (k : Nat) (c : Context) : (h.setCtx k c).plt = h.plt := rfl
@[simp] theorem Head.setCtx_ag (h : Head) (k : Nat) (c : Context) : (h.setCtx k c).ag = h.ag := rfl
@[simp] theorem Head.setCtx_retiredLog (h : Head) (k : Nat) (c : Context) : (h.setCtx k c).retiredLog = h.retiredLog := rfl

@[simp] theorem Head.emit_out (h : Head) (o : Out) : (h.emit o).out = o :: h.out := rfl
@[simp] theorem Head.put_mem (h : Head) (a : Nat) (b : List Byte) : (h.put a b).mem = Memory.writeAll h.mem a b := rfl
@[simp] theorem Head.put_lines (h : Head) (a : Nat) (b : List Byte) :
    (h.put a b).memc.lines = rawAfter h.memc.lines a b.length := rfl
@[simp] theorem Head.put_merge (h : Head) (a : Nat) (b : List Byte) : (h.put a b).memc.merge = h.memc.merge := rfl

/-- With no raw line a write leaves the DRAM controller as it was. -/
theorem Head.put_memc_clean (h : Head) (a : Nat) (b : List Byte) (hc : h.memc.lines = []) : (h.put a b).memc = h.memc := by
  have e : (h.put a b).memc = { h.memc with lines := rawAfter h.memc.lines a b.length } := rfl
  rw [e, hc]
  change { h.memc with lines := [] } = h.memc
  rw [← hc]

/-! ### Register fields -/

@[simp] theorem Head.rd_emit (h : Head) (o : Out) (f : Field) : (h.emit o).rd f = h.rd f := rfl
@[simp] theorem Head.rd_put (h : Head) (a : Nat) (b : List Byte) (f : Field) : (h.put a b).rd f = h.rd f := rfl
@[simp] theorem Head.rd_setCtx (h : Head) (k : Nat) (c : Context) (f : Field) : (h.setCtx k c).rd f = h.rd f := rfl

/-- A field reads as what was written, cut to its width. -/
theorem Head.rd_wr_self (h : Head) (f : Field) (v : Nat) (hf : f.width ≤ 64) : (h.wr f v).rd f = v % 2 ^ f.width := by
  have : v % 2 ^ f.width < 2 ^ 64 :=
    Nat.lt_of_lt_of_le (Nat.mod_lt _ (Nat.two_pow_pos _)) (Nat.pow_le_pow_right (by decide) hf)
  have e : (h.wr f v).rd f = (BitVec.ofNat 64 (v % 2 ^ f.width)).toNat := by simp [Head.rd, Head.wr]
  rw [e, BitVec.toNat_ofNat, Nat.mod_eq_of_lt this]

/-- A field written leaves every other field. -/
theorem Head.rd_wr_ne (h : Head) (f g : Field) (v : Nat) (hk : g.key ≠ f.key) : (h.wr f v).rd g = h.rd g := by
  simp [Head.rd, Head.wr, Tbl.get_set_ne _ _ _ _ hk]

/-- Setting several fields changes fields alone. -/
theorem Head.wrList_frame (h : Head) (l : List (Field × Nat)) : h.wrList l = { h with fields := (h.wrList l).fields } := by
  induction l generalizing h with
  | nil => rfl
  | cons e l ih => rw [Head.wrList, ih]; rfl

theorem Head.rd_wrList_ne (h : Head) (l : List (Field × Nat)) (f : Field) (hf : ∀ e ∈ l, f.key ≠ e.1.key) :
    (h.wrList l).rd f = h.rd f := by
  induction l generalizing h with
  | nil => rfl
  | cons e l ih =>
    rw [Head.wrList, ih _ (fun x hx => hf x (.tail _ hx)), Head.rd_wr_ne _ _ _ _ (hf e (.head _))]

/-- Fields of different keys set in turn each read as what was written, cut to the width. -/
theorem Head.rd_wrList (h : Head) (l : List (Field × Nat)) (hl : l.Pairwise (fun a b => a.1.key ≠ b.1.key))
    (hw : ∀ e ∈ l, e.1.width ≤ 64) : ∀ e ∈ l, (h.wrList l).rd e.1 = e.2 % 2 ^ e.1.width := by
  induction l generalizing h with
  | nil => intro e he; cases he
  | cons x l ih =>
    intro e he
    cases he with
    | head =>
      rw [Head.wrList, Head.rd_wrList_ne _ l x.1 (fun y hy => (List.pairwise_cons.mp hl).1 y hy),
        Head.rd_wr_self _ _ _ (hw x (.head _))]
    | tail _ he' => exact ih _ (List.pairwise_cons.mp hl).2 (fun y hy => hw y (.tail _ hy)) e he'

/-! ### Contexts -/

@[simp] theorem Head.ctx_setCtx (h : Head) (k : Nat) (c : Context) : (h.setCtx k c).ctx k = c := by
  simp [Head.ctx, Head.setCtx]

theorem Head.ctx_setCtx_ne (h : Head) {k j : Nat} (c : Context) (hj : j ≠ k) : (h.setCtx k c).ctx j = h.ctx j := by
  simp [Head.ctx, Head.setCtx, Tbl.get_set_ne _ _ _ _ hj]

@[simp] theorem Head.ctx_wr (h : Head) (f : Field) (v k : Nat) : (h.wr f v).ctx k = h.ctx k := rfl
@[simp] theorem Head.ctx_emit (h : Head) (o : Out) (k : Nat) : (h.emit o).ctx k = h.ctx k := rfl
@[simp] theorem Head.ctx_put (h : Head) (a : Nat) (b : List Byte) (k : Nat) : (h.put a b).ctx k = h.ctx k := rfl

@[simp] theorem Context.gr_zero (c : Context) : c.gr 0 = 0 := rfl

/-- A general register after a write: g0 keeps reading as zero. -/
theorem Context.gr_setGr (c : Context) (i j : Fin 32) (v : Word) :
    (c.setGr i v).gr j = if j = i ∧ i.val ≠ 0 then v else c.gr j := by
  unfold Context.setGr Context.gr
  by_cases h : i.val = 0
  · simp [h]
  · by_cases hij : j = i
    · subst hij; simp [h]
    · have : i.val ≠ j.val := fun e => hij (Fin.ext e.symm)
      simp [h, hij, this]

theorem Context.hr_setHr (c : Context) (i j : Fin 8) (v : Handle) : (c.setHr i v).hr j = if j = i then v else c.hr j := by
  unfold Context.setHr Context.hr
  by_cases hij : j = i
  · subst hij; simp
  · have : i.val ≠ j.val := fun e => hij (Fin.ext e.symm)
    simp [hij, this]

end Sys2Proof.Machine
end

