-- ==== Sys2Proof/Laws/CoreMem.lean ====
section
/-! SUPPORT. Memory as a context reaches it: what a cache access changes, and what a read and a write of clean memory do. -/
namespace Sys2Proof.Machine
open Reg

/-! ### Cache accesses -/

/-- Nothing changed but the caches' registers and entries. -/
def VeilOnly (h t : Head) : Prop :=
  t = { h with fields := t.fields, veilEntries := t.veilEntries, veilClock := t.veilClock }

theorem VeilOnly.refl (h : Head) : VeilOnly h h := rfl
theorem VeilOnly.trans {h t u : Head} (a : VeilOnly h t) (b : VeilOnly t u) : VeilOnly h u := by
  unfold VeilOnly at *
  rw [b, a]

theorem VeilOnly.wr (h : Head) (f : Field) (v : Nat) : VeilOnly h (h.wr f v) := rfl
theorem VeilOnly.clock (h : Head) (n : Nat) : VeilOnly h { h with veilClock := n } := rfl
theorem VeilOnly.entries (h : Head) (t : Tbl VeilEntry) : VeilOnly h { h with veilEntries := t } := rfl

theorem Head.setVeil_only (h : Head) (n e : Nat) (x : VeilEntry) : VeilOnly h (h.setVeil n e x) := by
  unfold Head.setVeil
  exact (VeilOnly.entries h _).trans ((VeilOnly.wr _ _ _).trans (.wr _ _ _))

theorem VeilOnly.foldl {α : Type} (f : Head → α → Head) (hf : ∀ h a, VeilOnly h (f h a)) (l : List α) (h : Head) :
    VeilOnly h (l.foldl f h) := by
  induction l generalizing h with
  | nil => exact .refl h
  | cons a l ih => exact (hf h a).trans (ih (f h a))

theorem Head.veilInvalidateOthers_only (h : Head) (n page line : Nat) : VeilOnly h (h.veilInvalidateOthers n page line) := by
  unfold Head.veilInvalidateOthers
  refine VeilOnly.foldl _ (fun g c => ?_) _ _
  dsimp only
  split
  · exact .refl g
  · split
    · exact .refl g
    · exact Head.setVeil_only _ _ _ _

theorem Head.veilUse_only (h : Head) (n e line : Nat) (w : Bool) : VeilOnly h (h.veilUse n e line w) := by
  unfold Head.veilUse
  dsimp only
  split <;> exact Head.setVeil_only _ _ _ _

theorem Head.veilTouch_only (h : Head) (n k page line : Nat) (w : Bool) : VeilOnly h (h.veilTouch n k page line w) := by
  unfold Head.veilTouch
  extract_lets state g0 g1 g2
  have e0 : VeilOnly h g0 := by
    unfold g0
    split
    · exact Head.veilInvalidateOthers_only _ _ _ _
    · exact .refl h
  have e1 : VeilOnly h g1 := e0.trans (.clock _ _)
  have e2 : VeilOnly h g2 := e1.trans (.wr _ _ _)
  split
  · exact e1
  · split
    · exact e1.trans ((VeilOnly.wr _ _ _).trans (Head.veilUse_only _ _ _ _ _))
    · split
      · exact e2
      · split
        · exact e2
        · exact e2.trans ((Head.setVeil_only _ _ _ _).trans ((Head.setVeil_only _ _ _ _).trans (Head.veilUse_only _ _ _ _ _)))

/-- An access through a cache changes the caches alone. -/
theorem Head.veilAccess_only (h : Head) (n k a : Nat) (w : Bool) : VeilOnly h (h.veilAccess n k a w) := by
  unfold Head.veilAccess
  split
  · exact Head.veilTouch_only _ _ _ _ _ _
  · exact .refl h

theorem VeilOnly.mem {h t : Head} (a : VeilOnly h t) : t.mem = h.mem := by rw [a]
theorem VeilOnly.memc {h t : Head} (a : VeilOnly h t) : t.memc = h.memc := by rw [a]
theorem VeilOnly.ctxs {h t : Head} (a : VeilOnly h t) : t.ctxs = h.ctxs := by rw [a]
theorem VeilOnly.inReset {h t : Head} (a : VeilOnly h t) : t.plt.inReset = h.plt.inReset := by rw [a]

/-! ### Clean memory -/

theorem Head.touchLine_clean (h : Head) (n who : Nat) (hc : Tbl.find h.memc.lines n = none) :
    h.touchLine n who .clean = (true, h) := by
  simp [Head.touchLine, Head.lineState, hc]

theorem Head.touchLines_clean (h : Head) (who : Nat) (l : List Nat) (hc : ∀ n ∈ l, Tbl.find h.memc.lines n = none) :
    h.touchLines who l = (true, h) := by
  induction l with
  | nil => rfl
  | cons n l ih =>
    simp only [Head.touchLines, Head.touchLine_clean h n who (hc n (.head _)), ih (fun m hm => hc m (.tail _ hm))]
    rfl

/-- Raw cells put under a line keep memory's canonical form. -/
theorem Head.wf_setCells (h : Head) (n : Nat) (cipher check : List Byte) (hm : Memory.wf h.mem = true) :
    Memory.wf (h.setCells n cipher check).mem = true := by
  change Memory.wf (match h.plainOf n cipher check with
    | some b => Memory.writeAll h.mem (lineAddr n) b
    | none => h.mem) = true
  split
  · exact Memory.wf_writeAll _ _ _ hm
  · exact hm

/-- With no raw line every byte can be read. -/
theorem Head.badLines_clean (h : Head) (a n : Nat) (hc : h.memc.lines = []) : h.badLines a n = [] := by
  simp [Head.badLines, hc]

theorem Head.badSegs_clean (h : Head) (ss : List Seg) (off n : Nat) (hc : h.memc.lines = []) : h.badSegs off n ss = [] := by
  induction ss generalizing off n with
  | nil => rfl
  | cons s t ih => simp [Head.badSegs, ih, Head.badLines_clean h _ _ hc]

/-- A head whose merge buffer alone may differ, and the caches. -/
def MergeOnly (h t : Head) : Prop :=
  t = { h with fields := t.fields, veilEntries := t.veilEntries, veilClock := t.veilClock,
               memc := { h.memc with merge := t.memc.merge, lines := t.memc.lines }, mem := t.mem }

/-- A read of clean memory gives its bytes. -/
theorem Head.readMem_clean (h : Head) (a n who : Nat) (hc : dramBase ≤ a → CleanLines h a n) :
    ∃ t, h.readMem a n who = (some (h.bytes a n), t) ∧ t.mem = h.mem ∧ MergeOnly h t := by
  unfold Head.readMem
  by_cases ha : a < dramBase
  · exact ⟨h, by rw [if_pos ha], rfl, rfl⟩
  · rw [if_neg ha]
    rw [Head.touchLines_clean (h.mergeOut (linesOf a n)) who _ (fun l hl => hc (Nat.le_of_not_lt ha) l hl)]
    exact ⟨h.mergeOut (linesOf a n), rfl, rfl, rfl⟩

theorem Head.writeLine_clean (h : Head) (n who : Nat) (whole : Bool) (hc : Tbl.find h.memc.lines n = none) :
    ∃ t, h.writeLine n who whole = (true, t) ∧ t.mem = h.mem ∧ MergeOnly h t ∧
      ∀ m, Tbl.find h.memc.lines m = none → Tbl.find t.memc.lines m = none := by
  unfold Head.writeLine
  split
  · refine ⟨_, rfl, rfl, rfl, fun m hm => ?_⟩
    by_cases hmn : m = n
    · subst hmn; exact Tbl.find_del_self _ _
    · exact (Tbl.find_del_ne _ hmn).trans hm
  · split
    · exact ⟨h, rfl, rfl, rfl, fun _ hm => hm⟩
    · rw [Head.touchLine_clean h n who hc]
      have e : h.settleLine n = h := by simp [Head.settleLine, hc]
      simp only [if_true, e]
      exact ⟨_, rfl, rfl, rfl, fun _ hm => hm⟩

theorem MergeOnly.trans {h t u : Head} (a : MergeOnly h t) (b : MergeOnly t u) : MergeOnly h u := by
  unfold MergeOnly at *
  rw [b, a]

theorem Head.writeLines_clean (who a len : Nat) (l : List Nat) (h : Head)
    (hc : ∀ n ∈ l, Tbl.find h.memc.lines n = none) :
    ∃ t, h.writeLines who a len l = ([], t) ∧ t.mem = h.mem ∧ MergeOnly h t := by
  induction l generalizing h with
  | nil => exact ⟨h, rfl, rfl, rfl⟩
  | cons n l ih =>
    obtain ⟨t, e1, e2, e3, e4⟩ := Head.writeLine_clean h n who (a ≤ lineAddr n && lineAddr n + 64 ≤ a + len) (hc n (.head _))
    obtain ⟨u, f1, f2, f3⟩ := ih t (fun m hm => e4 m (hc m (.tail _ hm)))
    refine ⟨u, ?_, f2.trans e2, e3.trans f3⟩
    simp only [Head.writeLines, e1, f1, if_true]

/-- A write of clean memory puts its bytes. -/
theorem Head.writeMem_clean (h : Head) (a who : Nat) (b : List Byte) (hc : dramBase ≤ a → CleanLines h a b.length) :
    ∃ t, h.writeMem a who b = (true, t) ∧ t.mem = Memory.writeAll h.mem a b ∧ MergeOnly h t := by
  unfold Head.writeMem
  by_cases ha : a < dramBase
  · exact ⟨h.put a b, by rw [if_pos ha], rfl, rfl⟩
  · rw [if_neg ha]
    obtain ⟨t, e1, e2, e3⟩ := Head.writeLines_clean who a b.length (linesOf a b.length) h (hc (Nat.le_of_not_lt ha))
    rw [e1]
    refine ⟨t.put a b, rfl, by rw [Head.put_mem, e2], e3.trans rfl⟩

/-- A context reads clean memory at a key. -/
theorem Head.loadKey_clean (h : Head) (k key n : Nat) (hc : dramBase ≤ key → key < 2 ^ 48 → CleanLines h key n) :
    ∃ t, h.loadKey k key n .clean = (.ok (h.bytes key n), t) ∧ t.mem = h.mem ∧ MergeOnly h t ∧
      (¬ (dramBase ≤ key ∧ key < 2 ^ 48) → t = h) := by
  unfold Head.loadKey
  by_cases hd : dramBase ≤ key ∧ key < 2 ^ 48
  · rw [if_pos hd]
    extract_lets g
    have hv : VeilOnly h g := by
      unfold g
      split
      · exact .refl h
      · exact Head.veilAccess_only _ _ _ _ _
    have hg : dramBase ≤ key → CleanLines g key n := fun h1 l hl => by rw [hv.memc]; exact hc h1 hd.2 l hl
    obtain ⟨t, e1, e2, e3⟩ := Head.readMem_clean g key n 0 hg
    have ev : g.veilCheck k key .clean = (.clean, g) := by simp [Head.veilCheck]
    simp only [ev, e1]
    refine ⟨t, ?_, e2.trans hv.mem, ?_, fun hn => absurd hd hn⟩
    · simp only [if_true, Head.bytes, hv.mem]
    · have : MergeOnly h g := by unfold MergeOnly; rw [hv]
      exact this.trans e3
  · rw [if_neg hd, if_neg (by decide)]
    exact ⟨h, rfl, rfl, rfl, fun _ => rfl⟩

/-- A context writes clean memory at a key. -/
theorem Head.storeKey_clean (h : Head) (k key : Nat) (b : List Byte)
    (hc : dramBase ≤ key → key < 2 ^ 48 → CleanLines h key b.length) :
    ∃ t, h.storeKey k key b = (none, t) ∧ t.mem = Memory.writeAll h.mem key b ∧ MergeOnly h t ∧
      (¬ (dramBase ≤ key ∧ key < 2 ^ 48) → t = h.put key b) := by
  unfold Head.storeKey
  by_cases hd : dramBase ≤ key ∧ key < 2 ^ 48
  · rw [if_pos hd]
    extract_lets g
    have hv : VeilOnly h g := by
      unfold g
      split
      · exact .refl h
      · exact Head.veilAccess_only _ _ _ _ _
    have hg : dramBase ≤ key → CleanLines g key b.length := fun h1 l hl => by rw [hv.memc]; exact hc h1 hd.2 l hl
    obtain ⟨t, e1, e2, e3⟩ := Head.writeMem_clean g key 0 b hg
    simp only [e1]
    refine ⟨t, rfl, by rw [e2, hv.mem], ?_, fun hn => absurd hd hn⟩
    have : MergeOnly h g := by unfold MergeOnly; rw [hv]
    exact this.trans e3
  · rw [if_neg hd]
    exact ⟨h.put key b, rfl, rfl, rfl, fun _ => rfl⟩

end Sys2Proof.Machine
end

