-- ==== Sys2Proof/Laws/Events.lean ====
section
/-! SUPPORT. What a record, its interrupt, its trace frame and its message to the twin leave alone, once for each shared
operation. -/
namespace Sys2Proof.Machine
open Reg

/-! ### The relation -/

theorem OnlyNotes.refl (h : Head) : OnlyNotes h h := ⟨fun _ _ => rfl, rfl⟩

theorem OnlyNotes.trans {h t u : Head} (a : OnlyNotes h t) (b : OnlyNotes t u) : OnlyNotes h u := by
  refine ⟨fun f hf => (b.1 f hf).trans (a.1 f hf), ?_⟩
  obtain ⟨-, ea⟩ := a
  obtain ⟨-, eb⟩ := b
  rw [eb, ea]

/-- Writing one of the fields that records may change. -/
theorem OnlyNotes.wr {h : Head} {f : Field} (v : Nat) (hf : f ∈ noteFields) : OnlyNotes h (h.wr f v) :=
  ⟨fun g hg => Head.rd_wr_ne h f g v (hg f hf), rfl⟩

theorem OnlyNotes.emit (h : Head) (o : Out) : OnlyNotes h (h.emit o) := ⟨fun _ _ => rfl, rfl⟩

theorem OnlyNotes.setConn (h : Head) (c : Nat) (x : Conn) : OnlyNotes h (h.setConn c x) := ⟨fun _ _ => rfl, rfl⟩

theorem OnlyNotes.foldl {α : Type} (f : Head → α → Head) (hf : ∀ h a, OnlyNotes h (f h a)) (l : List α) (h : Head) :
    OnlyNotes h (l.foldl f h) := by
  induction l generalizing h with
  | nil => exact .refl h
  | cons a l ih => exact (hf h a).trans (ih (f h a))

theorem OnlyNotes.mem {h t : Head} (a : OnlyNotes h t) : t.mem = h.mem := by rw [a.2]
theorem OnlyNotes.ctxs {h t : Head} (a : OnlyNotes h t) : t.ctxs = h.ctxs := by rw [a.2]
theorem OnlyNotes.ctx {h t : Head} (a : OnlyNotes h t) (k : Nat) : t.ctx k = h.ctx k := by simp only [Head.ctx, a.ctxs]
theorem OnlyNotes.inReset {h t : Head} (a : OnlyNotes h t) : t.plt.inReset = h.plt.inReset := by rw [a.2]

/-! ### Messages to the twin -/

theorem Head.showCredits_notes (h : Head) : OnlyNotes h h.showCredits := by
  unfold Head.showCredits
  have key : ∀ (l : List Nat) (g : Head), (∀ v ∈ l, v < 4) → OnlyNotes g (l.foldl (fun h v =>
      h.wr (SD_CRED_VC.bit v) (min 65535 ((vcGet h.sd.grants v + 2 ^ 32 - vcGet h.sd.used v) % 2 ^ 32))) g) := by
    intro l
    induction l with
    | nil => intro g _; exact .refl g
    | cons v l ih =>
      intro g hl
      refine .trans (OnlyNotes.wr _ ?_) (ih _ (fun w hw => hl w (.tail _ hw)))
      have hv : v ∈ List.range 4 := List.mem_range.mpr (hl v (.head _))
      simp only [noteFields, List.mem_append]
      exact .inr (List.mem_map_of_mem hv)
  exact key _ h (fun v hv => List.mem_range.mp hv)

theorem Head.creditSpend_notes (h : Head) (c u : Nat) : OnlyNotes h (h.creditSpend c u) := by
  unfold Head.creditSpend
  dsimp only
  split
  · exact .setConn _ _ _
  · exact .trans ⟨fun _ _ => rfl, rfl⟩ (Head.showCredits_notes _)

theorem Head.pumpMsg_notes (c fuel : Nat) (h : Head) (m : ChrtMsg) : OnlyNotes h (h.pumpMsg c fuel m).1 := by
  induction fuel generalizing h m with
  | zero => exact .refl h
  | succ n ih =>
    simp only [Head.pumpMsg]
    split
    · exact .refl h
    · split
      · exact (Head.creditSpend_notes h c _).trans (.trans (.emit _ _) (ih _ _))
      · exact .refl h

theorem Head.pumpList_notes (c : Nat) (l : List ChrtMsg) (h : Head) : OnlyNotes h (h.pumpList c l).1 := by
  induction l generalizing h with
  | nil => exact .refl h
  | cons m t ih =>
    simp only [Head.pumpList]
    split
    · exact Head.pumpMsg_notes _ _ _ _
    · exact (Head.pumpMsg_notes _ _ _ _).trans (ih _)

theorem Head.pumpAnswers_notes (c : Nat) (l : List ReadAnswer) (h : Head) : OnlyNotes h (h.pumpAnswers c l).1 := by
  induction l generalizing h with
  | nil => exact .refl h
  | cons a t ih =>
    simp only [Head.pumpAnswers]
    split
    · exact (Head.creditSpend_notes h c _).trans (.trans (.emit _ _) (ih _))
    · exact .refl h

theorem Head.sendAnswers_notes (h : Head) (c : Nat) : OnlyNotes h (h.sendAnswers c) := by
  unfold Head.sendAnswers
  dsimp only
  split
  · exact .refl h
  · exact (Head.pumpAnswers_notes _ _ _).trans (.setConn _ _ _)

theorem Head.pump_notes (h : Head) (c : Nat) : OnlyNotes h (h.pump c) := by
  refine (Head.sendAnswers_notes h c).trans ?_
  unfold Head.pump Head.pumpOut
  split
  · exact .refl _
  · exact (OnlyNotes.setConn _ _ _).trans ((Head.pumpList_notes _ _ _).trans (.setConn _ _ _))

theorem Head.sendBody_notes (h : Head) (c : Nat) (b : ChrtBody) (e j : Option Nat) : OnlyNotes h (h.sendBody c b e j) := by
  unfold Head.sendBody
  dsimp only
  split
  · exact .refl h
  · exact (OnlyNotes.setConn _ _ _).trans (Head.pump_notes _ _)

theorem Head.sendTwin_notes (h : Head) (m : TwinMsg) : OnlyNotes h (h.sendTwin m) := by
  unfold Head.sendTwin
  split
  · exact Head.sendBody_notes _ _ _ _ _
  · exact .refl h

theorem Head.sendEvent_notes (h : Head) (code about p0 p1 p2 : Nat) (peers : List Nat) :
    OnlyNotes h (h.sendEvent code about p0 p1 p2 peers) :=
  (Head.sendTwin_notes _ _).trans (.foldl _ (fun h c => Head.sendBody_notes h c _ _ _) _ _)

/-! ### Records -/

theorem Head.trace_notes (h : Head) (type : Nat) (payload : List Nat) : OnlyNotes h (h.trace type payload) := by
  unfold Head.trace
  split
  · exact .refl h
  · exact ⟨fun _ _ => rfl, rfl⟩

theorem Head.agDrop_notes (h : Head) {sev : Nat} (hs : sev < 4) : OnlyNotes h (h.agDrop sev) := by
  refine .wr _ ?_
  simp only [noteFields, List.mem_append]
  exact .inl (.inl (.inr (List.mem_map_of_mem (List.mem_range.mpr hs))))

theorem Head.agSpend_notes (h : Head) (sev : Nat) : OnlyNotes h (h.agSpend sev) := by
  unfold Head.agSpend
  split
  · exact .wr _ (by simp [noteFields])
  · exact .refl h

theorem Head.agNext_notes (h : Head) (seq : Nat) : OnlyNotes h (h.agNext seq) := by
  unfold Head.agNext
  split
  · exact .wr _ (by simp [noteFields])
  · exact .wr _ (by simp [noteFields])

theorem Head.agPlace_notes (h : Head) (pos : Nat) (r : EvRec) : OnlyNotes h (h.agPlace pos r) := ⟨fun _ _ => rfl, rfl⟩

theorem Head.record_notes (h : Head) (source code : Nat) {sev : Nat} (hs : sev < 4) (p0 p1 p2 p3 : Nat) :
    OnlyNotes h (h.record source code sev p0 p1 p2 p3) := by
  unfold Head.record
  split
  · exact Head.agDrop_notes h hs
  · split
    · exact Head.agDrop_notes h hs
    · split
      · exact Head.agDrop_notes h hs
      · exact (Head.agPlace_notes _ _ _).trans ((Head.agSpend_notes _ _).trans ((Head.agNext_notes _ _).trans
          ((OnlyNotes.wr _ (by simp [noteFields])).trans (Head.trace_notes _ _ _))))

theorem Head.raise_notes (h : Head) {core : Nat} (hc : core < 32) (bit : Nat) : OnlyNotes h (h.raise core bit) := by
  refine .wr _ ?_
  simp only [noteFields, List.mem_append]
  exact .inl (.inr (List.mem_map_of_mem (List.mem_range.mpr hc)))

theorem Head.raiseAll_notes (h : Head) (bit : Nat) : OnlyNotes h (h.raiseAll bit) := by
  unfold Head.raiseAll
  have key : ∀ (l : List Nat) (g : Head), (∀ v ∈ l, v < 32) → OnlyNotes g (l.foldl (fun h c => h.raise c bit) g) := by
    intro l
    induction l with
    | nil => intro g _; exact .refl g
    | cons v l ih =>
      intro g hl
      exact (Head.raise_notes g (hl v (.head _)) bit).trans (ih _ (fun w hw => hl w (.tail _ hw)))
  exact key _ h (fun v hv => List.mem_range.mp hv)

/-- A hardware record changes nothing but what `OnlyNotes` names. -/
theorem Head.post_notes (h : Head) (source code : Nat) {sev : Nat} (hs : sev < 4) (p0 p1 p2 p3 : Nat) :
    OnlyNotes h (h.post source code sev p0 p1 p2 p3) := by
  unfold Head.post
  dsimp only
  split
  · exact (Head.record_notes h source code hs p0 p1 p2 p3).trans
      ((Head.raiseAll_notes _ _).trans (Head.sendEvent_notes _ _ _ _ _ _ _))
  · exact Head.record_notes h source code hs p0 p1 p2 p3

/-! ### What does not touch the Afterglow positions -/

theorem Head.trace_ag (h : Head) (type : Nat) (payload : List Nat) : (h.trace type payload).ag = h.ag := by
  unfold Head.trace
  split <;> rfl

theorem foldl_ag {α : Type} (f : Head → α → Head) (hf : ∀ h a, (f h a).ag = h.ag) (l : List α) (h : Head) :
    (l.foldl f h).ag = h.ag := by
  induction l generalizing h with
  | nil => rfl
  | cons a l ih => rw [List.foldl_cons, ih, hf]

theorem Head.showCredits_ag (h : Head) : h.showCredits.ag = h.ag := by
  unfold Head.showCredits
  exact foldl_ag (fun (h : Head) (v : Nat) => h.wr (SD_CRED_VC.bit v) _) (fun g v => Head.wr_ag g _ _) _ _

theorem Head.creditSpend_ag (h : Head) (c u : Nat) : (h.creditSpend c u).ag = h.ag := by
  unfold Head.creditSpend
  dsimp only
  split
  · rfl
  · exact Head.showCredits_ag _

theorem Head.pumpMsg_ag (c fuel : Nat) (h : Head) (m : ChrtMsg) : (h.pumpMsg c fuel m).1.ag = h.ag := by
  induction fuel generalizing h m with
  | zero => rfl
  | succ n ih =>
    simp only [Head.pumpMsg]
    split
    · rfl
    · split
      · rw [ih]; exact Head.creditSpend_ag h c _
      · rfl

theorem Head.pumpList_ag (c : Nat) (l : List ChrtMsg) (h : Head) : (h.pumpList c l).1.ag = h.ag := by
  induction l generalizing h with
  | nil => rfl
  | cons m t ih =>
    simp only [Head.pumpList]
    split
    · exact Head.pumpMsg_ag _ _ _ _
    · rw [ih]; exact Head.pumpMsg_ag _ _ _ _

theorem Head.pumpAnswers_ag (c : Nat) (l : List ReadAnswer) (h : Head) : (h.pumpAnswers c l).1.ag = h.ag := by
  induction l generalizing h with
  | nil => rfl
  | cons a t ih =>
    simp only [Head.pumpAnswers]
    split
    · rw [ih]; exact Head.creditSpend_ag h c _
    · rfl

theorem Head.sendAnswers_ag (h : Head) (c : Nat) : (h.sendAnswers c).ag = h.ag := by
  unfold Head.sendAnswers
  dsimp only
  split
  · rfl
  · exact Head.pumpAnswers_ag _ _ _

theorem Head.pump_ag (h : Head) (c : Nat) : (h.pump c).ag = h.ag := by
  refine Eq.trans ?_ (Head.sendAnswers_ag h c)
  unfold Head.pump Head.pumpOut
  split
  · rfl
  · exact Head.pumpList_ag _ _ _

theorem Head.sendBody_ag (h : Head) (c : Nat) (b : ChrtBody) (e j : Option Nat) : (h.sendBody c b e j).ag = h.ag := by
  unfold Head.sendBody
  dsimp only
  split
  · rfl
  · exact Head.pump_ag _ _

theorem Head.sendTwin_ag (h : Head) (m : TwinMsg) : (h.sendTwin m).ag = h.ag := by
  unfold Head.sendTwin
  split
  · exact Head.sendBody_ag _ _ _ _ _
  · rfl

theorem Head.sendEvent_ag (h : Head) (code about p0 p1 p2 : Nat) (peers : List Nat) :
    (h.sendEvent code about p0 p1 p2 peers).ag = h.ag :=
  (foldl_ag _ (fun h c => Head.sendBody_ag h c _ _ _) _ _).trans (Head.sendTwin_ag _ _)

theorem Head.agSpend_ag (h : Head) (sev : Nat) : (h.agSpend sev).ag = h.ag := by
  unfold Head.agSpend
  split <;> rfl

theorem Head.agNext_ag (h : Head) (seq : Nat) : (h.agNext seq).ag = h.ag := by
  unfold Head.agNext
  split <;> rfl

/-- What a record posted now does to the Afterglow positions, where the recorder has a place for it. -/
theorem Head.record_ag (h : Head) (source code sev p0 p1 p2 p3 pos : Nat) (hx : h.is AG_STS_EXHAUSTED = false)
    (ht : sev < 3 → h.rd AG_STS_TOKENS ≠ 0) (hp : h.agPosition sev = some pos) :
    (h.record source code sev p0 p1 p2 p3).ag = Tbl.put h.ag pos (h.newRecord source code sev p0 p1 p2 p3) := by
  unfold Head.record
  rw [if_neg (by simp [hx]), if_neg (fun hc => ht hc.1 hc.2), hp]
  dsimp only
  rw [Head.trace_ag, Head.wr_ag, Head.agNext_ag, Head.agSpend_ag, Head.agPlace]

theorem Head.post_ag (h : Head) (source code sev p0 p1 p2 p3 : Nat) :
    (h.post source code sev p0 p1 p2 p3).ag = (h.record source code sev p0 p1 p2 p3).ag := by
  unfold Head.post
  dsimp only
  split
  · rw [Head.sendEvent_ag, Head.raiseAll]
    exact foldl_ag (fun (h : Head) (c : Nat) => h.raise c 3) (fun g c => Head.wr_ag g _ _) _ _
  · rfl

/-- A record stands where the recorder has a place for it. -/
theorem Head.post_recorded (h : Head) (source code sev p0 p1 p2 p3 : Nat) :
    Recorded h (h.post source code sev p0 p1 p2 p3) code sev p0 p1 p2 p3 := by
  intro hx ht pos hp
  rw [Head.post_ag, Head.record_ag h source code sev p0 p1 p2 p3 pos (by simpa [Head.is] using hx) ht hp]
  exact ⟨_, Tbl.find_put_self _ _ _, rfl, rfl, rfl, rfl, rfl, rfl⟩

end Sys2Proof.Machine
end

