-- ==== Sys2Proof/Laws/Terdan.lean ====
section
/-! SUPPORT. One lemma for each shared operation of the Terdan instructions: what a command that is applied answers, what an
instruction that executes does, and what writing a result does. -/
namespace Sys2Proof.Machine
open Reg

/-- A command that is applied to a head out of reset answers the head it makes. -/
theorem State.apply_live (s : State) (f : Head → Head) (h : s.head.plt.inReset = false) :
    s.apply f = .next { s with head := f s.head } := by
  simp [State.apply, State.applyAlways, h]

/-- A command that is applied to a head held in reset leaves it. -/
theorem State.apply_reset (s : State) (f : Head → Head) (h : s.head.plt.inReset = true) : s.apply f = .next s := by
  simp [State.apply, State.applyAlways, h]

/-- A command that leaves the dump as it was causes no reset. -/
theorem Head.followed_same (h : Head) (f : Head → Head) (hd : (f h).fb.dump = h.fb.dump) : h.followed f = f h := by
  unfold Head.followed Head.dumpFollow
  rw [hd]
  unfold Head.resetDue
  cases hx : h.fb.dump with
  | none => rfl
  | some d =>
    cases h1 : d.finished <;> cases h2 : d.reset <;> simp [h1, h2]

theorem State.applyPort_live (s : State) (f : Head → Head) (h : s.head.plt.inReset = false)
    (hd : (f s.head).fb.dump = s.head.fb.dump) : s.applyPort f = .next { s with head := f s.head } := by
  rw [State.applyPort, State.apply_live s _ h, Head.followed_same _ _ hd]

theorem State.applyPort_reset (s : State) (f : Head → Head) (h : s.head.plt.inReset = true) : s.applyPort f = .next s :=
  State.apply_reset s _ h

/-- An instruction that executes does its own effect. -/
theorem Head.instr_executes {h : Head} {x : Ctx} {may : Level → Bool} (e : Executes h x may)
    (f : Head → Nat → Context → Head) : h.instr x may f = f h (ctxKey x) (h.ctx (ctxKey x)) := by
  obtain ⟨-, hr, hs, hi, hf, hl, hm⟩ := e
  have line : h.fetchLine (h.ctx (ctxKey x)) = (true, h) := by
    unfold Head.fetchLine
    split
    · exact Head.touchLines_clean h 0 _ (hl ‹_›)
    · rfl
  unfold Head.instr Head.atInstr
  simp only [hr, ne_eq, not_true_eq_false, false_or]
  rw [if_neg hs, if_neg (by simpa using hi)]
  unfold Head.fetched
  simp only [hf, line, hm, if_true]

theorem Executes.live {h : Head} {x : Ctx} {may : Level → Bool} (e : Executes h x may) : h.plt.inReset = false := e.1

/-- Replacing a context changes no other and nothing else. -/
theorem Head.setCtx_only (h : Head) (k : Nat) (c : Context) : OnlyContext h (h.setCtx k c) k :=
  ⟨fun _ => rfl, fun _ => rfl, rfl, fun _ hj => Head.ctx_setCtx_ne h c hj⟩

/-- The effect of writing a result. -/
theorem Head.result_spec (h : Head) (k : Nat) (rd : Fin 32) (v : Word) : Result h (h.result k (h.ctx k) rd v) k rd v := by
  refine ⟨Head.setCtx_only _ _ _, fun i => ?_, ?_⟩
  · simp only [Head.result, Head.ctx_setCtx, Context.next]
    exact Context.gr_setGr (h.ctx k) rd i v
  · simp only [Head.result, Head.ctx_setCtx, Context.next, Context.setGr]
    split <;> rfl

/-- An integer instruction that executes writes its result and does nothing else. -/
theorem State.alu_spec {s : State} {x : Ctx} (e : Executes s.head x anyLevel) (rd : Fin 32) (f : Context → Word) :
    ∃ t, s.alu x rd f = .next { s with head := t } ∧
      Result s.head t (ctxKey x) rd (f (s.head.ctx (ctxKey x))) :=
  ⟨_, by rw [State.alu, State.apply_live s _ e.live, Head.instr_executes e], Head.result_spec _ _ _ _⟩

/-! ### Exceptions -/

/-- The copies of two fields at a core have different keys where the fields stand at different places. -/
theorem Field.ofCore_ne {f g : Field} (k : Nat) (h : f.addr * 64 + f.lo ≠ g.addr * 64 + g.lo) :
    (f.ofCore k).key ≠ (g.ofCore k).key := fun e => h (Nat.add_left_cancel e)

theorem levelCode_lt (l : Level) : levelCode l < 4 := by cases l <;> decide

/-- The exception registers of a level. -/
def excFields (v : Bool) : List Field :=
  if v then [CORE_EPC_V_PC, CORE_EST_V_ST, CORE_ECAUSE_V_CODE, CORE_ECAUSE_V_FROM, CORE_ECAUSE_V_STORE, CORE_ECAUSE_V_FETCH,
    CORE_ECAUSE_V_IRQ, CORE_EADDR_V_ADDR]
  else [CORE_EPC_S_PC, CORE_EST_S_ST, CORE_ECAUSE_S_CODE, CORE_ECAUSE_S_FROM, CORE_ECAUSE_S_STORE, CORE_ECAUSE_S_FETCH,
    CORE_ECAUSE_S_IRQ, CORE_EADDR_S_ADDR]

theorem excWrites_fields (k : Nat) (v : Bool) (code epc st level irq : Nat) (x : ExcInfo) :
    (excWrites k v code epc st level irq x).map (·.1) = (excFields v).map (·.ofCore k) := by cases v <;> rfl

theorem excWrites_pairwise (k : Nat) (v : Bool) (code epc st level irq : Nat) (x : ExcInfo) :
    (excWrites k v code epc st level irq x).Pairwise (fun a b => a.1.key ≠ b.1.key) := by
  have h : (excFields v).Pairwise (fun a b => a.addr * 64 + a.lo ≠ b.addr * 64 + b.lo) := by cases v <;> decide
  have h2 : ((excFields v).map (·.ofCore k)).Pairwise (fun a b => a.key ≠ b.key) :=
    List.pairwise_map.mpr (h.imp (fun hab => Field.ofCore_ne k hab))
  rw [← excWrites_fields k v code epc st level irq x, List.pairwise_map] at h2
  exact h2

theorem excWrites_width (k : Nat) (v : Bool) (code epc st level irq : Nat) (x : ExcInfo) :
    ∀ e ∈ excWrites k v code epc st level irq x, e.1.width ≤ 64 := by
  have h : ∀ f ∈ excFields v, f.width ≤ 64 := by cases v <;> decide
  intro e he
  have : e.1 ∈ (excFields v).map (·.ofCore k) := by
    rw [← excWrites_fields k v code epc st level irq x]
    exact List.mem_map_of_mem he
  obtain ⟨f, hf, hfe⟩ := List.mem_map.mp this
  rw [← hfe]
  exact h f hf

/-- Exception entry at a control core (R96). -/
theorem Head.enterExc_spec (h : Head) (n : Fin 32) (code : Nat) (x : ExcInfo) (hc : code < 256)
    (hm : MayTake (h.ctx n.val) (excAtV code (h.ctx n.val))) :
    TookException h (h.enterExc n.val code x) n (excAtV code (h.ctx n.val)) code
      (if code = excSys then (h.ctx n.val).pc + 4 else (h.ctx n.val).pc)
      ((if code = excIntr then h.rd (CORE_IPEND_PEND.ofCore n.val) else 0) % 32) x := by
  unfold Head.enterExc MayTake at *
  dsimp only
  rw [if_neg (by rw [hm]; decide)]
  generalize excAtV code (h.ctx n.val) = v
  generalize (if code = excSys then (h.ctx n.val).pc + 4 else (h.ctx n.val).pc) = epc
  generalize (if code = excIntr then h.rd (CORE_IPEND_PEND.ofCore n.val) else 0) = irq
  generalize hl : excWrites n.val v code epc.toNat (h.ctx n.val).st.toNat (levelCode (h.ctx n.val).level) irq x = l
  have hfr := Head.wrList_frame h l
  have hrd : ∀ e ∈ l, (h.wrList l).rd e.1 = e.2 % 2 ^ e.1.width := by
    subst hl
    exact Head.rd_wrList h _ (excWrites_pairwise ..) (fun e he => excWrites_width _ _ _ _ _ _ _ _ e he)
  have hmap : l.map (·.1) = (excFields v).map (·.ofCore n.val) := by subst hl; exact excWrites_fields ..
  refine ⟨?_, fun f hf => ?_, fun a => ?_, ?_, fun j hj => ?_, Head.ctx_setCtx _ _ _⟩
  · have h1 := epc.isLt
    have h2 := (h.ctx n.val).st.isLt
    have h3 := levelCode_lt (h.ctx n.val).level
    subst hl
    simp only [excWrites, List.mem_cons, List.not_mem_nil, or_false, forall_eq_or_imp, forall_eq, Head.rd_setCtx] at hrd ⊢
    obtain ⟨r1, r2, r3, r4, r5, r6, r7, r8⟩ := hrd
    refine ⟨r1.trans ?_, r2.trans ?_, r3.trans ?_, r4.trans ?_, r5.trans ?_, r6.trans ?_, r7.trans ?_, r8.trans ?_⟩ <;>
      cases v <;> first
        | exact Nat.mod_eq_of_lt h1 | exact Nat.mod_eq_of_lt h2 | exact Nat.mod_eq_of_lt hc
        | exact Nat.mod_eq_of_lt h3 | exact Nat.mod_eq_of_lt (Bool.toNat_lt _) | rfl
  · rw [Head.rd_setCtx]
    exact Head.rd_wrList_ne h l f (fun e he => hf e.1 (by
      have : e.1 ∈ l.map (·.1) := List.mem_map_of_mem he
      rw [hmap] at this
      cases v <;> exact this))
  · rw [hfr]; rfl
  · rw [hfr]; rfl
  · rw [Head.ctx_setCtx_ne _ _ hj, hfr]; rfl

end Sys2Proof.Machine
end

