-- ==== Sys2Proof/Tests/Slice0.lean ====
section
/-! SUPPORT. The package's own tests: ill-formed commands are refused by the check of well-formedness, small steps agree with
values worked out from spec/ by hand, and for each statement with hypotheses a concrete state and operands that meet them. -/
set_option Elab.async false

namespace Sys2Proof.Tests
open Sys2Proof.Machine Sys2Proof.Machine.Reg

/-! ### Small states -/

/-- The head right after reset. -/
def live : Head := State.reset.head
/-- The state of a head with nothing waiting. -/
def st (h : Head) : State := { pending := [], head := h }
/-- The head after one command. -/
def after (c : Instr) (h : Head) : Head := match exec c (st h) with
  | .next t => t.head
  | _ => h
/-- A context that runs at a level in its own local memory. -/
def body (l : Level) : Context := { Context.fresh l .running with pc := 0x10000000 }
/-- The head with a context running at a level. -/
def running (k : Nat) (l : Level) : Head := live.setCtx k (body l)


/-- The first context of the first engine of cluster 0. -/
def recipe : Ctx := .stream 0 0 0
/-- A context with some general registers set. -/
def regs (c : Context) : List (Fin 32 × Word) → Context
  | [] => c
  | (i, v) :: l => regs (c.setGr i v) l
/-- The head with DRAM of one channel installed and filled. -/
def dram (h : Head) : Head := h.wrList [(MEM_CFG_CHANS, 1), (MEM_CFG_RBITS, 1), (MEM_CFG_WBITS, 16), (MEM_STS_FILLDONE, 1)]


/-! ### Instructions: the conditions to execute, and what each form asks for -/

/-- A control core at S, one at V, a recipe context at C, and core 0 right after reset execute. -/
theorem wit_executes : Executes (running 3 .s) (.core 3) notC ∧ Executes (running 3 .v) (.core 3) anyLevel ∧
    Executes (running 32 .c) recipe onlyC ∧ Executes live (.core 0) anyLevel := by
  unfold Executes; decide +kernel

/-- Division: a divisor of zero, the overflowing quotient, and neither. -/
theorem wit_products_and_quotients :
    let h := live.setCtx 3 (regs (body .s) [(1, 0x8000000000000000), (2, -1), (3, 7)])
    Executes h (.core 3) anyLevel ∧ (st h).reg (.core 3) 4 = 0 ∧ (st h).reg (.core 3) 1 = 0x8000000000000000 ∧
      (st h).reg (.core 3) 2 = -1 ∧ (st h).reg (.core 3) 3 ≠ 0 := by
  unfold Executes; decide +kernel

/-- A jump through a register whose target is a multiple of 4. -/
theorem wit_branches_and_jumps :
    let h := live.setCtx 3 (regs (body .s) [(1, 0x10000040)])
    Executes h (.core 3) anyLevel ∧ ((st h).reg (.core 3) 1 + BitVec.ofInt 64 (BitVec.toInt (-4 : BitVec 16))).toNat % 4 = 0 := by
  unfold Executes; decide +kernel

/-- SYS, BREAK and an undefined word with the handler bits clear; an interrupt pending, unmasked and enabled, on a core that runs
and on one that waits for an epoch. -/
theorem wit_exception_entry :
    let irq (r : Run) := (live.setCtx 3 { body .s with ie := true, run := r }).wrList
      [(CORE_IPEND_PEND.ofCore 3, 4), (CORE_IMASK_MASK.ofCore 3, 4)]
    Executes (running 3 .s) (.core 3) notC ∧ MayTake (body .s) true ∧ MayTake (body .s) false ∧
      (irq .running).plt.inReset = false ∧ ((irq .running).ctx 3).run = .running ∧ ((irq .running).ctx 3).ie = true ∧
      (irq .running).pendingIrq 3 ≠ 0 ∧ MayTake ((irq .running).ctx 3) false ∧
      ((irq (.epoch 7 1)).ctx 3).run = .epoch 7 1 ∧ ((irq (.applied 7 1)).ctx 3).run = .applied 7 1 := by
  unfold Executes MayTake; decide +kernel

/-- ERET from a handler of S to S, and from one of V to V; MTSR of ST with only IE differing. -/
theorem wit_exception_return :
    let s := (live.setCtx 3 { body .s with exls := true }).wr (CORE_EST_S_ST.ofCore 3) 1
    let v := live.setCtx 3 { body .v with exlv := true }
    (Executes s (.core 3) notC ∧ (s.ctx 3).exls = true ∧ s.rd (CORE_EST_S_ST.ofCore 3) % 4 = 1) ∧
      (Executes v (.core 3) notC ∧ (v.ctx 3).exlv = true ∧ v.rd (CORE_EST_V_ST.ofCore 3) % 4 = 0) ∧
      Executes (running 3 .v) (.core 3) anyLevel ∧
      ∀ i < 64, i ≠ 2 → ((st (running 3 .v)).reg (.core 3) 4).getLsbD i = (BitVec.ofNat 64 0).getLsbD i := by
  unfold Executes; decide +kernel

/-- A core stalled by WFI with a source pending, interrupts off and on. -/
theorem wit_wfi_wake :
    let h (ie : Bool) := (live.setCtx 3 { body .s with ie := ie, run := .interrupt }).wrList
      [(CORE_IPEND_PEND.ofCore 3, 4), (CORE_IMASK_MASK.ofCore 3, 4)]
    ∀ ie, (h ie).plt.inReset = false ∧ ((h ie).ctx 3).run = .interrupt ∧ (h ie).pendingIrq 3 ≠ 0 ∧ ((h ie).ctx 3).ie = ie ∧
      MayTake ((h ie).ctx 3) false := by
  unfold MayTake; decide +kernel

/-- A core at V with g1 the last double word of local memory, g2 the first of DRAM, g3 the first of the Afterglow window, g4 the
last of Billow, g5 the last of local memory's first half. -/
def loads : Head := (dram live).setCtx 3 (regs (body .v)
  [(1, 0x100FFFF8), (2, 0x100000000000), (3, 0x300000000), (4, BitVec.ofNat 64 (billowBase + billowSize - 8))])

/-- Loads and stores of local memory, DRAM and Billow, and loads of the window, each of 8 bytes at its region's edge. -/
theorem wit_loads_and_stores : Executes loads (.core 3) anyLevel ∧
    (let p (r : Fin 32) (w : Bool) := loads.place 3 (loads.ctx 3) ((st loads).reg (.core 3) r).toNat 8 w
     let a (r : Fin 32) := ((st loads).reg (.core 3) r).toNat
     (∀ r : Fin 32, 1 ≤ r.val → r.val ≤ 4 → inRegs (a r) 1 = false ∧ a r % 8 = 0) ∧
       (∀ w, p 1 w = .mem (localKey 3 0xFFFF8) ∧ p 2 w = .mem dramBase ∧ p 4 w = .mem (a 4)) ∧ p 3 false = .afterglow ∧
       IsDram dramBase ∧ ¬ IsDram (localKey 3 0xFFFF8) ∧ CleanLines loads dramBase 8) := by
  unfold Executes IsDram CleanLines; decide +kernel

/-- Atomics at V, and at S with a grant window that permits loads and stores. -/
theorem wit_atomics :
    let s := ((dram live).wrList [((CORE_GRANT_BASE.nth 0).ofCore 3, 0x1000000), ((CORE_GRANT_SIZE.nth 0).ofCore 3, 20),
      ((CORE_GRANT_R.nth 0).ofCore 3, 1), ((CORE_GRANT_W.nth 0).ofCore 3, 1)]).setCtx 3 (regs (body .s) [(1, 0x1000000FFFF8)])
    (Executes loads (.core 3) notC ∧ ((st loads).reg (.core 3) 2).toNat = dramBase ∧ dramBase % 8 = 0 ∧
      loads.inDram dramBase 8 = true ∧ dramBase + 8 ≤ 2 ^ 48 ∧ (loads.ctx 3).level = .v ∧ CleanLines loads dramBase 8) ∧
    (Executes s (.core 3) notC ∧ s.inDram 0x1000000FFFF8 8 = true ∧ s.granted (.core 3) 0x1000000FFFF8 8 .load = true ∧
      s.granted (.core 3) 0x1000000FFFF8 8 .store = true ∧ CleanLines s 0x1000000FFFF8 8) := by
  unfold Executes CleanLines; decide +kernel

/-- A recipe whose h1 names the first 64-KiB buffer of 4096 bytes and h2 a descriptor of two ranges, g2 the last double word of
the first range; no job holds them. -/
def handles : Head :=
  let c := regs { body .c with h := #v[.empty, .buffer 0x400000, .desc 7, .empty, .empty, .empty, .empty, .empty] } [(2, 4088)]
  { (live.wrList [(BLW_POOL_BASE_BASE.nth 4, 0x200100), (BLW_POOL_CNT_COUNT.nth 4, 8)]).setCtx 32 c with
    lens := [(0x400000, 4096)],
    descTbl := [(7, [{ buf := 0x400000, off := 0, len := 4096 }, { buf := 0x400000, off := 8192, len := 64 }])] }

/-- The same with the pool in DRAM, the last buffer ending where installed DRAM ends. -/
def dramHandles : Head :=
  handles.wrList [(MEM_CFG_CHANS, 1), (MEM_STS_FILLDONE, 1), (BLW_POOL_BASE_BASE.nth 4, (dramBase + 2 ^ 19 - 4096) / 4096)]

/-- A buffer and a descriptor, each reached at the end of a member. -/
theorem wit_handle_accesses : Executes handles recipe anyLevel ∧ ((st handles).reg recipe 2).toNat = 4088 ∧
    handles.segsOfHandle ((handles.ctx 32).hr 1) = some [{ buf := 0x400000, off := 0, len := 4096 }] ∧
    (∀ r : Fin 8, r = 1 ∨ r = 2 → ∃ ss, handles.segsOfHandle ((handles.ctx 32).hr r) = some ss ∧ 4088 + 8 ≤ segLen ss ∧
      handles.segAddr 4088 8 ss = some 0x200100FF8) ∧ 0x200100FF8 < dramBase ∧ handles.jobs = [] ∧
    Executes dramHandles recipe anyLevel ∧
    dramHandles.segAddr 4088 8 [{ buf := 0x400000, off := 0, len := 4096 }] = some (dramBase + 2 ^ 19 - 8) ∧
    dramHandles.inDram (dramBase + 2 ^ 19 - 8) 8 = true ∧ dramHandles.is MEM_STS_FILLDONE = true ∧
    CleanLines dramHandles (dramBase + 2 ^ 19 - 8) 8 ∧ dramHandles.jobs = [] := by
  refine ⟨by unfold Executes; decide +kernel, by decide +kernel, by decide +kernel, ?_, by decide, rfl,
    by unfold Executes; decide +kernel, by decide +kernel, by decide +kernel, by decide +kernel, by decide +kernel, rfl⟩
  rintro r (rfl | rfl)
  · exact ⟨[{ buf := 0x400000, off := 0, len := 4096 }], by decide +kernel⟩
  · exact ⟨[{ buf := 0x400000, off := 0, len := 4096 }, { buf := 0x400000, off := 8192, len := 64 }], by decide +kernel⟩


/-! ### Stream instructions, jobs and recipes -/

/-- A job of context 32 with nothing said of it. -/
def job0 : Job := Job.new 32 0x700000001 .pack (jobBlock []) .empty .empty .c 0 0
/-- A background job of class 0 with nothing said of it. -/
def work0 : Work :=
  { from_ := .background 0 1, capsule := 0, nsid := 0, ctrl := 0, row := 2, group := 0, cset := 4, opc := 5, len := 0, lba := 0,
    keyBytes := [], reads := false, writes := false, stamp := 3, cseq := 0, readEpoch := none, cap := none, data := [],
    segs := [], hostData := [], keys := [], inval := false, credit := false, bound := none, left := none, repair := false, rstatus := 0,
    dw0 := 0, discard := false, since := 0, abort := none, starved := none, state := .ready }

/-- A recipe whose g1 points at a job block in its own stack area: 4096 bytes from h1 to the buffer h2, with the PACK arguments
of ARG0. -/
def posting (arg0 : Nat) (jobs : List (Nat × Job)) : Head :=
  let c := regs { body .c with h := #v[.empty, .buffer 0x400000, .buffer 0x400001, .empty, .empty, .empty, .empty, .empty] }
    [(1, 0x10020000)]
  { ((live.wrList [(BLW_POOL_BASE_BASE.nth 4, 0x200100), (BLW_POOL_CNT_COUNT.nth 4, 8)]).setCtx 32 c).put
      (localKey 32 0x20000) (toBytes 4 0 ++ toBytes 4 4096 ++ toBytes 8 0 ++ toBytes 8 arg0) with
    lens := [(0x400000, 4096)], jobs := jobs }

/-- PACK, LOOKUP.MAP and CHUNK with a block in memory: a good block, one with a parameter out of range, and 16 jobs outstanding. -/
theorem wit_posting :
    let full := (List.range 16).map (fun i => (i, job0))
    let b := jobBlock ((posting 0xA11 []).bytes (localKey 32 0x20000) 32)
    Executes (posting 0xA11 []) recipe onlyC ∧ ((posting 0xA11 []).segsOfHandle (.buffer 0x400000)).isSome = true ∧
      outSize (.buffer 0x400001) ≠ 0 ∧
      (posting 0xA11 []).place 32 ((posting 0xA11 []).ctx 32) 0x10020000 32 false = .mem (localKey 32 0x20000) ∧
      (posting 0xA11 []).outstanding 32 < jobLimit 32 ∧ (posting 0xA11 []).jobOk .pack b (.buffer 0x400000) (.buffer 0x400001) = true ∧
      (posting 0xA11 []).jobOk .lookupMap b .empty (.buffer 0x400001) = false ∧ jobLimit 32 ≤ (posting 0xA11 full).outstanding 32 := by
  unfold Executes; decide +kernel

/-- The cases of TWAIT: a failed ticket, no job, a job that runs and one that ended. -/
theorem wit_twait :
    let h : Head := { running 32 .c with jobs := [(1, job0), (2, { job0 with ticket := 2, ended := some (0, 9) })] }
    Executes h recipe anyLevel ∧ (failedTicket 2).getLsbD 63 = true ∧ h.jobOf 32 5 = none ∧ h.jobOf 32 0x700000001 = some (1, job0) ∧
      h.jobOf 32 2 = some (2, { job0 with ticket := 2, ended := some (0, 9) }) := by
  unfold Executes; decide +kernel

/-- The cases of QWAIT, EWAIT and EWAIT.A at their boundaries. -/
theorem wit_waits :
    let h := ({ running 32 .c with queues := [(0xFF00, { posted := 3, done := 2, waiting := [] })] } : Head).wrList
      [(MER_EPOCH_EPOCH, 10), (CMT_APPLIED_EPOCH, 8)]
    Executes h recipe anyLevel ∧ h.queueThere 0xFF08 = false ∧ h.queueThere 0xFF00 = true ∧ (h.queue 0xFF00).done = 2 ∧ h.epoch = 10 ∧
      h.applied = 8 ∧ h.applied ≠ noEpoch ∧ live.applied = noEpoch ∧ live.epoch = noEpoch := by
  unfold Executes; decide +kernel

/-- Contexts that wait: for a job that ended and one that runs, for a count there and not, for epochs there and not. -/
theorem wit_wait_returns :
    let on (r : Run) : Head := ({ running 32 .c with jobs := [(1, job0), (2, { job0 with ended := some (0, 9) })] } : Head).setCtx 32
      { body .c with run := r }
    (∀ n ∈ [1, 2], ((on (.ticket n 4)).ctx 32).run = .ticket n 4 ∧ (on (.ticket n 4)).plt.inReset = false) ∧
      Tbl.find (on (.ticket 1 4)).jobs 1 = some job0 ∧ job0.ended = none ∧
      (∀ n ∈ [0, 1], ((on (.queue 0xFF00 n 4)).ctx 32).run = .queue 0xFF00 n 4) ∧ ((on .idle).queue 0xFF00).done = 0 ∧
      (∀ r ∈ [Run.epoch 10 4, .applied 10 4], ((on r).ctx 32).run = r) := by
  decide +kernel

/-- BGET: the pools 256 B and 64 KiB are there. The first has no buffer left, the second one that only class 0 may have; after
both, a free one. BPUT of a buffer. -/
theorem wit_buffers :
    let base := (running 32 .c).wrList [(BLW_POOL_CNT_COUNT.nth 0, 1), (BLW_POOL_CNT_COUNT.nth 4, 1)]
    let h (next : Nat) : Head := { base with pools := [(0, { Pool.fresh with next := next })] }
    let r := base.wrList [(BLW_POOL_RES_HOST.nth 0, 1)]
    Executes base recipe anyLevel ∧ base.poolFor 256 = some 0 ∧ base.poolFor 257 = some 4 ∧ base.poolFor 4194304 = none ∧
      base.allocCheck 0 1 = none ∧ (h 1).allocCheck 0 1 = some .poolEmpty ∧ r.allocCheck 0 1 = some .poolReserved ∧
      base.classOf 32 (base.ctx 32) = 1 ∧ Executes handles recipe anyLevel ∧ (handles.ctx 32).hr 1 = .buffer 0x400000 := by
  unfold Executes; decide +kernel

/-- INTENT at a control core under the limit and at it, and from a recipe whose command holds its seal. -/
theorem wit_intent :
    let c := { body .s with h := #v[.buffer 0x400000, .empty, .empty, .empty, .empty, .empty, .empty, .empty] }
    let h : Head := ({ live with lens := [(0x400000, 64)] } : Head).setCtx 3 c |>.wrList [(MER_STS_EPVALID, 1), (MER_EPOCH_EPOCH, 5)]
    let f : Head := { h with cmt := { h.cmt with soft := 65536, softEpoch := 5 } }
    let w : Work := { work0 with from_ := .host 1 7, writes := true, state := .running 32 }
    let r : Head := ({ live with lens := [(0x400000, 64)], works := [(4, w)] } : Head).setCtx 32 { c with level := .c, work := some 4 }
    (Executes h (.core 3) anyLevel ∧ (∃ b, h.readRecord ((h.ctx 3).hr 0) 0 = (.ok b, h)) ∧ (h.ctx 3).work.bind h.work = none ∧
      h.is MER_STS_EPVALID = true ∧ h.issued true < 65536 ∧ 65536 ≤ f.issued true) ∧
    (Executes r recipe anyLevel ∧ (∃ b, r.readRecord ((r.ctx 32).hr 0) 0 = (.ok b, r) ∧ iNsid (rec64 b) = 0 ∧ iType (rec64 b) ∉ [9, 0x0A, 0x0B]) ∧
      (r.ctx 32).work.bind r.work = some w ∧ w.qp ≠ none ∧ (r.ctx 32).intents.length < 65536 ∧ w.holdsSeal = true) := by
  refine ⟨⟨by unfold Executes; decide +kernel, ⟨List.replicate 64 0, by rfl⟩, by decide +kernel, by decide +kernel, by decide +kernel,
    by decide +kernel⟩, by unfold Executes; decide +kernel, ⟨List.replicate 64 0, by rfl, by decide +kernel, by decide +kernel⟩,
    by decide +kernel, by decide +kernel, by decide +kernel, by decide +kernel⟩

/-- QPOST: an absent queue, a hardware queue of a module, a full software queue of a module, a background queue. -/
theorem wit_qpost :
    let c := { body .s with h := #v[.buffer 0x400000, .empty, .empty, .empty, .empty, .empty, .empty, .empty] }
    let h : Head := { live.setCtx 3 c with lens := [(0x400000, 64)], queues := [(7, Queue.fresh), (0x8040, { posted := 64, done := 0, waiting := [] })] }
    Executes h (.core 3) notC ∧ (∃ b, h.readRecord ((h.ctx 3).hr 0) 0 = (.ok b, h)) ∧ h.queueThere 0xFF08 = false ∧ h.queueThere 0x8000 = true ∧
      h.queueThere 0x8040 = true ∧ 64 ≤ (h.queue 0x8040).posted - (h.queue 0x8040).done ∧ h.queueThere 0xFF07 = true ∧
      h.queueThere 7 = true := by
  refine ⟨by unfold Executes; decide +kernel, ⟨List.replicate 64 0, by rfl⟩, by decide +kernel⟩

/-- A slot table at 0x200000000 with one primary binding: command set 4, opcode 5, library 9, entry 0; cluster 0 is ON and holds
the library. -/
def bound : Head :=
  { (live.wrList [(CORE_CL_STS_STATE.nth 0, 2), (CORE_CL_STS_ACTIVE.nth 0, 1), (CORE_RTBASE_BASE, 0x200000000 / 64)]).put
      (0x200000000 + 512 * 2) ([4, 5, 1, 0] ++ toBytes 4 9) with
    works := [(1, { work0 with from_ := .host 1 7 }), (2, { work0 with row := 3 })], libs := [(0, { libid := 9, code := [], rodata := [], entries := [(0, 64)] })] }

/-- Work with a slot that starts on the first free context; a background job without a slot; a head with no cluster ON. -/
theorem wit_recipes_start :
    (bound.work 1 = some { work0 with from_ := .host 1 7 } ∧ bound.onClusters = [0] ∧ bound.plt.stopped = false ∧
      bound.findSlot 2 4 5 = some (0, 0x200000400) ∧ bound.slotBinding 0x200000400 3 = some (9, 0) ∧
      bound.onClusters.find? (fun c => bound.holdsLib c 9) = some 0 ∧ bound.libEntry 0 0 = some 64 ∧ bound.freeContext work0.budget 9 = some 32) ∧
    (bound.work 2 = some { work0 with row := 3 } ∧ ({ work0 with row := 3 } : Work).qp = none ∧ bound.findSlot 3 4 5 = none) ∧
    live.onClusters = [] := by
  decide +kernel

/-- A library of one section, a code section of 8 bytes at offset 0. -/
def library : List Byte := [84, 79, 66, 74, 1, 0, 1, 0, 9, 0, 0, 0, 0, 0, 255, 255, 1, 0, 0, 0, 0, 0, 0, 0]
  ++ [104, 0, 0, 0, 0, 0, 0, 0, 0, 0, 0, 0, 0, 0, 0, 0, 0, 0, 0, 0, 0, 0, 0, 0, 0, 0, 0, 0, 0, 0, 0, 0, 148, 72, 95, 29, 235, 29, 48, 92]
  ++ [1, 0, 0, 0, 0, 0, 0, 0, 96, 0, 0, 0, 0, 0, 0, 0, 0, 0, 0, 0, 0, 0, 0, 0, 8, 0, 0, 0, 0, 0, 0, 0] ++ [0, 0, 0, 0, 0, 0, 0, 0]
theorem library_crc0 : List.foldl crcByte64 0x0#64 [84, 79, 66, 74, 1, 0, 1, 0, 9, 0, 0, 0, 0] = 0xb9db59dba1c414d4#64 := by decide +kernel
theorem library_crc1 : List.foldl crcByte64 0xb9db59dba1c414d4#64 [0, 255, 255, 1, 0, 0, 0, 0, 0, 0, 0, 104, 0] = 0x60e577b07506639f#64 := by decide +kernel
theorem library_crc2 : List.foldl crcByte64 0x60e577b07506639f#64 [0, 0, 0, 0, 0, 0, 0, 0, 0, 0, 0, 0, 0] = 0xa007d0f5fbb68342#64 := by decide +kernel
theorem library_crc3 : List.foldl crcByte64 0xa007d0f5fbb68342#64 [0, 0, 0, 0, 0, 0, 0, 0, 0, 0, 0, 0, 0] = 0xc4bb3e8965308689#64 := by decide +kernel
theorem library_crc4 : List.foldl crcByte64 0xc4bb3e8965308689#64 [0, 0, 0, 0, 0, 0, 0, 0, 0, 0, 0, 0, 1] = 0x5df63dc8d7bcd5d3#64 := by decide +kernel
theorem library_crc5 : List.foldl crcByte64 0x5df63dc8d7bcd5d3#64 [0, 0, 0, 0, 0, 0, 0, 96, 0, 0, 0, 0, 0] = 0xab138eaf2152abac#64 := by decide +kernel
theorem library_crc6 : List.foldl crcByte64 0xab138eaf2152abac#64 [0, 0, 0, 0, 0, 0, 0, 0, 0, 0, 8, 0, 0] = 0xa27afedd164026a2#64 := by decide +kernel
theorem library_crc7 : List.foldl crcByte64 0xa27afedd164026a2#64 [0, 0, 0, 0, 0, 0, 0, 0, 0, 0, 0, 0, 0] = 0x5c301deb1d5f4894#64 := by decide +kernel
theorem library_crc : crc64 (library.take 56 ++ List.replicate 8 0 ++ library.drop 64) = 0x5c301deb1d5f4894#64 := by
  rw [show library.take 56 ++ List.replicate 8 0 ++ library.drop 64 = [84, 79, 66, 74, 1, 0, 1, 0, 9, 0, 0, 0, 0] ++ [0, 255, 255, 1, 0, 0, 0, 0, 0, 0, 0, 104, 0] ++ [0, 0, 0, 0, 0, 0, 0, 0, 0, 0, 0, 0, 0] ++ [0, 0, 0, 0, 0, 0, 0, 0, 0, 0, 0, 0, 0] ++ [0, 0, 0, 0, 0, 0, 0, 0, 0, 0, 0, 0, 1] ++ [0, 0, 0, 0, 0, 0, 0, 96, 0, 0, 0, 0, 0] ++ [0, 0, 0, 0, 0, 0, 0, 0, 0, 0, 8, 0, 0] ++ [0, 0, 0, 0, 0, 0, 0, 0, 0, 0, 0, 0, 0] by decide +kernel]
  simp only [crc64, List.foldl_append, library_crc0, library_crc1, library_crc2, library_crc3, library_crc4, library_crc5, library_crc6, library_crc7]
/-- A control image of one section, a code section of 8 bytes at offset 0. -/
def image : List Byte := [84, 79, 66, 74, 1, 0, 2, 0, 0, 0, 0, 0, 0, 0, 255, 255, 1, 0, 0, 0, 0, 0, 0, 0]
  ++ [104, 0, 0, 0, 0, 0, 0, 0, 0, 0, 0, 0, 0, 0, 0, 0, 0, 0, 0, 0, 0, 0, 0, 0, 0, 0, 0, 0, 0, 0, 0, 0, 240, 160, 82, 12, 171, 84, 148, 93]
  ++ [1, 0, 0, 0, 0, 0, 0, 0, 96, 0, 0, 0, 0, 0, 0, 0, 0, 0, 0, 0, 0, 0, 0, 0, 8, 0, 0, 0, 0, 0, 0, 0] ++ [0, 0, 0, 0, 0, 0, 0, 0]
theorem image_crc0 : List.foldl crcByte64 0x0#64 [84, 79, 66, 74, 1, 0, 2, 0, 0, 0, 0, 0, 0] = 0xbb360765bc5f2816#64 := by decide +kernel
theorem image_crc1 : List.foldl crcByte64 0xbb360765bc5f2816#64 [0, 255, 255, 1, 0, 0, 0, 0, 0, 0, 0, 104, 0] = 0x5cbaf0decc510e88#64 := by decide +kernel
theorem image_crc2 : List.foldl crcByte64 0x5cbaf0decc510e88#64 [0, 0, 0, 0, 0, 0, 0, 0, 0, 0, 0, 0, 0] = 0x8b36607e13d5f1ed#64 := by decide +kernel
theorem image_crc3 : List.foldl crcByte64 0x8b36607e13d5f1ed#64 [0, 0, 0, 0, 0, 0, 0, 0, 0, 0, 0, 0, 0] = 0xfeb1c2f6dddb2a65#64 := by decide +kernel
theorem image_crc4 : List.foldl crcByte64 0xfeb1c2f6dddb2a65#64 [0, 0, 0, 0, 0, 0, 0, 0, 0, 0, 0, 0, 1] = 0xbc2ee92cc8b257a2#64 := by decide +kernel
theorem image_crc5 : List.foldl crcByte64 0xbc2ee92cc8b257a2#64 [0, 0, 0, 0, 0, 0, 0, 96, 0, 0, 0, 0, 0] = 0x4c05fe519593b1d5#64 := by decide +kernel
theorem image_crc6 : List.foldl crcByte64 0x4c05fe519593b1d5#64 [0, 0, 0, 0, 0, 0, 0, 0, 0, 0, 8, 0, 0] = 0x6e76c7033d1b85b7#64 := by decide +kernel
theorem image_crc7 : List.foldl crcByte64 0x6e76c7033d1b85b7#64 [0, 0, 0, 0, 0, 0, 0, 0, 0, 0, 0, 0, 0] = 0x5d9454ab0c52a0f0#64 := by decide +kernel
theorem image_crc : crc64 (image.take 56 ++ List.replicate 8 0 ++ image.drop 64) = 0x5d9454ab0c52a0f0#64 := by
  rw [show image.take 56 ++ List.replicate 8 0 ++ image.drop 64 = [84, 79, 66, 74, 1, 0, 2, 0, 0, 0, 0, 0, 0] ++ [0, 255, 255, 1, 0, 0, 0, 0, 0, 0, 0, 104, 0] ++ [0, 0, 0, 0, 0, 0, 0, 0, 0, 0, 0, 0, 0] ++ [0, 0, 0, 0, 0, 0, 0, 0, 0, 0, 0, 0, 0] ++ [0, 0, 0, 0, 0, 0, 0, 0, 0, 0, 0, 0, 1] ++ [0, 0, 0, 0, 0, 0, 0, 96, 0, 0, 0, 0, 0] ++ [0, 0, 0, 0, 0, 0, 0, 0, 0, 0, 8, 0, 0] ++ [0, 0, 0, 0, 0, 0, 0, 0, 0, 0, 0, 0, 0] by decide +kernel]
  simp only [crc64, List.foldl_append, image_crc0, image_crc1, image_crc2, image_crc3, image_crc4, image_crc5, image_crc6, image_crc7]

theorem library_intact : objectIntact library = true := by unfold objectIntact; rw [library_crc]; decide +kernel
theorem image_intact : objectIntact image = true := by unfold objectIntact; rw [image_crc]; decide +kernel
theorem library_in_order : objectFault library 0 = none := by rw [objectFault, library_intact]; decide +kernel
theorem image_in_order : objectFault image 4096 = none := by rw [objectFault, image_intact]; decide +kernel
/-- A library for a cluster that is OFF. -/
theorem wit_library_load : live.loadFault .v (.cluster 5) library = none := by
  rw [Head.loadFault]; simp only [library_in_order]; decide +kernel
/-- A control image for a window. -/
theorem wit_image_load : live.loadFault .s (.window 0x200000000 4096) image = none := by
  rw [Head.loadFault]; simp only [show (4096 : BitVec 48).toNat = 4096 from rfl, image_in_order]; decide +kernel
/-- The one section that the image places, and an object that is none. -/
theorem wit_object_load :
    placedSections image 0x200000000 = [({ type := 1, off := 96, load := 0, size := 8, clean := true }, List.replicate 8 0)] ∧
    live.loadFault .v (.cluster 5) [] = some 1 := ⟨by decide +kernel, by decide +kernel⟩

/-- A context that ends: a background job's, with a job not ended and with all ended. -/
theorem wit_recipes_end :
    let h (j : Job) : Head := { live.setCtx 32 { body .c with run := .ending 0 .empty 0, work := some 2 } with works := [(2, work0)], jobs := [(1, j)] }
    (h job0).plt.inReset = false ∧ ((h job0).ctx 32).run = .ending 0 .empty 0 ∧ ((h job0).ctx 32).work = some 2 ∧
      (h job0).work 2 = some work0 ∧ work0.from_ = .background 0 1 ∧ job0.ended = none ∧
      (∀ j ∈ (h { job0 with ended := some (0, 0) }).jobs, j.2.owner = 32 → j.2.ended ≠ none) := by
  decide +kernel

/-- A PARGEN job on its unit, of a buffer into another; one that waits for a unit; one of 128 KiB whose unit is stopping; one whose
input lies on a poisoned line. -/
theorem wit_jobs_end :
    let p : Job := { job0 with accel := some (0, 3), inp := .buffer 0x400000, outp := .buffer 0x400001,
                               kind := .pargen, blk := { jobBlock [] with ilen := 128, arg0 := 0x102, arg1 := 64 } }
    let h : Head := { (posting 0xA11 []) with jobs := [(1, p), (2, job0), (3, { p with blk := { p.blk with ilen := 131072 } })] }
    let t := h.wr (ACC_CL_STS_STATE.nth 0) (3 * 4 ^ 3)
    let poisoned : Head :=
      { h.wr (BLW_POOL_BASE_BASE.nth 4) (dramBase / 4096) with memc := { h.memc with lines := [(1, { cipher := [], check := [], poison := true })] } }
    h.badHandle p.inp 0 128 = [] ∧ poisoned.badHandle p.inp 0 128 = [1] ∧ Tbl.find poisoned.jobs 1 = some p ∧ poisoned.plt.inReset = false ∧
    h.plt.inReset = false ∧ Tbl.find h.jobs 1 = some p ∧ p.ended = none ∧ p.accel ≠ none ∧ p.touched = [] ∧
      p.kind = .pargen ∧ (pargenJob 0x102 64 (h.handleBytes p.inp 0 128)).keep = true ∧
      h.overlaps p (pargenJob 0x102 64 (h.handleBytes p.inp 0 128)).out.length = false ∧
      Tbl.find h.jobs 2 = some job0 ∧ job0.kind.onAccel = true ∧ job0.accel = none ∧
      t.accelState 0 3 = uStopping := by
  decide +kernel


/-! ### Register accesses -/

/-- A level below the register's, a misaligned address and a narrow access, at a core and at the service port; a core that runs
takes the exception, and one that does not run does not. -/
theorem wit_accesses :
    let port := live.wrList [(PLT_STRAP_SVCEN, 1)]
    live.turnedAway ⟨.core 1, .s, 8⟩ PLT_RST_GO.addr = some (.exception excPriv) ∧
    live.turnedAway ⟨.core 1, .v, 8⟩ (PLT_RST_GO.addr + 4) = some (.exception excAlign) ∧
    live.turnedAway ⟨.core 1, .v, 4⟩ PLT_RST_GO.addr = some (.exception excBusErr) ∧
    port.turnedAway ⟨.service, .s, 8⟩ PLT_RST_GO.addr = some .abort ∧
    port.turnedAway ⟨.service, .s, 4⟩ PLT_THERM_THROTTLE.addr = some .busError ∧ port.served .service = true ∧
    (running 1 .s).plt.inReset = false ∧ ((running 1 .s).ctx 1).run = .running ∧
    MayTake ((running 1 .s).ctx 1) (excAtV excPriv ((running 1 .s).ctx 1)) ∧
    (∀ k ∈ originCtx (.core 2), ((running 1 .s).ctx k).run ≠ .running) := by
  unfold MayTake; decide +kernel

/-- A read-clear counter that stands alone in its register. -/
theorem wit_register_reads : ∃ p, fieldsAt (.core 1) CX_EVICT_COUNT.addr = [p] ∧ p.2.acc = .rc ∧ Level.s.reaches p.1.level = true ∧
    p.1 ≠ UMB_RAND_VALUE ∧ live.beforeRead CX_EVICT_COUNT.addr = live ∧ Accepted live ⟨.core 1, .s, 8⟩ CX_EVICT_COUNT.addr :=
  ⟨(CX_EVICT_COUNT, CX_EVICT_COUNT), by unfold Accepted; decide +kernel⟩

/-- A plain register with a value in range and one out of it. -/
theorem wit_register_writes :
    let w (a v : Nat) : RegWrite := { origin := .core 1, level := .v, index := indexAt (fieldsAt (.core 1) a) a, value := v, fields := fieldsAt (.core 1) a }
    let a := PLT_THERM_THROTTLE.addr
    Accepted live ⟨.core 1, .v, 8⟩ a ∧ (w a 0).base ∉ effectRegisters.map (·.addr) ∧ ((w a 0).base - regBase) / 2 ^ 24 ≠ 5 ∧
      (fieldsAt (.core 1) a).Pairwise (fun p q => p.2.key ≠ q.2.key) ∧ live.writeOk (w a 0x50064) [] = true ∧
      live.writeOk (w a 0) [] = false := by
  unfold Accepted; decide +kernel

/-- The service port: closed, and open with ranges that lie in Billow, in the Afterglow window and nowhere, each at an edge. -/
theorem wit_service_port :
    let port := live.wrList [(PLT_STRAP_SVCEN, 1)]
    live.served .service = false ∧ port.served .service = true ∧ svcBillow (billowBase + billowSize - 2 ^ 21 - 8) 8 = true ∧
      svcBillow (billowBase + billowSize - 2 ^ 21 - 7) 8 = false ∧ inAfterglow (billowBase + billowSize - 2 ^ 21 - 7) 8 = false ∧
      svcBillow afterglowBase 16 = false ∧ inAfterglow afterglowBase 16 = true := by
  decide +kernel

/-- Every state of a unit that the statement starts from, with EN as it can be there, at a cluster, a front port, a module port and a
controller; a unit whose 1 is refused; every unit's EN is accepted at V. -/
theorem wit_units :
    let h (en st : Nat) := live.wrList [(CORE_CL_CTL_EN.nth 5, en), (CORE_CL_STS_STATE.nth 5, st)]
    let u := UnitId.cluster 5
    let x : Access := ⟨.core 1, .v, 8⟩
    (∀ u ∈ [UnitId.cluster 23, .accelerator 3 2, .frontPort 7, .controller 4095, .modulePort 31, .laneGroup 5, .veilCache 27],
      Accepted live x (unitFields u).1.addr ∧ live.unitEn u = false ∧ live.unitState u = uOff) ∧
      live.rd (CORE_CL_STS_ACTIVE.nth 5) ≠ 0 ∧
      (let fs := fieldsAt x.origin FE_P_CTL_EN.addr
       live.writeOk { origin := x.origin, level := .v, index := indexAt fs FE_P_CTL_EN.addr, value := 1 + 0x2400 * 2 ^ 16 + 3 * 2 ^ 32, fields := fs }
         [FE_P_CTL_SPLIT, FE_P_CTL_SUBEN, FE_P_CTL_EN] = true) ∧ bitAt 1 1 = false ∧
      live.unitRefused (.frontPort 0) = true ∧ live.unitRefused u = false ∧ live.resetDue = false ∧
      (live.unitEn u = false ∧ live.unitState u = uOff) ∧ ((h 1 1).unitEn u = true ∧ (h 1 1).unitState u = uStarting) ∧
      ((h 1 2).unitEn u = true ∧ (h 1 2).unitState u = uOn) ∧
      ((h 0 3).unitEn u = false ∧ (h 0 3).unitState u = uStopping ∧ (h 0 3).stopReady u = true ∧ (h 0 3).unitRearm u = false) ∧
      ((live.setPort 3 { Port.reset with perstHeld := false }).port 3).perstHeld = false ∧ live.ctlQuiet 4095 = true ∧
      ((h 0 3).wr (CORE_CL_STS_REARM.nth 5) 1).unitRearm u = true := by
  unfold Accepted; decide +kernel


/-! ### Meridian -/

/-- Counters loaded at the first tick of epoch `e`, `off` ticks past it, the epoch valid; pair A meets the frequency rule. -/
def timed (e off : Nat) : Head :=
  { live.wrList [(MER_STS_EPVALID, 1), (MER_EPOCH_EPOCH, e)] with
    mer := { Mer.reset with tick := e * 250 + off, tie := off, loaded := true, early := e, sinceReset := 9000,
                            a := { MerSource.none with freqOk := true }, p := { MerSource.none with freqOk := true } } }
/-- A PTP message for port 0, sub-port 0, domain and encapsulation as at reset. -/
def ptp (kind : PtpKind) (stamp : Nat) : PtpMsg :=
  { port := 0, sub := 0, domain := 0, encap := 0, kind := kind, seq := 0, stamp := BitVec.ofNat 64 stamp }
/-- The head with a Sync followed up and a Delay_Req sent. -/
def asking (h : Head) : Head := { h with mer := { h.mer with ptp := { sync := some (0, 0, some 0), request := some (0, 0), nextSeq := 1 } } }

/-- A message that names another frame. -/
def heldFar : TodHeld := { epoch := 196608, tick := 5, tai := 5, len := 250, arrived := 6500, ok := false }

/-- A qualified pair whose pulse comes two ticks late, and a PTP measurement past the window. -/
theorem wit_sources_fail :
    let h := (timed 131072 2).wrList [(MER_STS_QUALA, 1)]
    h.plt.inReset = false ∧ (h.mer.source 0).barred = false ∧ h.mer.loaded = true ∧
      h.is MER_STS_EPVALID = true ∧ h.is (qualField 0) = true ∧ 1 < (h.nearestFrame).2.natAbs ∧ h.mer.aligning ≠ some false ∧
      (h.nearestFrame).2.natAbs ≤ 65536 ∧ h.mer.tod = none ∧ 65536 < ((timed 131072 65537).nearestFrame).2.natAbs ∧
      ((timed 131072 65537).mer.tod = none ∧ (timed 131072 65537).is (qualField 0) = false) ∧
      ((h.mer.source 0).pulseAt = none ∧ heldFar.arrived + 2500 ≤ h.mer.sinceReset ∧
        h.mer.sinceReset ≤ heldFar.arrived + (65536 * h.cur + 65536) ∧ heldFar.epoch ≠ (h.nearestFrame).1) ∧
      (let m := ptp .delayResp 480
       m.port.val = h.rd FE_PTP_PORT ∧ m.sub.val = h.rd FE_PTP_SUB ∧ m.domain.toNat = h.rd FE_PTP_DOMAIN ∧ m.encap.val = h.rd FE_PTP_ENCAP ∧
        (asking h).mer.ptp.sync = some (0, 0, some 0) ∧ (asking h).mer.ptp.request = some (m.seq.toNat, 0) ∧
        h.rd MER_CTL_PTPWIN + 1 = ((asking h).ptpPhase 0 0 0 m.stamp.toNat).natAbs) ∧ h.mer.p.barred = false ∧ h.mer.p.freqOk = true := by
  decide +kernel

/-- A message for frame 131072 that came at tick 6,500 of 9,000. -/
def held : TodHeld := { epoch := 131072, tick := 32768000, tai := 1310720000, len := 250, arrived := 6500, ok := true }

/-- A pulse at its frame tick with no message, with one and no good pulse, with one and a good pulse, and on a qualified pair; a
PTP measurement at the edge of the window, the first and the second; a message for another port. -/
theorem wit_sources_qualify :
    let h (tod : Bool) (good : Nat) : Head :=
      { (timed 131072 1).wr MER_CTL_PTPEN 1 with
        mer := { (timed 131072 1).mer with tod := if tod then some held else none,
                                           a := { MerSource.none with freqOk := true, good := good }, p := { MerSource.none with freqOk := true, good := good } } }
    (∀ tod good, good < 2 → (h tod good).plt.inReset = false ∧ (h tod good).mer.loaded = true ∧ (h tod good).is MER_STS_EPVALID = true ∧
      ((h tod good).mer.source 0).barred = false ∧ ((h tod good).mer.source 0).freqOk = true ∧ ((h tod good).nearestFrame).2.natAbs ≤ 1 ∧
      (h tod good).is (qualField 0) = false ∧ ((h tod good).mer.tod = none ∨ (h tod good).mer.tod = some held) ∧
      ((h tod good).mer.source 0).good = good ∧ (h tod good).pulsedIn 0 131072 = false ∧
      (h tod good).mer.aligning ≠ some false ∧ (h tod good).selected = none ∧ (h tod good).priorities.contains 0 = true ∧
      (h tod good).mer.p.good = good ∧ (h tod good).is MER_STS_QUALP = false ∧ (h tod good).is MER_CTL_PTPEN = true) ∧
    (((h true 0).mer.source 0).pulseAt = none ∧ held.arrived + 2500 ≤ (h true 0).mer.sinceReset ∧
      (h true 0).mer.sinceReset ≤ held.arrived + (65536 * (h true 0).cur + 65536) ∧ (h true 0).todAgrees held 131072 = true) ∧
    ((h true 0).nearestFrame).1 = 131072 ∧
    (∀ t ∈ [0, 400], ((asking (h true 0)).ptpPhase 0 0 0 (ptp .delayResp t).stamp.toNat).natAbs ≤ (h true 0).rd MER_CTL_PTPWIN) ∧
    (h true 0).mer.p.lastPulse = none ∧ (h true 0).lastFrameTick = 131072 * 250 ∧ 65536 * 250 < (h true 0).lastFrameTick ∧
    (h true 0).lastFrameTick ≤ 65536 * 250 + 65536 * (h true 0).cur ∧
    ((h true 0).wr MER_STS_QUALA 1).is (qualField 0) = true ∧ ({ ptp .announce 0 with port := 1 } : PtpMsg).port.val ≠ live.rd FE_PTP_PORT := by
  refine ⟨?_, by decide +kernel, by decide +kernel, by decide +kernel, by decide +kernel, by decide +kernel, by decide +kernel,
    by decide +kernel, by decide +kernel, by decide +kernel⟩
  intro tod good hg
  have : good = 0 ∨ good = 1 := by omega
  cases tod <;> rcases this with rfl | rfl <;> decide +kernel

/-- A time-of-day message for frame 131072 at tick 32,768,000, and one that names tick 5. -/
def todBytes : List Byte :=
  [165, 195, 1, 0, 250, 0, 0, 0, 0, 0, 2, 0, 0, 0, 0, 0, 0, 0, 244, 1, 0, 0, 0, 0] ++ [0, 0, 32, 78, 0, 0, 0, 0, 0, 0, 0, 0, 126, 99, 249, 31]
def todWrong : List Byte :=
  [165, 195, 1, 0, 250, 0, 0, 0, 0, 0, 2, 0, 0, 0, 0, 0, 5, 0, 0, 0, 0, 0, 0, 0] ++ [200, 0, 0, 0, 0, 0, 0, 0, 0, 0, 0, 0, 69, 181, 58, 151]
/-- The CRC-32C of the first is the spec's catalogued code of its 36 bytes. -/
theorem test_tod_parses : parseTod todBytes = some (131072, 32768000, 1310720000, 250) := by decide +kernel
theorem test_tod_wrong_parses : parseTod todWrong = some (131072, 5, 200, 250) := by decide +kernel

/-- Bytes that are no message; a message before the counters are valid, of the length in force and of another; a consistent one and
one of another tick for the next frame; a pulse that loads the counters, one that confirms them and one without a message. -/
theorem wit_counters_acquired :
    let next := timed 131000 0
    let first : Head := { live with mer := { Mer.reset with a := { MerSource.none with freqOk := true }, tod := some held, sinceReset := 9000 } }
    let second : Head := { (timed 131072 1).wr MER_STS_EPVALID 0 with
      mer := { (timed 131072 1).mer with tod := some held, loader := some false } }
    parseTod [] = none ∧ live.is MER_STS_EPVALID = false ∧ 250 = live.cur ∧ (251 : Nat) ≠ live.cur ∧
      ({ next with mer := { next.mer with tod := some held, sinceReset := held.arrived + 2499 } } : Head).mer.sinceReset < held.arrived + 2500 ∧
      (next.is MER_STS_EPVALID = true ∧ 131072 = next.lastFrame + 65536 ∧
        next.predictedTick 131072 = 32768000 ∧ next.taiOf 32768000 = 1310720000 ∧ next.predictedLen 131072 = 250 ∧
        next.mer.todSuspended = false ∧ (5 : Nat) ≠ next.predictedTick 131072) ∧
      ((first.mer.source 0).freqOk = true ∧ first.mer.loaded = false ∧ first.mer.seed = none ∧ held.len = first.cur ∧
        (first.mer.source 0).pulseAt = none ∧ held.arrived + 2500 ≤ first.mer.sinceReset ∧
        first.mer.sinceReset ≤ held.arrived + (65536 * first.cur + 65536)) ∧
      (second.mer.loaded = true ∧ second.is MER_STS_EPVALID = false ∧ second.mer.loader = some false ∧
        (second.nearestFrame).2.natAbs ≤ 1 ∧ second.pulsedIn 0 (second.nearestFrame).1 = false ∧
        second.todAgrees held (second.nearestFrame).1 = true) := by
  decide +kernel
/-- The selected source is lost with another qualified, and with none; holdover at its limit and before it. -/
theorem wit_selection :
    let lost := (timed 9 0).wrList [(MER_STS_SRC, 0), (MER_STS_QUALB, 1)]
    let h := (timed 9 0).wrList [(MER_STS_SRC, 3), (MER_HOLDMAX_HOLDMAX, 7), (MER_HOLD_HOLD, 7)]
    lost.selected = some 0 ∧ lost.qualified 0 = false ∧ lost.bestSource = some 1 ∧ (lost.wr MER_STS_QUALB 0).bestSource = none ∧
      h.rd MER_STS_SRC = 3 ∧ h.rd MER_HOLDMAX_HOLDMAX ≤ h.rd MER_HOLD_HOLD ∧
      (h.wr MER_HOLD_HOLD 6).rd MER_HOLD_HOLD < h.rd MER_HOLDMAX_HOLDMAX ∧ h.selected = none := by
  decide +kernel

/-- Each register with a value at the edge of what it takes, and one past it. -/
theorem wit_epoch_registers :
    let x : Access := ⟨.core 1, .v, 8⟩
    (∀ a ∈ [MER_EPLEN_NEXT.addr, MER_EPLEN_AT_AT.addr, MER_SEED_SEED.addr, MER_BUDA_GC.addr, MER_BUDB_CKPT.addr, MER_EPOCH_EPOCH.addr,
      CMT_JBASE_BASE.addr, CMT_JSIZE_GIB.addr, CMT_APPLIED_EPOCH.addr], live.plt.inReset = false ∧ live.served x.origin = true ∧
        live.turnedAway x a = none ∧ (live.accessLevel x a).reaches .s = true) ∧
      bitsAt (1600 * 65536) 16 11 = 1600 ∧ bitsAt (99 * 65536) 16 11 < 100 ∧
      ((65536 + 131072) % 65536 = 0 ∧ (timed 131072 0).epoch + 65536 ≤ 65536 + 131072 ∧ 65536 + 131072 < noEpoch) ∧
      (live.mer.loaded = false ∧ live.mer.loadedAt = none ∧ live.sd.newest = none ∧ live.mer.seed = none ∧ (timed 9 0).mer.loaded = true) ∧
      ((budgetFields.map live.rd).sum ≤ 3 * live.cur / 4 ∧ 3 * live.cur / 4 < (budgetFields.map (fun f => if f = MER_BUDA_GC then 2047 else live.rd f)).sum) ∧
      live.written CMT_JBASE_BASE = false ∧ live.written CMT_JSIZE_GIB = false ∧ inRange CMT_JSIZE_GIB 0 = false := by
  decide +kernel

/-- A journal base and size that DRAM holds. -/
theorem wit_journal : let h := dram live
    (inRange CMT_JBASE_BASE dramBase = true ∧ h.fieldCheck CMT_JBASE_BASE CMT_JBASE_BASE dramBase dramBase = true) ∧
    (inRange CMT_JSIZE_GIB 4 = true ∧ h.fieldCheck CMT_JSIZE_GIB CMT_JSIZE_GIB 4 4 = true) := by
  decide +kernel

/-- A tick within an epoch, one with nothing loaded, one with a seed, and the last tick of an epoch. -/
theorem wit_ticks :
    let quiet (t : Head) : Bool := ! (t.mer.tick = t.lastFrameTick + 2 && t.counted = t.lastFrame)
    let seeded : Head := { live with mer := { Mer.reset with seed := some 7 } }
    (timed 9 248).boundaryDue = false ∧ quiet (timed 9 248).countTick = true ∧ (timed 9 248).mer.seed = none ∧
      (∀ e ∈ (timed 9 248).ctxs, isStream e.1 = false) ∧ live.boundaryDue = false ∧ live.mer.loaded = false ∧
      seeded.boundaryDue = false ∧ seeded.mer.seed = some 7 ∧ (timed 9 249).boundaryDue = true := by
  decide +kernel


/-! ### Doorbells, commit and Sundog -/

/-- CORE_DBELL, CORE_RELEASE and a watch register are open at V; a watch of a queue with its count below the threshold, and at it. -/
theorem wit_doorbells :
    (∀ a ∈ [CORE_DBELL_RING.addr, CORE_RELEASE_CORE.addr, (ACC_QW_CTL_ARM.nth 31).addr],
      live.served (.core 1) = true ∧ live.turnedAway ⟨.core 1, .v, 8⟩ a = none) ∧
    live.is MEM_STS_FILLDONE = false ∧ (live.wr MEM_STS_FILLDONE 1).is MEM_STS_FILLDONE = true ∧
    bitAt (2 ^ 21 + 0xFF00) 21 = true ∧ live.queueThere (bitsAt (2 ^ 21 + 0xFF00) 0 16) = true ∧ live.queueThere 0xFF08 = false ∧
    live.rd (ACC_QW_THR_THRESH.nth 31) ≤ (live.queue 0xFF00).done ∧
    ¬ (live.wr (ACC_QW_THR_THRESH.nth 31) 1).rd (ACC_QW_THR_THRESH.nth 31) ≤ (live.queue 0xFF00).done := by
  decide +kernel

/-- A serving head in epoch 9 with a journal of 4 GiB, epoch 5 the last committed and sealed. -/
def serving : Head := (dram live).wrList [(MER_STS_EPVALID, 1), (MER_EPOCH_EPOCH, 9), (SD_PAIR_STS_ROLE, rPaired), (CMT_JBASE_BASE, dramBase),
  (CMT_JSIZE_GIB, 4), (CMT_LAST_EPOCH, 5), (CMT_SEALED_EPOCH, 5), (CMT_APPLIED_EPOCH, 5), (CMT_ASV_MAX, 1)]
/-- A head with something said of one epoch. -/
def epochIs (h : Head) (e : Nat) (x : EpochSt) : Head := { h with cmt := { h.cmt with epochs := [(e, x)] } }

/-- Each case of sealing: nothing to seal, a half complete and one not, a late one, a held twin half and none, messages of an
epoch neither committed nor sealed alone, the eighth NAK. -/
theorem wit_sealing :
    let open_ := epochIs serving 6 { EpochSt.empty with open_ := 1 }
    let late := serving.wrList [(MER_EPOCH_EPOCH, 23), (CMT_CTL_SEALMAX, 16)]
    let held := epochIs serving 6 { EpochSt.empty with twinSeal := some { n := 0, commands := 0, crc := 0, asvMax := 1, ea := 5, d := 0 } }
    let sent := (epochIs serving 6 { EpochSt.empty with sealed := true, naks := 7 }).wr SD_STS_LINKUP 1
    serving.plt.inReset = false ∧ live.nextSeal = none ∧ serving.nextSeal = some 6 ∧ serving.maySeal 6 = true ∧ serving.halfDone 6 = true ∧
      serving.spanFits 6 = true ∧ open_.halfDone 6 = false ∧ open_.nextSeal = some 6 ∧
      (6 + 1 + late.rd CMT_CTL_SEALMAX ≤ late.epoch ∧ (late.epochSt 6).late = false ∧ serving.epoch < 6 + 1 + serving.rd CMT_CTL_SEALMAX) ∧
      ((held.epochSt 6).twinSeal.isSome = true ∧ (held.epochSt 6).ackSent = false ∧ held.alone 6 = false ∧ (serving.epochSt 6).twinSeal = none) ∧
      (serving.last < 6 ∧ serving.last ≠ noEpoch ∧ live.last = noEpoch) ∧ (sent.epochSt 6).naks = 7 ∧ (sent.epochSt 6).sealed = true ∧
      sent.is SD_STS_LINKUP = true ∧ sent.alone 6 = false := by
  decide +kernel

/-- The conditions on a message of the twin: out of reset, not deaf, a READY connection. -/
theorem wit_messages : let h := serving.setConn 0 { Conn.reset with state := 1 }
    h.plt.inReset = false ∧ h.pair.deaf = false ∧ (h.conn 0).state = 1 ∧
    ((serving.setConn 1 { Conn.reset with state := 1 }).conn 1).state = 1 := by
  decide +kernel

/-- The cases of commit and apply: every condition met, a half not sealed, nothing committed, an epoch to apply and none, no
divergence under way, INTENTS of one epoch, of two, and of none. -/
theorem wit_commit :
    let ready := epochIs serving 6 { EpochSt.empty with
      sealed := true, ackSent := true, ackRecv := true,
      twinSeal := some { n := 0, commands := 0, crc := 0, asvMax := 1, ea := 5, d := 0 } }
    let span : Head := { serving.wr CMT_LAST_EPOCH 6 with
      cmt := { serving.cmt with spans := [(6, { off := 0, len := 128, n0 := 0, n1 := 0, nref := 0, asv := 1 })] } }
    let rec_ (e : Nat) : Rec64 := BitVec.ofNat 512 (recOf [(8, 8, e)])
    (ready.mayCommit 6 = true ∧ ready.spanFits 6 = true ∧ ready.last + 1 < noEpoch ∧ serving.mayCommit 6 = false ∧ live.last = noEpoch) ∧
      (span.last < noEpoch ∧ span.applied < span.last ∧ span.cmt.applyStopped = false ∧ span.plt.stopped = false ∧
        span.rd CMT_ASV_MAX ≠ 0 ∧ span.spanIntents 6 = some [] ∧ (Tbl.find span.cmt.spans 6).isSome = true ∧ span.badSpan 6 = [] ∧
        (span.applyUses 6 []).isSome = true ∧ ({ span with memc := { span.memc with lines := [(0, { cipher := [], check := [], poison := true })] } } : Head).badSpan 6 ≠ []) ∧ serving.last ≤ serving.applied ∧
      serving.cmt.diverge = none ∧ serving.alone 6 = false ∧ iEpoch (rec_ 6) = 6 ∧ iEpoch (rec_ 7) ≠ iEpoch (rec_ 6) := by
  decide +kernel

/-- The same head with a page pool full of versions that no flash copy holds. -/
def fullPool (h : Head) : Head :=
  { h.wr FB_MPSIZE_GIB 1 with fb := { h.fb with resident := List.replicate 262144 (0, 0), clean := [] } }
/-- A version that is not in such a pool waits for a clean one. -/
theorem full_waits (h : Head) (v : Nat × Nat) (vs : List (Nat × Nat)) (m : (fullPool h).poolPages = 262144) (n : v ≠ (0, 0)) :
    (fullPool h).usePages (v :: vs) = none := by
  have r : (fullPool h).fb.resident = List.replicate 262144 (0, 0) := rfl
  have e : (fullPool h).evict = none := by
    have c : (fullPool h).fb.clean = [] := rfl
    simp [Head.evict, c]
  have q : (fullPool h).usePage v = none := by
    unfold Head.usePage Head.poolFull
    rw [r, m, e, List.contains_replicate, List.length_replicate]
    simp [n]
  rw [Head.usePages, q]
  rfl
/-- An apply that releases a version not in such a pool waits. -/
theorem wit_apply_waits : (fullPool { serving with fb := { serving.fb with release := [(1, 1)] } }).applyUses 6 [] = none := by
  rw [Head.applyUses]
  exact full_waits _ (1, 1) [] (by decide +kernel) (by decide)

/-- A software connection on UDP, its sub-port 0, with a path MTU of 1024. -/
def udp : Conn := { Conn.reset with state := 1, udp := true, pmtu := 1024 }
/-- A packet of connection 16 with PSN 0 that is its whole message. -/
def packet (payload : List Byte) (raddr rkey mlen : Nat) : ChrtPkt :=
  { conn := 16, frameOk := true, verOk := true, tagOk := true, first := true, last := true, ackReq := true, vc := 0, mtype := 0x40,
    psn := 0, plen := BitVec.ofNat 16 payload.length, mlen := BitVec.ofNat 32 mlen, raddr := BitVec.ofNat 64 raddr,
    rkey := BitVec.ofNat 32 rkey, ce := false, payload := payload }
/-- The head with connection 16 in a state, and region 16 admitting reads and writes of 64 bytes of Billow. -/
def linked (x : Conn) : Head :=
  let h := (dram live).setConn 16 x
  { h with sd := { h.sd with regions := [(16, { base := 0x200000000, len := 64, key := 16, perm := 7, conn := 16, valid := true, admitted := 0 })] } }

/-- A WRITE of 64 bytes up to the end of its region, a READ_REQ of the same, an answer to a READ that ends it, and a SEND with a
slot free and with none. -/
theorem wit_packets :
    let p := packet (List.replicate 64 7) 0x200000000 16 64
    let m : ChrtMsg := { psn := 0, npsn := 1, body := .read 0 0 64 0x200000100, entry := none, job := none, sent := 1, got := 0 }
    let h := linked udp
    let r := linked { udp with out := [m] }
    let soft (taken : Nat) := ((h.wr SD_CNBASE_BASE (0x200010000 / 65536)).store (h.cnEntry 16 + 0x200010000 + 12) 4 2).store
      (h.cnEntry 16 + 0x200010000 + 40) 4 taken |>.store (h.cnEntry 16 + 0x200010000 + 16) 8 0x200020000
    (h.plt.inReset = false ∧ (h.conn 16).state = 1 ∧ (h.conn 16).incoming = none ∧ p.plen.toNat = p.payload.length ∧ p.psn.toNat = (h.conn 16).expPsn ∧
      p.payload.length ≤ (h.conn 16).payload ∧ p.mlen.toNat ≤ 8388608 ∧ p.payload.length = p.mlen.toNat) ∧
    h.keyOk 16 16 0x200000000 64 true = some 16 ∧ h.keyOk 16 16 0x200000000 64 false = some 16 ∧ h.keyOk 16 16 0x200000001 64 true = none ∧
    ((r.conn 16).out.find? (fun m => serialLe m.psn 0 && ! serialLe ((m.psn + m.npsn) % 2 ^ 32) 0) = some m ∧ m.got = 0 ∧ m.entry = none) ∧
    ((soft 2).load ((soft 2).cnEntry 16 + 12) 4 = 2 ∧ (soft 2).load ((soft 2).cnEntry 16 + 40) 4 = 2 ∧
      (soft 1).load ((soft 1).cnEntry 16 + 40) 4 = 1 ∧ (soft 1).cnEntry 16 + 64 ≤ 0x200020000) ∧
    ((h.conn 16).answers = [] ∧ (h.conn 16).udp = true ∧ h.creditOk 16 (unitsOf 64) = false ∧
      (linked { udp with credGrant := 64 }).creditOk 16 (unitsOf 64) = true) := by
  decide +kernel

/-- Each case of the statement on acknowledgements: nothing outstanding and something, retries left and the last one taken, UDP,
a wait after RNR, packets to acknowledge, newer grants, a sub-port that is down. -/
theorem wit_acknowledgements :
    let m : ChrtMsg := { psn := 0, npsn := 1, body := .send 0x40 [], entry := some 1, job := none, sent := 1, got := 0 }
    let h (n : Nat) := linked { udp with out := [m], retries := n, unacked := n, rnr := true }
    let up := live.wr SD_STS_LINKUP 1
    (h 6).plt.inReset = false ∧ ((h 6).conn 16).state = 1 ∧ ((h 6).conn 16).out ≠ [] ∧ ((h 6).conn 16).retries < 7 ∧ 7 ≤ ((h 7).conn 16).retries ∧
      ((h 7).conn 16).udp = true ∧ ((h 6).conn 16).rnr = true ∧ 0 < ((h 6).conn 16).unacked ∧ ((h 0).conn 16).unacked = 0 ∧
      ((linked udp).conn 16).out = [] ∧ ((linked udp).conn 16).rnr = false ∧ serialLe ((h 6).conn 16).credGrant (2 ^ 31 - 1) = true ∧
      bitAt ((h 6).rd (FE_P_STS_SUBUP.nth (udp.sub / 4))) (udp.sub % 4) = false ∧
      (live.is FE_CC_ECNEN = true ∧ udp.lastCut = none ∧ (live.wr FE_CC_ECNEN 0).is FE_CC_ECNEN = false ∧
        ¬ live.mer.sinceReset + 25 * live.rd FE_CC_CNPINT ≤ live.mer.sinceReset) ∧
      up.is SD_STS_LINKUP = true ∧ up.pair.deaf = false ∧ ∀ v < 4, serialLe (vcGet up.sd.grants v) 5 = true := by
  decide +kernel

/-- A connection entry in range, one out of it; a region index in range, at its end and below 16; a revocation under way with a
request admitted and none; a queue whose front entry is each operation. -/
theorem wit_connections :
    let b := live.wrList [(SD_CNBASE_BASE, 0x200010000 / 65536), (SD_MRBASE_LOG, 5), (SD_MRBASE_BASE, 0x200000000 / 4096)]
    let h := (((b.store (b.cnEntry 16) 1 1).store (b.cnEntry 16 + 12) 4 1).store (b.cnEntry 16 + 16) 8 0x200020000)
    let rev (n : Nat) : Head := { linked udp with sd := { (linked udp).sd with
      revoking := some 16,
      regions := [(16, { base := 0, len := 64, key := 16, perm := 7, conn := 16, valid := true, admitted := n })] } }
    let e (opc : Nat) : QEntry := { count := 1, ok := true, body := BitVec.ofNat 512 (recOf [(0, 1, opc), (4, 4, 64), (8, 8, 0x200000000)]), cpl := none }
    let q (opc : Nat) : Head := { linked udp with queues := [(0x9010, { posted := 1, done := 0, waiting := [e opc] })] }
    (∀ a ∈ [SD_CNCTL_CONN.addr, SD_MRREG_INDEX.addr, SD_MRREV_INDEX.addr], live.served (.core 1) = true ∧ live.turnedAway ⟨.core 1, .s, 8⟩ a = none) ∧
      (h.conn 16).state = 0 ∧ h.cnEntryOk 16 = true ∧ b.cnEntryOk 16 = false ∧ bitsAt 31 0 24 < 2 ^ h.rd SD_MRBASE_LOG ∧
      ¬ bitsAt 32 0 24 < 2 ^ h.rd SD_MRBASE_LOG ∧ h.is SD_MRREV_BUSY = false ∧
      (rev 0).sd.revoking = some 16 ∧ (((rev 0).region 16).map (·.admitted)).getD 0 = 0 ∧ (((rev 1).region 16).map (·.admitted)).getD 0 ≠ 0 ∧
      (∀ opc < 4, ((q opc).conn 16).state = 1 ∧ ((q opc).queue 0x9010).waiting = [e opc] ∧ bitAt (recAt (e opc).body.toNat 1 1) 0 = false ∧
        recAt (e opc).body.toNat 0 1 = opc) := by
  decide +kernel

/-- A heartbeat. -/
def beat (tick seq : Nat) : Heartbeat :=
  { tick := tick, seq := seq, echo := 0, hold := 0, src := 3, epvalid := true, dumpready := true, fenced := false, headId := true,
    active := 1, grants := #v[0, 0, 0, 0], last := 0, sealed := 0 }

/-- Each case of the statement on lane groups: enabled, training, ON and missing its third heartbeat, no group active with the link
up, this head's heartbeat tick, a link key and none, a newer heartbeat and an older copy, room in the event ring. -/
theorem wit_groups :
    let h (st n : Nat) : Head := { live.wrList [(SD_G_CTL_EN.nth 2, 1), (SD_G_STS_STATE.nth 2, st), (SD_STS_LINKUP, 1)] with
      sd := { live.sd with newest := some (beat 100 4), newestTick := 0, groupSeen := [(2, 3)], groupMiss := [(2, n)] },
      umb := { live.umb with slots := [(3, .loaded { key := [], salt := [], kind := 2, use := 0, keyid := 0 })] },
      mer := { Mer.reset with tick := 500, loaded := true } }
    ((h 2 2).roleKey 3).isSome = true ∧ live.roleKey 3 = none ∧ (h 2 2).plt.inReset = false ∧ (h 2 2).is (SD_G_STS_FAILED.nth 2) = false ∧ (h 2 2).is (SD_G_CTL_EN.nth 2) = true ∧
      (h 1 0).rd (SD_G_STS_STATE.nth 2) = uStarting ∧ (h 2 2).rd (SD_G_STS_STATE.nth 2) = uOn ∧
      Tbl.find (h 2 2).sd.groupSeen 2 ≠ some (beat 100 4).seq ∧ (h 2 2).sd.newestTick + 50 ≤ (h 2 2).mer.tick ∧
      (Tbl.find (h 2 2).sd.groupMiss 2).getD 0 + 1 = 3 ∧ (Tbl.find (h 2 1).sd.groupMiss 2).getD 0 + 1 ≠ 3 ∧
      (h 2 2).bothActive = [] ∧ (h 2 2).is SD_STS_LINKUP = true ∧ heartbeatTick (h 2 2).headId (h 2 2).mer.tick = true ∧
      live.is (SD_G_CTL_EN.nth 2) = false ∧ live.sd.newest = none ∧ live.is SD_STS_LINKUP = false ∧ live.mer.loaded = false ∧
      (h 2 2).pair.deaf = false ∧ ((beat 100 4).seq < (beat 100 5).seq) ∧ (beat 600 5).fenced = false ∧
      ¬ ((beat 100 4).seq < (beat 100 4).seq ∨ (beat 100 4).tick < (beat 100 4).tick) ∧ live.rd SD_EVRING_PI < 256 := by
  decide +kernel


/-! ### Pairing, flash, redundancy and modules -/

/-- A pool key. -/
def poolKey : KeyRec := { key := [1], salt := [], kind := 5, use := 0, keyid := 3 }
/-- A head that holds the pool key in role 0, with lane group 0 active. -/
def keyed : Head := { live.wrList [(SD_G_STS_ACTIVE.nth 0, 1)] with umb := { Umb.reset with slots := [(live.roleSlot 0, .loaded poolKey)] } }
/-- A link-key frame with a CHECK. -/
def keyFrame (c : Word) : LinkKeyFrame := { magic := 0x594B4E4C, ver := 1, headId := 1, zeros := true, nonce := 5, check := c }

/-- Link keys: no pool key, none active, a role that may not link, a nonce of either head held and none, the random source sound and
not, a frame out of order, and the mismatch posted or not. -/
theorem wit_link_keys : live.roleKey 0 = none ∧ live.ownActive = [] ∧ keyed.roleKey 0 = some poolKey ∧ keyed.sd.linkFormed = false ∧
    keyed.ownActive ≠ [] ∧ keyed.mayLink = true ∧ keyed.umb.twinNonce = none ∧ keyed.umb.ownNonce = none ∧ keyed.is UMB_STS_RNGOK = true ∧
    ({ keyed with umb := { keyed.umb with ownNonce := some 7 } } : Head).umb.ownNonce = some 7 ∧ keyed.plt.inReset = false ∧
    ({ keyed with umb := { keyed.umb with twinNonce := some 9 } } : Head).umb.twinNonce = some 9 ∧
    (keyed.wr UMB_STS_RNGOK 0).is UMB_STS_RNGOK = false ∧ (keyed.wr SD_STS_LINKUP 1).is SD_STS_LINKUP = true ∧
    (keyed.wr SD_STS_LINKUP 1).roleKey 0 = some poolKey ∧ (keyed.wr SD_STS_LINKUP 1).ownActive ≠ [] ∧
    (keyed.wr SD_PAIR_STS_ROLE rPaired).mayLink = false ∧ keyed.is SD_STS_LINKUP = false ∧
    ({ keyed with umb := { keyed.umb with mismatchPosted := true } } : Head).mayLink = true ∧
    ({ keyFrame 0 with ver := 2 } : LinkKeyFrame).ver ≠ 1 ∧ keyed.umb.mismatchPosted = false ∧ keyed.role = rAlone ∧ keyed.cmt.stopped = false := by
  decide +kernel
/-- Both kinds of CHECK exist for every key. -/
theorem wit_link_check (k : List Byte) : (keyFrame (linkCheck k)).check = linkCheck k ∧ (keyFrame (linkCheck k + 1)).check ≠ linkCheck k := by
  refine ⟨rfl, fun h => ?_⟩
  replace h : linkCheck k + 1#64 = linkCheck k := h
  generalize linkCheck k = w at h
  bv_omega

/-- A head in a role. -/
def inRole (r : Nat) (h : Head) : Head := h.wr SD_PAIR_STS_ROLE r
/-- HELLO in a role that expects one and one that does not, with each disagreement and with none; JOIN_AT and FORMED in their roles. -/
theorem wit_hello :
    let f := inRole rForming live
    let seen := live.wrList [(CMT_ASV_MAX, 6), (CMT_ASV_CUR, 5)]
    let behind : Head := { seen with cmt := { seen.cmt with stopped := true } }
    let formed (c : Bool) : Head := { f with pair := { f.pair with formEpoch := some 2048, formCkpt := c } }
    (live.role = rAlone ∧ f.role = rForming ∧ serving.role ≠ rAlone ∧ serving.role ≠ rForming ∧ serving.role ≠ rKeeper ∧ serving.role ≠ rFenced) ∧
      ((inRole rFenced live).role = rFenced ∧ (inRole rFenced live).pair.fence = none ∧ (inRole rKeeper live).role = rKeeper ∧
        live.cmt.stopped = false ∧ behind.cmt.stopped = true ∧ rJoining ≠ rKeeper ∧ rFenced ≠ rKeeper ∧
        appliedRank noEpoch < appliedRank serving.applied) ∧
      (seen.rd CMT_ASV_MAX < 7 ∧ 6 ≤ seen.rd CMT_ASV_MAX ∧ 4 < seen.rd CMT_ASV_CUR ∧ seen.rd CMT_ASV_CUR ≤ 5) ∧
      live.headId = 0 ∧ (1 : Nat) ≠ live.headId ∧ (1 : Word) ≠ live.pair.pool ∧ (0 : Word) = live.pair.pool ∧ live.cxLog = 0 ∧ (20 : Nat) ≠ live.cxLog ∧
      live.rd CMT_JSIZE_GIB = 0 ∧ (4 : Nat) ≠ live.rd CMT_JSIZE_GIB ∧ live.rd CMT_ASV_MAX < 1 ∧ (0 ≤ live.rd CMT_ASV_MAX ∧ live.rd CMT_ASV_CUR ≤ 0) ∧
      noEpoch = live.applied ∧ (0 : Dig) = live.cmt.digest ∧ serving.is MER_STS_EPVALID = true ∧
      ((f.wr PLT_STRAP_HEAD_ID 1).headId = 1 ∧ (f.wr MER_EPOCH_EPOCH 9).epoch + 64 < 74) ∧
      ((formed true).pair.formEpoch = some 2048 ∧ (formed true).pair.formCkpt = true ∧ (formed false).pair.formCkpt = false ∧ f.pair.formEpoch = none) ∧
      (inRole rJoining serving).role = rJoining ∧ ((inRole rJoining serving).wr PAR_STS_DUMPREADY 1).is PAR_STS_DUMPREADY = true ∧
      6 ≤ appliedRank (inRole rJoining serving).applied ∧ appliedRank (inRole rJoining serving).applied < 7 ∧
      (inRole rJoining serving).is PAR_STS_DUMPREADY = false ∧ f.is MER_STS_EPVALID = false ∧ 9 ≤ f.epoch + 64 ∧
      (f.wr MER_STS_EPVALID 1).is MER_STS_EPVALID = true := by
  decide +kernel

/-- The span of epoch 6 with no intents, as R63 lays it out: header, zeros in place of intents, commit record. -/
def span6 : List Byte :=
  [67, 74, 72, 69, 0, 0, 0, 0, 6] ++ List.replicate 51 0 ++ [166, 55, 125, 39, 67, 79, 77, 82, 0, 0, 0, 0, 6, 0, 0, 0, 0, 0, 0, 0, 0, 0,
    0, 0, 0, 0, 0, 0, 233, 42, 164, 17, 127, 29, 90, 165] ++ List.replicate 24 0 ++ [6, 0, 0, 0, 0, 0, 0, 128]
/-- A joiner's copy of epoch 6, and one whose header is damaged. -/
theorem wit_copies :
    let sp : Span := { off := 0, len := 128, n0 := 0, n1 := 0, nref := 0, asv := 0 }
    let h := inRole rJoining serving
    let copied := h.putRing 0 span6
    let bad := h.putRing 0 (span6.set 40 1)
    h.role = rJoining ∧ h.applied = 5 ∧ h.pair.joinAt = none ∧ copied.replayAt 6 0 = .span sp [] [] ∧
      (copied.replayEpoch 6 sp [] []).applied = 6 ∧ bad.replayAt 6 0 = .corrupt 1 ∧ serving.role ≠ rJoining := by
  decide +kernel

/-- Missed heartbeats: not due, the first and the third, at a paired head, a joiner and a keeper that makes an offer; an offset past
the ring. -/
theorem wit_misses :
    let h (missed tick : Nat) : Head := { serving.wr SD_PAIR_STS_MISSED missed with mer := { Mer.reset with tick := tick, loaded := true } }
    let sent (t : Nat) : Int := (t : Int) - ((h 0 t).rd SD_RTT_TICKS + 1) / 2 - (h 0 t).rd SD_PAIR_CTL_HBSLACK
    (h 2 850).rd SD_PAIR_STS_MISSED = 2 ∧ (h 0 850).rd SD_PAIR_STS_MISSED ≠ 2 ∧ (h 0 850).rd MER_TWIN_DIFF = 0 ∧ sent 850 = 750 ∧ 0 ≤ sent 850 ∧
      heartbeatTick (1 - (h 0 850).headId) (sent 850).toNat = true ∧ heartbeatTick (1 - (h 0 851).headId) (sent 851).toNat = false ∧
      (h 0 850).sd.newest = none ∧ (h 0 850).role = rPaired ∧ (inRole rJoining serving).role = rJoining ∧ serving.applied ≠ noEpoch ∧
      0 < serving.intentRing ∧ serving.intentRing ≤ 2 ^ 30 ∧ serving.pair.joinAt = none ∧
      (inRole rJoining (h 2 850)).rd SD_PAIR_STS_MISSED = 2 ∧ (inRole rJoining (h 2 850)).mer.tick = 850 ∧
      (inRole rKeeper (h 2 850)).rd SD_PAIR_STS_MISSED = 2 ∧ (inRole rKeeper (h 2 850)).role = rKeeper ∧ rAlone ≠ rPaired := by
  decide +kernel

/-- A stripe open since epoch 3 with nothing in it. -/
def stripe0 : StripeSt :=
  { cls := 0, oneBit := false, opened := 3, dataEnd := 0, dir := [], segments := [], first := noEpoch, last := 0, phase := .open_, todo := [],
    skip := [], charge := none }

/-- A keeper with an offer under way, at and before its time limit; a leave with its epochs committed and not, with commands
admitted; an offer answered with the digest and without it. -/
theorem wit_joins :
    let k (w : Nat) : Head := { inRole rKeeper serving with pair := { serving.pair with joinCut := some 4, joinWait := w } }
    let l (e : Nat) : Head := { serving with pair := { serving.pair with leaveEpoch := some e } }
    ((k 65536).role = rKeeper ∧ (k 65536).pair.joinCut.isSome = true ∧ 65536 ≤ (k 65536).pair.joinWait ∧ (k 65535).pair.joinWait < 65536 ∧
      (k 0).pair.joinAt = none ∧ 5 = (k 0).applied ∧ (k 0).cmt.digest = 0 ∧ Tbl.find (k 0).cmt.applyLog 3 = none) ∧
    ((l 6).pair.leaveEpoch = some 6 ∧ (l 6).role = rPaired ∧ (l 6).last ≠ noEpoch ∧ 6 ≤ (l 6).last + 1 ∧ (l 6).rd FE_ADMIT_CUR = 0 ∧
      (l 6).fb.stripes = [] ∧ (l 7).last + 1 < 7 ∧ ((l 6).wr FE_ADMIT_CUR 1).rd FE_ADMIT_CUR ≠ 0 ∧ serving.pair.leaveEpoch = none ∧
      { (l 6).fb with stripes := [(257, stripe0)] }.stripes ≠ []) ∧
    (let log : Head := { k 0 with cmt := { (k 0).cmt with
       applyLog := [(3, { outcomes := [], before := 1, after := 2, span := none })] } }
     (Tbl.find log.cmt.applyLog 3).map (·.after) = some 2 ∧ (Tbl.find log.cmt.applyLog 3).map (·.before) = some 1) ∧
    (inRole rFenced serving).role = rFenced ∧ (inRole rFenced serving).pair.fence = none ∧ serving.role = rPaired := by
  decide +kernel

/-- CLAIM in FENCED after a failed link with three modules reached, and in another role; LEAVE in PAIRED and again; SD_SYNC at the
newest epoch committed and past it. -/
theorem wit_claim_and_leave :
    let x : Access := ⟨.core 1, .s, 8⟩
    let f := (inRole rFenced live).wrList [(SD_STS_LINKFAIL, 1), (FB_GEOM0_MODS, 3), (ML_P_STS_LINKUP.nth 0, 1), (ML_P_STS_LINKUP.nth 1, 1),
      (ML_P_STS_LINKUP.nth 2, 1)]
    (∀ a ∈ [SD_PAIR_CTL_CLAIM.addr, SD_SYNC_EPOCH.addr, (SD_SYNCGRP_MASK.nth 3).addr], live.served x.origin = true ∧ live.turnedAway x a = none ∧
      (live.accessLevel x a).reaches .s = true) ∧
      inRange SD_PAIR_CTL_HBSLACK (bitsAt (100 + 2 ^ 11) 0 9) = true ∧ bitAt (100 + 2 ^ 11) 10 = false ∧ bitAt (100 + 2 ^ 11) 11 = true ∧
      bitAt (100 + 2 ^ 10) 10 = true ∧ bitAt (100 + 2 ^ 10) 11 = false ∧
      f.role = rFenced ∧ f.is SD_STS_LINKFAIL = true ∧ f.pair.fence = none ∧ (List.range f.mods).filter f.reaches = [0, 1, 2] ∧
      f.wins 0 = false ∧ f.wins 3 = true ∧
      (let own (p : Nat) (h : Head) : Head := h.setPort p { Port.reset with leaseKnown := true, holder := f.ownSole }
       let n := own 2 (own 1 (own 0 f))
       ((List.range n.mods).filter n.reaches).filter (fun p => (n.port p).leaseKnown && (n.port p).holder = n.ownSole) = [0, 1, 2] ∧ n.role = rFenced) ∧
      (let far := f.wrList [(FB_GEOM0_MODS, 8)]
       (List.range far.mods).filter far.reaches = [0, 1, 2] ∧ far.wins 3 = false) ∧ live.role ≠ rFenced ∧ serving.role = rPaired ∧ serving.pair.leaveEpoch = none ∧
      serving.rd SD_SYNC_EPOCH ≤ 5 ∧ 5 ≤ serving.last ∧ serving.last < 6 := by
  decide +kernel

/-- A pool of nine modules, K 6 and M 3, one group with eight rows, all ONLINE and reached; band 2 is PENDING, its last epoch 5;
stripe 2 × 128 + 1 is open since epoch 3, stripe 3 × 128 is closed. -/
def pool : Head :=
  let h := serving.wrList ([(FB_GEOM0_MODS, 9), (FB_GEOM1_ROWS, 8), (PAR_GEOM_CURK, 6), (PAR_GEOM_CURM, 3), (FB_BTBASE_BASE, 0x4100),
    (PAR_HTBASE_BASE, 0x4101), (FB_CTL_CLOSEMAX, 4), (MER_EPOCH_EPOCH, 7), (FB_GEOM0_SPBF, 2)]
      ++ (List.range 9).flatMap (fun j => [(PAR_MOD_STATE.nth j, mOnline), (ML_P_STS_LINKUP.nth j, 1)]))
  let h := h.store (h.bandAddr 2) 32 ({ Band.ofNat 0 with state := bPending, last := 5 } : Band).toNat
  { h with fb := { h.fb with stripes := [(257, stripe0), (384, { stripe0 with phase := .closed })], twinFloor := some 5 } }

/-- A head that may spend nothing on collection, folding and reshaping. -/
def spent (h : Head) : Head := h.wrList [(MER_BUDA_GC, 0), (FB_CTL_IDLEGC, 0), (MER_BUDA_FOLD, 0)]

/-- Stripes: none, open for CLOSEMAX epochs and for fewer, closed with every position there and with m missing, held, being programmed,
and one charged to a class whose budget is spent; an entry of the twin's that is FREE and one that is not. -/
theorem wit_stripes :
    let gone := pool.wrList [(ML_P_STS_LINKUP.nth 0, 0), (ML_P_STS_LINKUP.nth 1, 0), (ML_P_STS_LINKUP.nth 2, 0),
      (PAR_MOD_STATE.nth 0, mAbsent), (PAR_MOD_STATE.nth 1, mAbsent), (PAR_MOD_STATE.nth 2, mAbsent)]
    pool.stripe 5 = none ∧ pool.stripe 257 = some stripe0 ∧ stripe0.opened + pool.rd FB_CTL_CLOSEMAX ≤ pool.epoch ∧
      (pool.wr MER_EPOCH_EPOCH 6).epoch < stripe0.opened + pool.rd FB_CTL_CLOSEMAX ∧ pool.stripe 384 = some { stripe0 with phase := .closed } ∧
      pool.missing 384 = [] ∧ (pool.geomOf 3).2 = 3 ∧ (gone.missing 384).length = 3 ∧ pool.bandCount = 8 ∧
      (Band.ofNat 2).state ≠ bFree ∧ (Band.ofNat 0).state = bFree ∧ pool.ownFloor < 2 ^ 63 ∧ StripePhase.programming ≠ .open_ ∧
      pool.mayProgram 384 { stripe0 with phase := .held } [] = true ∧ pool.missing 257 = [] ∧
      (spent pool).mayProgram 384 { stripe0 with phase := .closed, charge := some bGc } [] = false ∧
      (∀ j ∈ List.range 8, pool.remapAddr 0 (pool.rowOf 2) + 4 ≤ pool.bandAddr j ∨ pool.bandAddr j + 32 ≤ pool.remapAddr 0 (pool.rowOf 2)) := by
  decide +kernel

/-- For each kind of victim: no budget or no reshape, one to take and none; a band that may be erased and one that may not. -/
theorem wit_bands :
    let full := (pool.store (pool.bandAddr 1) 32 ({ Band.ofNat 0 with state := bClosed, refresh := true, wptr := 2, last := 1 } : Band).toNat)
    let fold := (pool.store (pool.bandAddr 1) 32 ({ Band.ofNat 0 with state := bClosed, oneBit := true, live := 4, wptr := 2, last := 1 } : Band).toNat)
    let shape (h : Head) := h.wrList [(PAR_STS_RESHAPING, 1), (MER_BUDB_RESHAPE, 5)]
    ((spent pool).fgCheck.mayCollect = false ∧ full.fgCheck.mayCollect = true ∧ full.fgCheck.collectVictim = some 1 ∧
        pool.fgCheck.mayCollect = true ∧ pool.fgCheck.collectVictim = none) ∧
      ((spent pool).fgCheck.budgetOf bFold = 0 ∧ fold.fgCheck.budgetOf bFold ≠ 0 ∧ fold.fgCheck.foldVictim = some 1 ∧
        pool.fgCheck.foldVictim = none ∧ pool.fgCheck.budgetOf bFold ≠ 0) ∧
      (pool.fgCheck.is PAR_STS_RESHAPING = false ∧ (shape full).fgCheck.is PAR_STS_RESHAPING = true ∧ (shape full).fgCheck.budgetOf bReshape = 5 ∧
        (shape full).fgCheck.closeReshape.reshapeVictim = some 1 ∧ (shape pool).fgCheck.closeReshape.reshapeVictim = none) ∧
      pool.mayErase 3 = false ∧
      (pool.mayErase 2 = true ∧ pool.holes 2 = [] ∧ pool.width ≠ 0 ∧ (pool.holeAddr 2 + 16 ≤ pool.bandAddr 2 ∨ pool.bandAddr 2 + 32 ≤ pool.holeAddr 2)) ∧
      (∀ p < pool.width, pool.reaches (pool.homePos 2 p) = true ∧ modUp (pool.modState (pool.homePos 2 p)) = true ∧ (2, p) ∉ pool.fb.badSlots) := by
  decide +kernel

/-- Patrol with a pass running, before and at the end of its period, and with none; a checkpoint due, in time and late, and one under
way without a root, with one that is durable and one that is not. -/
theorem wit_checkpoints :
    let pass : Patrol := { epoch := 1, ends := 7, behind := false, stripe := 5, left := [] }
    let on : Head := { pool with fb := { pool.fb with patrol := some pass } }
    let cut := pool.wrList [(CMT_APPLIED_EPOCH, 1023), (CMT_LAST_EPOCH, 1023), (MER_EPOCH_EPOCH, 1024)]
    let cut : Head := { cut with umb := { Umb.reset with slots := [(live.roleSlot 4, .loaded { poolKey with kind := 3 })] } }
    let c : CkptSt := { cut := 1024, plain := [], stripes := [], segs := [], root := some 0, late := false, todo := [], pages := [] }
    let late : Head := { pool.wr MER_EPOCH_EPOCH 5120 with fb := { pool.fb with ckpt := some c, stripes := [] } }
    (pool.passRuns = false ∧ pool.bandCount ≠ 0 ∧ live.bandCount = 0 ∧ pool.fb.patrol = none) ∧
      (on.fb.patrol = some pass ∧ on.passRuns = true ∧ pass.ends ≤ on.epoch ∧ (on.wr MER_EPOCH_EPOCH 6).epoch < pass.ends) ∧
      (cut.ckptDue = some 1024 ∧ cut.roleKey 4 = some { poolKey with kind := 3 }) ∧ pool.ckptDue = none ∧ live.roleKey 4 = none ∧
      (late.fb.ckpt = some c ∧ late.stripesDurable [locStripe 0] = true ∧ c.cut + 4096 ≤ late.epoch ∧ pool.epoch < c.cut + 4096 ∧
        ({ late with fb := { late.fb with stripes := [(0, stripe0)] } } : Head).stripesDurable [locStripe 0] = false) ∧
      (pool.fb.ckpt = none ∧ (cut.wr MER_EPOCH_EPOCH 5120).ckptDue = some 1024 ∧ cut.epoch < 1024 + 4096 ∧
        1024 + 4096 ≤ (cut.wr MER_EPOCH_EPOCH 5120).epoch ∧ cut.is FB_STS_CKLATE = false ∧ (cut.wr FB_STS_CKLATE 1).is FB_STS_CKLATE = true) ∧
      (let wait : Head := { cut with fb := { cut.fb with ckpt := some { c with root := none, stripes := [384] } } }
       wait.ckptAdvance.fb.ckpt.isSome = true ∧ ∀ d, wait.ckptAdvance.fb.ckpt = some d → d.root = none) := by
  decide +kernel

/-- Restore: a head that is not ALONE, one that has restored, one whose DRAM is not filled, the twin's lease, no key with strips or a
journal and with nothing, the key with no root, and a root. -/
theorem wit_restore :
    let l := live.wr MEM_STS_FILLDONE 1
    let keyed : Head := { l with umb := { Umb.reset with slots := [(live.roleSlot 4, .loaded { poolKey with kind := 3 })] } }
    (l.role = rAlone ∧ l.last = noEpoch ∧ l.fb.lostDump = none ∧ l.is MEM_STS_FILLDONE = true ∧ l.twinHoldsSole = false) ∧
      (serving.role ≠ rAlone ∧ (l.wr CMT_LAST_EPOCH 5).last ≠ noEpoch ∧ live.is MEM_STS_FILLDONE = false) ∧
      (l.setPort 0 { Port.reset with leaseKnown := true, holder := l.twinSole }).twinHoldsSole = true ∧
      (l.roleKey 4 = none ∧ l.bandStrips = [] ∧ l.journalEmpty = true) ∧
      keyed.roleKey 4 = some { poolKey with kind := 3 } ∧ keyed.newestRoot keyed.bandStrips { poolKey with kind := 3 } = none ∧
      keyed.loadDump.1 = true ∧ keyed.segmentPlaces keyed.bandStrips = [] ∧
      ({ keyed with umb := { keyed.umb with latch := true } } : Head).loadDump.1 = false := by
  decide +kernel

/-- Modules: absent for its time and not, in use, FAILED with both heads reaching it, notes within the pool and beyond, the hole of
a band with its erase owed and not, the list of lost stripes, a reshape at the driver with a band cleared. -/
theorem wit_modules_fail :
    let x : Access := ⟨.core 1, .s, 8⟩
    let gone (e : Nat) : Head :=
      { pool.wrList [(PAR_MOD_STATE.nth 3, mAbsent), (MER_EPOCH_EPOCH, e)] with fb := { pool.fb with absentUntil := [(3, 100)] } }
    let failed := pool.wr (PAR_MOD_STATE.nth 3) mFailed
    let hole (f : Nat) : Head := { (pool.store (pool.holeAddr 1) 4 (2 + 4 * 2 ^ 8 + f * 2 ^ 24)).store (pool.bandAddr 1) 32
        ({ Band.ofNat 0 with state := bClosed, wptr := 2 } : Band).toNat with
      fb := { pool.fb with holed := [1], rebuilds := [(pool.homePos 1 2, { rebuilt := 0, lost := 0 })] } }
    let e (owed : Bool) : Hole := { pos := 2, tgt := 4, lo := 0, eowed := owed }
    let move := (pool.wrList [(PAR_STS_RESHAPING, 1), (PAR_BOUND_BAND, 7)])
    (∀ a ∈ [(PAR_MOD_FAIL.nth 3).addr], live.served x.origin = true ∧ live.turnedAway x a = none ∧ (live.accessLevel x a).reaches .s = true) ∧
      ((gone 100).modState 3 = mAbsent ∧ (Tbl.find (gone 100).fb.absentUntil 3).getD 0 ≤ (gone 100).epoch ∧
        (gone 99).epoch < (Tbl.find (gone 99).fb.absentUntil 3).getD 0 ∧ (gone 100).reaches 3 = true ∧ mAbsent ≠ mFailed) ∧
      (pool.modState 3 ≠ mNone ∧ pool.modState 3 ≠ mFailed ∧ failed.modState 3 = mFailed ∧ failed.reaches 3 = true ∧ failed.twinReaches 3 = true) ∧
      (8 < pool.mods ∧ pool.mods ≤ 9 ∧ modUp (pool.modState 8) = true ∧ (pool.wr (PAR_MOD_STATE.nth 8) mResync).modState 8 = mResync ∧
        (pool.wr (PAR_MOD_STATE.nth 8) mFailed).modState 8 = mFailed ∧ mReplacing ≠ mResync ∧
        ¬ ((Tbl.find pool.fb.modAt 8).getD 0 / 8 = 7 ∧ modRank mAbsent < modRank ((Tbl.find pool.fb.modAt 8).getD 0 % 8) ∧ (Tbl.find pool.fb.modAt 8).getD 0 % 8 = pool.modState 8)) ∧
      pool.holeAt 1 2 = none ∧ (hole 3).holeAt 1 2 = some (e true) ∧ (hole 1).holeAt 1 2 = some (e false) ∧
      (1 < pool.bandCount ∧ pool.rebuildEntries 1 = [] ∧ (hole 3).rebuildEntries 1 = [e true] ∧ (hole 1).rebuildEntries 1 = [e false] ∧
        (∀ f ∈ [1, 3], (hole f).rebuildFirst = some 1 ∧ (hole f).rebuildBusy 1 2 = false ∧ (hole f).mayUsePort bRebuild 4 = true ∧
          ((hole f).wr MER_BUDB_REBUILD 0).mayUsePort bRebuild 4 = false) ∧ (hole 1).rebuildPorts 0 128 2 4 = [(4, stripBytes)] ∧
        (hole 1).rebuildRange 0 128 2 0 stripBytes = .unreadable ∧
        Tbl.find (hole 1).fb.rebuilds ((hole 1).homePos 1 2) = some { rebuilt := 0, lost := 0 }) ∧
      pool.fb.lost.length < 65536 ∧ (∀ l ∈ pool.fb.lost, l.1 ≠ 5) ∧
      (move.headId = 0 ∧ move.is PAR_STS_RESHAPING = true ∧ move.is MER_STS_EPVALID = true ∧ move.issued false < 65536 ∧
        ((List.range (min 64 (move.bandCount - move.rd PAR_BOUND_BAND))).takeWhile (fun i => (move.band (move.rd PAR_BOUND_BAND + i)).state = bFree ||
          (move.band (move.rd PAR_BOUND_BAND + i)).state = bRetired)).length ≠ 0) := by
  decide +kernel

/-- Dumps: a head stopped and not, no dump, a dump with a copy that is not done, one whose trailer is durable, one that has ended,
one that a reset waits for; FORCE at V on a head that waits for it. -/
theorem wit_dumps :
    let x : Access := ⟨.core 1, .v, 8⟩
    let y : DumpCopy := { left := [], trailer := true, dead := false, done := false }
    let d : DumpSt := { epoch := 1, tick := 2, seq := 4, copies := [(0, y), (1, { y with trailer := false })], reset := none, finished := false }
    let h (d : DumpSt) : Head := { live with fb := { live.fb with dump := some d }, plt := { live.plt with stopped := true } }
    live.plt.stopped = false ∧ live.fb.dump = none ∧ (h d).plt.stopped = true ∧ (h d).fb.dump = some d ∧ Tbl.find d.copies 0 = some y ∧
      y.ended = false ∧ y.trailer = true ∧ y.left = [] ∧ d.reset = none ∧ d.seq < 2 ^ 32 ∧ Tbl.find d.copies 1 = some { y with trailer := false } ∧
      ({ d with finished := true } : DumpSt).finished = true ∧ ({ d with reset := some 4 } : DumpSt).reset = some 4 ∧
      live.served x.origin = true ∧ live.turnedAway x PAR_DUMP_FORCE.addr = none ∧ (live.accessLevel x PAR_DUMP_FORCE.addr).reaches .v = true ∧
      bitAt 16 4 = true ∧ ({ live with fb := { live.fb with lostDump := some 7 } } : Head).fb.lostDump.isSome = true := by
  decide +kernel


/-- What a link shows of a module of the right class, not yet of a pool. -/
def shown (class_ : BitVec 24) : LinkTrained :=
  { speed := 6, x1 := false, classCode := class_, ids := 0,
    part := { serial := 77, nblk := 64, spbf := 3, spb1 := 1, progfd := 0, prog1 := 0, readmb := 0, holdms := 0 }, pool := 0, posn := 0, recordGen := 0, leaseGen := 0, holder := 0, failed := false }
/-- An operation of the controller with a purpose. -/
def issued (opc : Nat) (len : BitVec 32) (p : Purpose) : Outstanding :=
  { op := { blankOp opc with len := len, dptr := 0x200000000 }, queue := 0, purpose := p }
/-- Port 3 of the pool with operations outstanding: a program of strip 1 of stripe 257, and a read by software. -/
def port3 : Head :=
  let st := { stripe0 with phase := .programming, todo := [1, 2] }
  { pool.setPort 3 { Port.reset with perstHeld := false, outstanding := [(0, issued 3 262144 (.strip 257 1)), (1, issued 1 4096 (.software 0x8180 1))] } with
    fb := { pool.fb with stripes := [(257, st)] } }
/-- A completion. -/
def cpl (cid status : Nat) (data : List Byte) : ModCpl :=
  { cid := BitVec.ofNat 16 cid, status := BitVec.ofNat 16 status, corrmax := 0, level := 0, bytes := 0, data := data, sealRec := 0 }

/-- A port STARTING with its reset held and released, a link that trains with a module of the pool and with another function, a
link up and down, an operation outstanding and none, completions of each kind, a DMA write in range and with no operation of software. -/
theorem wit_module_links :
    let start (held : Bool) : Head := ((live.wrList [(ML_P_STS_STATE.nth 3, uStarting), (FB_GEOM0_MODS, 9)]).setPort 3 { Port.reset with perstHeld := held })
    let none_ : Head := pool.setPort 3 { Port.reset with perstHeld := false, outstanding := [(0, issued 3 262144 (.strip 257 1))] }
    let st := { stripe0 with phase := .programming, todo := [1, 2] }
    live.plt.inReset = false ∧ (start true).rd (ML_P_STS_STATE.nth 3) = uStarting ∧ ((start true).port 3).perstHeld = true ∧
      ((start false).port 3).perstHeld = false ∧ (start false).is (ML_P_STS_LINKUP.nth 3) = false ∧ (shown 0x010802).classCode ≠ 0x0180D9 ∧
      (shown 0x0180D9).classCode = 0x0180D9 ∧ 3 < (start false).mods ∧ (start false).modState 3 = mNone ∧
      (start false).identityCause 3 (shown 0x0180D9) = none ∧ live.rd (ML_P_STS_STATE.nth 3) ≠ uStarting ∧
      port3.is (ML_P_STS_LINKUP.nth 3) = true ∧ port3.fb.dump = none ∧ Tbl.find (port3.port 3).outstanding 5 = none ∧
      Tbl.find (port3.port 3).outstanding 0 = some (issued 3 262144 (.strip 257 1)) ∧ (cpl 0 0 []).cid.toNat = 0 ∧
      (issued 1 4096 (.software 0x8180 1)).op.len.toNat < (cpl 1 0 (List.replicate 4097 0)).data.length ∧
      (∀ j < port3.mods, port3.modState j ≠ mResync ∧ port3.modState j ≠ mReplacing) ∧
      (let walk : Outstanding := issued 1 4096 (.patrol 257 0)
       Tbl.find ((pool.setPort 3 { Port.reset with outstanding := [(0, walk)] }).port 3).outstanding 0 = some walk ∧ walk.purpose = .patrol 257 0 ∧
         ({ cpl 0 0 [] with bytes := 4096 } : ModCpl).bytes.toNat = walk.op.len.toNat) ∧ (cpl 0 0xFE []).status = 0xFE ∧ (cpl 0 0xFF []).status = 0xFF ∧
      (port3.stripe 257 = some st ∧ port3.fb.ckpt = none ∧ st.todo.filter (· ≠ 1) ≠ []) ∧ port3.modState 3 ≠ mNone ∧
      (∀ e ∈ (none_.port 3).outstanding, e.2.purpose = .strip 257 1) ∧
      (1, issued 1 4096 (.software 0x8180 1)) ∈ (port3.port 3).outstanding ∧ (issued 1 4096 (.software 0x8180 1)).op.dptr ≠ 0 ∧
      0x200000000 + 4096 ≤ (issued 1 4096 (.software 0x8180 1)).op.dptr.toNat + (issued 1 4096 (.software 0x8180 1)).op.len.toNat := by
  decide +kernel

/-- A module with one strip in block 1, block 2 bad, the sole lease with head 0 in generation 4, and port 1 fenced. -/
def mod0 : Module :=
  { serial := 77, nblk := 64, spbf := 3, spb1 := 1, progfd := 0, prog1 := 0, readmb := 0, holdms := 0, temp := 0, life := 0, holder := 2, fence := 2,
    gen := 4, hb0 := 0, hb1 := 0, blocks := [(1, { Block.blank with strips := [{ data := [9], sealRec := 5 }] }), (2, { Block.blank with bad := true })],
    failed := false, fatal := false }

/-- Each operation with its fields as listed: reads of a strip and of an erased slot, a program at the next slot, at another and in
the other mode, an erase, the pages, both fences, the three lease operations matching and not, a bad block, a fenced port. -/
theorem wit_module_operations :
    let r : ModOp := { blankOp 1 with pblk := 1, len := 4096, dptr := 8, mptr := 8 }
    let w : ModOp := { blankOp 3 with pblk := 1, slot := 1, len := 262144, dptr := 8, mptr := 8 }
    let l (sub : Nat) : ModOp := { blankOp 8 with subop := BitVec.ofNat 8 sub, len := 64, dptr := 8, exph := 2, newh := 2, gen := 4 }
    let h : Head := { live with modules := [(3, mod0)] }
    h.module 3 = some mod0 ∧ h.module 4 = none ∧ mod0.fatal = false ∧ mod0.failed = false ∧
      (r.opc = 1 ∧ readRangeOk r = true ∧ r.slot.toNat < max mod0.spbf mod0.spb1 ∧ unlistedZero r true true false false true true true true false false 0 = true) ∧
      (unlistedZero { r with opc := 2, level := 15 } true true true false true true true true false false 0 = true) ∧
      (w.opc = 3 ∧ unlistedZero w true true false false false true true true false false 1 = true ∧ w.len = 262144) ∧
      unlistedZero { blankOp 4 with pblk := 1 } true false false false false false false false false false 0 = true ∧
      unlistedZero { blankOp 5 with len := 4096, dptr := 8 } false false false false false true true false false false 0 = true ∧
      (mod0.badBlock 1 = false ∧ mod0.badBlock 2 = true ∧ mod0.badBlock 64 = true ∧ mod0.fenced false = false ∧ mod0.fenced true = true) ∧
      ((mod0.block 1).strips[0]? = some { data := [9], sealRec := 5 } ∧ (mod0.block 1).strips[1]? = none) ∧
      (w.slot.toNat = (mod0.block 1).strips.length ∧ (mod0.block 1).oneBit = w.flags.getLsbD 0 ∧ w.slot.toNat < mod0.spbf ∧
        ({ w with slot := 2 } : ModOp).slot.toNat ≠ (mod0.block 1).strips.length ∧ ({ w with flags := 1 } : ModOp).flags.getLsbD 0 ≠ (mod0.block 1).oneBit) ∧
      (unlistedZero { blankOp 7 with flags := 2 } false false false false false false false false false false 6 = true ∧
        ({ blankOp 7 with flags := 2 } : ModOp).flags.getLsbD 1 = true ∧ ({ blankOp 7 with flags := 2 } : ModOp).flags.getLsbD 2 = false ∧
        ({ blankOp 7 with flags := 4 } : ModOp).flags.getLsbD 1 = false ∧ mod0.holder = soleOf false ∧ mod0.holder ≠ soleOf true) ∧
      (∀ sub < 3, (l sub).opc = 8 ∧ (l sub).subop.toNat = sub ∧ unlistedZero (l sub) false false false true false true true false true true 0 = true) ∧
      ((l 2).newh.toNat ≤ 3 ∧ (l 2).exph.toNat ≤ 3 ∧ (l 2).newh.toNat ≠ soleOf true ∧ (l 2).gen.toNat = mod0.gen ∧ (l 2).exph.toNat = mod0.holder ∧
        ({ l 2 with gen := 3 } : ModOp).gen.toNat ≠ mod0.gen) := by
  decide +kernel


/-! ### The front complex -/

/-- Port 1 is ON in four sub-ports of which 0 to 2 are enabled, all lanes up; its sub-port table is at the start of Billow: sub-port
0 has the IPv4 address 10.0.0.1 and one IPv6 address. -/
def ports : Head :=
  let h := live.wrList [(FE_P_STS_STATE.nth 1, 2), (FE_P_CTL_SPLIT.nth 1, 2), (FE_P_CTL_SUBEN.nth 1, 7), (FE_P_STS_LANEUP.nth 1, 15),
    (FE_P_STS_SUBUP.nth 1, 7), (FE_TBLBASE_BASE, 0x200000000 / 2 ^ 21)]
  ((h.store (h.subEntry 1 0 + 8) 4 0x0100000A).store (h.subEntry 1 0 + 13) 1 128).store (h.subEntry 1 0 + 31) 1 1

/-- A lane that changes on a port ON and as it was, a sub-port that moves to the spare lane and one that has none, the addresses of a
sub-port that is up, a sub-port that is down. -/
theorem wit_host_links :
    let full := ports.wrList [(FE_P_CTL_SUBEN.nth 1, 15), (FE_P_STS_SUBUP.nth 1, 15)]
    live.plt.inReset = false ∧ live.rd (FE_P_STS_STATE.nth 1) = 0 ∧ ports.rd (FE_P_STS_STATE.nth 1) = 2 ∧
      bitAt (ports.rd (FE_P_STS_LANEUP.nth 1)) 2 ≠ false ∧ (ports.enabledSubs 1).filter (fun r => (ports.lanesOf 1 r).contains 2) = [2] ∧
      (ports.wrBit (FE_P_STS_LANEUP.nth 1) 2 false).spareLane 1 2 = some 3 ∧
      (full.enabledSubs 1).filter (fun r => (full.lanesOf 1 r).contains 2) = [2] ∧
      (full.wrBit (FE_P_STS_LANEUP.nth 1) 2 false).spareLane 1 2 = none ∧ ports.subUp 1 0 = true ∧ ports.subUp 1 3 = false ∧
      ports.ipv4 1 0 = some 0x0A000001 ∧ ports.ipv6 1 0 = [1] ∧ ports.ipv4 1 0 ≠ some 0x0A000002 := by
  decide +kernel

/-- A queue pair that is ready, with nothing outstanding. -/
def qp0 : Qp :=
  { ctrl := none, admin := false, qid := 1, size := 8, subport := 4, pmtu := 1024, ready := true, linked := true, gone := false, rx := [], out := [],
    sendPsn := 0, expPsn := 0, retries := 0, rnrTries := 0, rnrWait := false, wait := 16, rate := 1000, lastCut := none, lastCnp := none, due := 0 }
/-- The head with queue pair 3 in a state. -/
def paired (q : Qp) (h : Head) : Head := { h with fe := { h.fe with qps := [(3, q)] } }
/-- Outstanding operations: a WRITE of one packet, and a READ of 2048 bytes in two. -/
def opWrite : QpEntry := { count := 1, psn := 0, npsn := 1, op := .write 64, got := 0, msg := .write 0 1 2 [] }
def opRead : QpEntry := { count := 2, psn := 1, npsn := 2, op := .read 4 0 2048, got := 0, msg := .read 1 1 2 2048 }

/-- Each case of the statement on queue pairs. -/
theorem wit_queue_pairs :
    let full := paired { qp0 with out := [opWrite, opRead], retries := 6, rnrTries := 6 } ports
    let late := paired { qp0 with out := [opWrite], retries := 7, rnrTries := 7 } ports
    let wait_ := paired { qp0 with out := [opWrite], rnrWait := true } ports
    let w : Work := { work0 with from_ := .host 3 7, state := .fetching 0 2048 }
    let reading : Head := { paired { qp0 with out := [opRead] } ports with works := [(4, w)] }
    let open_ := (paired qp0 serving).wrList [(PAR_STS_DUMPREADY, 1), (FE_ADMIT_MAX, 1), (BLW_POOL_CNT_COUNT.nth 3, 1)]
    live.qp 3 = none ∧ ports.subUp 1 0 = true ∧ ports.subUp 1 3 = false ∧ ports.freeQp = some 0 ∧
      (full.qp 3 = some { qp0 with out := [opWrite, opRead], retries := 6, rnrTries := 6 } ∧ full.worksOf 3 = [] ∧
        psnLe ((opWrite.psn + opWrite.npsn - 1) % 2 ^ 24) 0 = true ∧ opRead.done = false ∧ opWrite.done = false ∧
        psnLe ((opWrite.psn + opWrite.npsn - 1) % 2 ^ 24) (2 ^ 24 - 1) = false) ∧
      (late.qp 3 = some { qp0 with out := [opWrite], retries := 7, rnrTries := 7 } ∧ qp0.ctrl = none ∧ qp0.gone = false) ∧
      wait_.qp 3 = some { qp0 with out := [opWrite], rnrWait := true } ∧
      ((1 + 2 ^ 24 - opRead.psn) % 2 ^ 24 < opRead.npsn ∧ (1 + 2 ^ 24 - opRead.psn) % 2 ^ 24 * qp0.pmtu = opRead.got ∧ opRead.got + 1024 < 2048 ∧
        reading.worksOf 3 = [(4, w)] ∧ reading.work 4 = some w ∧
        (let last : Head := { paired { qp0 with out := [{ opRead with got := 1024 }] } serving with works := [(4, { w with state := .fetching 0 1024 })] }
         (2 + 2 ^ 24 - opRead.psn) % 2 ^ 24 * qp0.pmtu = 1024 ∧ (2 + 2 ^ 24 - opRead.psn) % 2 ^ 24 < opRead.npsn ∧ last.worksOf 3 = [(4, { w with state := .fetching 0 1024 })] ∧
           w.row ≠ 0xFFFF ∧ last.is FE_STS_FENCED = false ∧ last.pair.leaveEpoch = none ∧ last.serving = true ∧ last.plt.stopped = false)) ∧
      (open_.dumpCheck.mayPost 3 qp0 = true ∧ (open_.dumpCheck.allocIn 3 0).1 = .buffer 0x300000 ∧
        (open_.wr FE_ADMIT_MAX 0).dumpCheck.mayPost 3 qp0 = false) := by
  decide +kernel
/-- A table without a free queue pair: every number has one. -/
theorem wit_no_queue_pair (h : Head) (f : ∀ n < 32768, (h.qp n).isNone = false) : h.freeQp = none := by
  rw [Head.freeQp, List.find?_eq_none]; intro n hn; simp [f n (List.mem_range.mp hn)]

/-- A submission entry: opcode, CID 7, namespace 1, an SGL flag, and more fields. -/
def sqe (opc : Nat) (more : List (Nat × Nat × Nat)) : BitVec 512 := BitVec.ofNat 512 (recOf ((0, 1, opc) :: (1, 1, 0x40) :: (2, 2, 7) :: (4, 4, 1) :: more))
/-- A capsule on queue pair 3. -/
def capsule (opc : Nat) (more : List (Nat × Nat × Nat)) (data : List Byte) : Capsule :=
  { port := 1, qp := 3, psn := 0, ce := false, sqe := sqe opc more, data := data }
/-- A serving head whose queue pair 3 belongs to the ready controller 5 and has the receive buffer 0x300000 posted; the first entry of
the namespace table is namespace 1 of subsystem 0, ANA group 0. -/
def hosting : Head :=
  let h := (paired { qp0 with ctrl := some 5, rx := [0x300000] } serving).wrList
    [(FE_C_STS_RDY.nth 5, 1), (FE_TBLBASE_BASE, 0x200000000 / 2 ^ 21), (BLW_POOL_BASE_BASE.nth 3, 0x200100), (PAR_STS_DUMPREADY, 1)]
  (h.store (h.nsEntryAddr 0) 4 1).store (h.nsEntryAddr 0 + 7) 1 1
/-- The head of the statement once the capsule lies in its buffer. -/
def landed (h : Head) (c : Capsule) : Head :=
  let q1 : Qp := { qp0 with ctrl := some 5, expPsn := 1 }
  let h0 := ((h.setQp 3 q1).emit (.roce 3 (.ack 0))).put (h.bufAddr 0x300000) (toBytes 64 c.sqe.toNat ++ c.data)
  (h0.setLen 0x300000 (64 + c.data.length)).wr FE_ADMIT_CUR (h.rd FE_ADMIT_CUR + 1)

/-- Capsules: of a queue pair that is not there, that is not ready, with another PSN, without a buffer; one that fails its first check;
a Flush that is stamped, a Reservation Report that is held, a Dataset Management with its range in the capsule, and one to fetch
while a gate is closed. -/
theorem wit_capsules :
    let q1 : Qp := { qp0 with ctrl := some 5, expPsn := 1 }
    let flush := capsule 0 [] []
    let report := capsule 0x0E [] []
    let inside := capsule 9 [(32, 4, 16), (39, 1, 1)] (List.replicate 16 0)
    let fetch := capsule 9 [(24, 8, 0x1000), (32, 3, 16), (35, 4, 5), (39, 1, 0x40)] []
    let row (h : Head) (c : Capsule) := ((landed h c).capsuleWork false c q1 0x300000).row
    (hosting.qp 3 = some { qp0 with ctrl := some 5, rx := [0x300000] } ∧ hosting.worksOf 3 = [] ∧ live.qp 3 = none ∧ sqeOpc flush.sqe = 0 ∧
      sqeOpc report.sqe = 0x0E ∧ sqeOpc inside.sqe = 9) ∧
    (landed (hosting.wr (FE_C_STS_RDY.nth 5) 0) flush).capsuleCheck false flush q1 = some (nvmeStatus 0 0x0C false) ∧
    ((landed hosting flush).capsuleCheck false flush q1 = none ∧ hosting.is FE_STS_FENCED = false ∧ hosting.pair.leaveEpoch = none ∧
      hosting.serving = true ∧ hosting.plt.stopped = false ∧ (inRole rBidding hosting).role = rBidding ∧ hosting.role ≠ rBidding ∧ (sglOf flush.sqe [] false).inline = none ∧
      (landed hosting flush).inboundLen false flush.sqe = 0 ∧ row hosting flush ≠ 0xFFFF) ∧
    ((landed hosting report).capsuleCheck false report q1 = none ∧ row hosting report = 0xFFFF ∧ hosting.freeHold = some 0) ∧
    ((landed hosting inside).capsuleCheck false inside q1 = none ∧ (sglOf inside.sqe inside.data true).inline = some (0, 16)) ∧
    ((landed hosting fetch).capsuleCheck false fetch q1 = none ∧ (sglOf fetch.sqe fetch.data true).inline = none ∧
      (landed hosting fetch).inboundLen false fetch.sqe ≠ 0 ∧ (hosting.wr CMT_STS_BPLAG 1).gated = true) := by
  decide +kernel

/-- The bits of an attribute word: hashed with SHA-256, key slot 256, of objects or of blocks. -/
def attrWord (kv : Bool) : Word := BitVec.ofNat 64 (256 * 2 ^ 16 + 8 + if kv then 1 else 0)
/-- Work of a host's command: its set and opcode. -/
def hostWork (cset opc : Nat) : Work := { work0 with from_ := .host 3 7, cset := cset, opc := opc, nsid := 1, state := .running 32 }
/-- Context 32 at entry e of the base library in cluster 0, dispatched to a command; its namespace 1 of 8 blocks or keys is there
since epoch 0, the row binds key slot 256, and the slot holds an XTS key. -/
def atLib (e : Nat) (attr : Word) (x : Work) : Head :=
  let c := regs { body .c with pc := BitVec.ofNat 64 (localBase + 64 * e), work := some 4 } [(6, attr)]
  let h := (live.setCtx 32 c).wrList [(UMB_RBBASE_BASE, 0x200010), (BLW_POOL_CNT_COUNT.nth 4, 2), (BLW_POOL_BASE_BASE.nth 4, 0x200100)]
  let h := h.store (0x200010000 + 4) 2 256
  { h with works := [(4, x)], libs := [(0, { libid := libBase, code := [], rodata := [], entries := (List.range 24).map (fun i => (i, 64 * i)) })],
           nss := [(1, { object := bitAt attr.toNat 0, fsize := 0, keyslot := 256, attrs := none, size := some 8, repair := false, created := 0, deleted := none })],
           umb := { h.umb with slots := [(256, .loaded { key := [], salt := [], kind := 1, use := 1, keyid := 9 })] } }

/-- Each command at its entry; at another entry; with an attribute word that does not fit; one whose view is not applied. -/
theorem wit_entries :
    let rows : List (Nat × Nat × Bool × Nat) := [(0, 0, false, 5), (0, 1, false, 1), (0, 2, false, 2), (0, 5, false, 6), (0, 8, false, 3),
      (0, 9, false, 4), (0, 0x0C, false, 7), (1, 1, true, 16), (1, 2, true, 17), (1, 6, true, 20), (1, 0x10, true, 18), (1, 0x14, true, 19)]
    (∀ r ∈ rows, let x := hostWork r.1 r.2.1
      let h := atLib r.2.2.2 (attrWord r.2.2.1) x
      let c := h.ctx 32
      h.plt.inReset = false ∧ c.run = .running ∧ c.work = some 4 ∧ h.work 4 = some x ∧ (decide (x.cset = 1)) = r.2.2.1 ∧
        x.opc = r.2.1 ∧ x.qp.isSome = true ∧ h.atEntry 32 c r.2.2.2 = true ∧ h.atEntry 32 c 0 = false ∧ h.plt.stopped = false ∧
        attrFits (c.gr 6) r.2.2.1 = true ∧ attrFits (c.gr 6) (! r.2.2.1) = false ∧ h.memc.lines = []) ∧
      (atLib 2 (attrWord false) (hostWork 0 2)).libReady { hostWork 0 2 with readEpoch := some 3 } = false := by
  decide +kernel

/-- A failure's status or a result. -/
def failsOr {α : Type} : Except Nat α → Nat ⊕ α
  | .error st => .inl st
  | .ok b => .inr b
theorem ok_of_failsOr {α : Type} {e : Except Nat α} {a : α} (f : failsOr e = .inr a) : e = .ok a := by
  cases e <;> simp_all [failsOr]

/-- Block commands: a range whose namespace is not there, one beyond its end, one of zeros that compares equal and one that does not;
a Read's buffers; a Write beyond the end, of nothing and of an equal-byte block; Write Zeroes up to the end and beyond it;
a Dataset Management without Deallocate. -/
theorem wit_block_commands :
    let a := attrOf (attrWord false).toNat
    let x : Work := { hostWork 0 2 with len := 4096, lba := 7 }
    let h := atLib 2 (attrWord false) x
    let y : Work := { x with opc := 1, len := 8, segs := [{ buf := 0x400000, off := 0, len := 8 }] }
    let g := (atLib 1 (attrWord false) y).put ((atLib 1 (attrWord false) y).bufAddr 0x400000) (List.replicate 8 7)
    let zeroes (nlb0 : Nat) : Work := { x with opc := 8, capsule := BitVec.ofNat 512 (recOf [(48, 2, nlb0)]) }
    (h.libReady x = true ∧ failsOr (h.rangeData 0 { x with nsid := 2 } a) = .inl rsBadParam ∧ failsOr (h.rangeData 0 { x with lba := 8 } a) = .inl lsLbaRange ∧
      dataPools h 4096 = some [4] ∧ (h.allocAll (h.classOf 32 (h.ctx 32)) [4]).1 = some [0x400000] ∧
      failsOr (h.rangeData 0 { x with len := 0 } a) = .inr [] ∧ h.dataOf { x with len := 0 } = [] ∧ g.memc.lines = []) ∧
    (h.liveNs 2 = none ∧ (h.liveNs 1).isSome = true ∧ h.mapSize none 1 < 8 + 4096 / 4096 ∧ 7 + 4096 / 4096 ≤ h.mapSize none 1 ∧
      (h.ctx 32).lib.placing = none ∧ (h.ctx 32).lib.done = 0 ∧ a.object = false ∧ g.dataOf y = List.replicate 8 7 ∧
      patternOf ((g.dataOf y).take (min 4096 (g.dataOf y).length)) = some 0x707070707070707 ∧
      toBytes 8 0x707070707070707 = List.replicate 8 (BitVec.ofNat 8 0x707070707070707)) ∧
    (h.mapSize none 1 < 7 + (recAt (zeroes 1).capsule.toNat 48 2 + 1) ∧ 7 + (recAt (zeroes 0).capsule.toNat 48 2 + 1) ≤ h.mapSize none 1 ∧
      (h.ctx 32).intents.length + (trimIntents 1 7 1).length ≤ 65536 ∧ bitAt (recAt x.capsule.toNat 44 4) 2 = false) := by
  decide +kernel

/-- Key commands: a namespace that is not there, a key that is not there, one that is, a Store with an option and without. -/
theorem wit_key_commands :
    let x : Work := { hostWork 1 0x14 with keyBytes := [1, 2] }
    let h := atLib 19 (attrWord true) x
    let there : Head := { h with pages := [(pageKey 1 (keyBucket 1 [1, 2]), [{ epoch := 0, refs := true, entries := [(5, { len := 2, key := 513, chunk := 77 })] }])] }
    h.libReady x = true ∧ h.nsView x.readEpoch 2 = none ∧ (h.nsView x.readEpoch 1).isSome = true ∧ h.keyChunk x.readEpoch 1 [1, 2] = none ∧
      there.keyChunk x.readEpoch 1 [1, 2] = some 77 ∧ kvOptions { x with capsule := BitVec.ofNat 512 (recOf [(45, 1, 2)]) } = true ∧
      kvOptions x = false ∧ h.liveNs 2 = none ∧ (h.ctx 32).intents.length + [keyIntent 8 1 [1, 2] 0].length ≤ 65536 := by
  decide +kernel

/-- A block's page and a key's page that are not in a full pool: the lookup, the listing and the range wait. -/
theorem wit_library_waits :
    let x : Work := { hostWork 1 0x14 with keyBytes := [1, 2] }
    let v : PageVer := { epoch := 0, refs := true, entries := [(5, { len := 2, key := 513, chunk := 77 })] }
    let h := fullPool { atLib 19 (attrWord true) x with pages := [(pageKey 1 (keyBucket 1 [1, 2]), [v])] }
    let y : Work := { hostWork 0 2 with len := 4096, lba := 7 }
    let g := fullPool { atLib 2 (attrWord false) y with pages := [(pageKey 1 0, [{ v with entries := [] }])] }
    h.usePages (h.keyUses x.readEpoch x.nsid x.keyBytes) = none ∧ h.usePages (h.nsUses x.readEpoch x.nsid) = none ∧
      g.usePages (g.rangeUses y (attrOf (attrWord false).toNat)) = none := by
  refine ⟨?_, ?_, ?_⟩
  · refine Eq.trans (congrArg _ ?_) (full_waits _ (pageKey 1 (keyBucket 1 [1, 2]), 0) [] ?_ ?_) <;> decide +kernel
  · refine Eq.trans (congrArg _ ?_) (full_waits _ (pageKey 1 (keyBucket 1 [1, 2]), 0) [] ?_ ?_) <;> decide +kernel
  · refine Eq.trans (congrArg _ ?_) (full_waits _ (pageKey 1 0, 0) [] ?_ ?_) <;> decide +kernel
/-- Data in DRAM where a line cannot be read; a Dataset Management with its range within the namespace and one beyond. -/
theorem wit_library_data :
    let y : Work := { hostWork 0 1 with len := 8, segs := [{ buf := 0x400000, off := 0, len := 8 }] }
    let h := (atLib 1 (attrWord false) y).wr (BLW_POOL_BASE_BASE.nth 4) (dramBase / 4096)
    let bad : Head := { h with memc := { h.memc with lines := [(0, { cipher := [], check := [], poison := true })] } }
    let x : Work := { hostWork 0 9 with len := 16, segs := [{ buf := 0x400000, off := 0, len := 16 }], capsule := BitVec.ofNat 512 (recOf [(44, 4, 4)]) }
    let g := atLib 4 (attrWord false) x
    let ranges (lba : Nat) :=
      let t := g.put (g.bufAddr 0x400000) (toBytes 16 (recOf [(4, 4, 1), (8, 8, lba)]))
      (List.range ((t.dataOf x).length / 16)).map (fun i => (leAt (t.dataOf x) (16 * i + 8) 8, leAt (t.dataOf x) (16 * i + 4) 4))
    bad.badSegs 0 y.len y.segs ≠ [] ∧ bitAt (recAt x.capsule.toNat 44 4) 2 = true ∧ ranges 7 = [(7, 1)] ∧ ranges 8 = [(8, 1)] ∧
      g.mapSize none 1 = 8 ∧ (g.usePages (g.nsUses none 1)).isSome = true ∧ (g.usePages (g.keyUses none 1 [1])).isSome = true := by
  decide +kernel

/-- A queue pair's head: queue pair 3, with controller 5 where there is one; pool 3 has buffers. -/
def admin (q : Qp) (ctls : Tbl Ctl) : Head :=
  let h := (paired q serving).wrList [(BLW_POOL_BASE_BASE.nth 3, 0x200100), (BLW_POOL_CNT_COUNT.nth 3, 8), (BLW_POOL_BASE_BASE.nth 4, 0x200200),
    (BLW_POOL_CNT_COUNT.nth 4, 8)]
  { h with fe := { h.fe with ctls := ctls } }
def qpAdmin : Qp := { qp0 with admin := true, ctrl := some 5, linked := true, size := 32, qid := 0 }
def ctl0 : Ctl := { adminQp := 3, kato := 1000, since := 0, cc := 0, aers := [], events := 0, notice := false, aborts := [], ending := false }
/-- A Fabrics command of a type. -/
def fabrics (type : Nat) (more : List (Nat × Nat × Nat)) (data : List Byte) : Capsule :=
  { port := 1, qp := 3, psn := 0, ce := false, sqe := BitVec.ofNat 512 (recOf ((0, 1, 0x7F) :: (1, 1, 0x40) :: (2, 2, 7) :: (4, 1, type) :: more)), data := data }

/-- Admin capsules: each row's own and another row's; one before Connect; properties there are and are not; enabling a controller that
is OFF and disabling one that is ON; aborts and event requests below and at their limits; a log page; one that is held. -/
theorem wit_admin :
    let rows : List (Capsule × Nat) := [(capsule 0x18 [] [], 0), (fabrics 4 [] [], 1), (fabrics 0 [] [], 2), (capsule 8 [] [], 3),
      (capsule 0x0C [] [], 4), (capsule 2 [(40, 1, 0x0C)] [], 5), (capsule 6 [] [], 6)]
    let own (c : Capsule) (i : Nat) : Bool :=
      let fabric (t : Nat) : Bool := decide (sqeOpc c.sqe = 0x7F) && decide (sqeAt c.sqe 4 1 = t)
      [decide (sqeOpc c.sqe = 0x18), fabric 4, fabric 0, decide (sqeOpc c.sqe = 8), decide (sqeOpc c.sqe = 0x0C), isAnaLog c.sqe, ! servedAdmin c.sqe][i]? = some true
    let h := admin qpAdmin [(5, ctl0)]
    let t (h : Head) (c : Capsule) : Head := (h.receiveSend c).2
    let ok (h : Head) (c : Capsule) (q : Qp) : Bool := decide ((h.receiveSend c).1.map (·.1) = some q) && decide (h.worksOf 3 = []) && ! h.plt.inReset
    let q1 : Qp := { qpAdmin with expPsn := 1 }
    let on := h.wrList [(FE_C_CTL_EN.nth 5, 1), (FE_C_STS_STATE.nth 5, 2), (FE_C_STS_RDY.nth 5, 1)]
    let full : Ctl := { ctl0 with aborts := [1, 2, 3, 4], aers := [1, 2, 3, 4] }
    let set_ (v : Nat) := fabrics 0 [(44, 4, 0x14), (48, 4, v)] []
    let log := capsule 2 [(40, 1, 0x0C), (42, 2, 9), (24, 8, 0x1000), (32, 3, 40), (35, 4, 5), (39, 1, 0x40)] []
    (∀ r ∈ rows, ∀ i < 7, own r.1 i = (r.2 == i) ∧ ok h r.1 q1 = true ∧ ((admin { qpAdmin with ctrl := none } []).receiveSend r.1).1.isSome = true) ∧
    ((h.qp 3).all (·.admin) = true ∧ (t h (capsule 0x18 [] [])).ctl 5 = some ctl0 ∧
      (∀ g ∈ [0, 8, 0x14, 0x1C], sqeAt (fabrics 4 [(44, 4, g)] []).sqe 44 4 = g) ∧ 0x18 ∉ [0, 8, 0x14, 0x1C] ∧
      sqeAt (set_ 1).sqe 44 4 = 0x14 ∧ bitAt (sqeAt (set_ 1).sqe 48 4) 0 = true ∧ bitsAt (sqeAt (set_ 1).sqe 48 4) 14 2 = 0 ∧
      (t h (set_ 1)).unitState (.controller 5) = uOff ∧ (t h (set_ 1)).unitEn (.controller 5) = false ∧
      (t on (set_ 0)).unitState (.controller 5) = uOn ∧ (t on (set_ 0)).unitEn (.controller 5) = true ∧ bitAt (sqeAt (set_ 0).sqe 48 4) 0 = false) ∧
    (4 ≤ full.aborts.length ∧ (∀ z ∈ (t h (capsule 8 [] [])).works, z.2.ctrl ≠ 5) ∧ 4 ≤ full.aers.length ∧ ctl0.aers.length < 4 ∧ ctl0.events = 0 ∧
      (t (admin qpAdmin [(5, full)]) (capsule 8 [] [])).ctl 5 = some full) ∧
    (let x := (t h log).capsuleWork false log q1 0x300000;
      isAnaLog log.sqe = true ∧ x.keys = [(5, 0x1000, 40)] ∧ (sqeAt log.sqe 42 2 + 2 ^ 16 * sqeAt log.sqe 44 2 + 1) * 4 ≤ 40 ∧
        servedAdmin (capsule 6 [] []).sqe = false ∧ (t h (capsule 6 [] [])).freeHold = some 0) := by
  decide +kernel

/-- A page cut and filled to a length has it. -/
theorem wit_log_page (p : List Byte) (n : Nat) : (p.take n ++ List.replicate (n - (p.take n).length) 0).length = n := by
  simp only [List.length_append, List.length_take, List.length_replicate]; omega

/-- Connect: twice, with a bad format, to no subsystem, to an admin queue with a controller free, to an I/O queue of a controller ready
and of one not ready. -/
theorem wit_connect :
    let data (cid : Nat) : List Byte := List.replicate 16 0 ++ toBytes 2 cid ++ List.replicate 6 0
    let c (qid size kato cid : Nat) := fabrics 1 [(42, 2, qid), (44, 2, size), (48, 4, kato)] (data cid)
    let q : Qp := { qpAdmin with linked := false, ctrl := none }
    let io : Qp := { q with admin := false }
    let ok (h : Head) (c : Capsule) (q : Qp) : Bool := decide ((h.receiveSend c).1.map (·.1) = some q) && decide (h.worksOf 3 = []) && ! h.plt.inReset
    let a := c 0 31 1 0xFFFF
    let b := c 128 1023 0 5
    let h := admin q []
    let busy := admin io [(5, ctl0)]
    (decide (sqeOpc a.sqe = 0x7F) && decide (sqeAt a.sqe 4 1 = 1)) = true ∧ ok h a { q with expPsn := 1 } = true ∧
      ok (admin qpAdmin [(5, ctl0)]) a { qpAdmin with expPsn := 1 } = true ∧ qpAdmin.linked = true ∧ q.linked = false ∧
      sqeAt a.sqe 40 2 = 0 ∧ sqeAt (fabrics 1 [(40, 2, 1)] []).sqe 40 2 ≠ 0 ∧
      (h.receiveSend a).2.freeCtl = some 0 ∧ sqeAt a.sqe 42 2 = 0 ∧ leAt a.data 16 2 = 0xFFFF ∧ sqeAt a.sqe 44 2 = 31 ∧ sqeAt a.sqe 48 4 = 1 ∧
      ok { busy with fe := { busy.fe with qps := [(3, { io with rx := [0x300000] })] } } b { io with expPsn := 1 } = true ∧ 
      leAt b.data 16 2 = 5 ∧ sqeAt b.sqe 42 2 = 128 ∧ sqeAt b.sqe 44 2 = 1023 ∧ busy.ctl 5 = some ctl0 ∧ busy.rd (FE_C_STS_SUBSYS.nth 5) = 0 ∧
      busy.rd (FE_C_STS_NIOQ.nth 5) < 128 ∧ (busy.ioQps 5) = [] ∧ busy.is (FE_C_STS_RDY.nth 5) = false ∧
      (busy.wr (FE_C_STS_RDY.nth 5) 1).is (FE_C_STS_RDY.nth 5) = true ∧ (h.receiveSend b).2.ctl 5 = none := by
  decide +kernel
/-- A head whose controllers all are taken. -/
theorem wit_no_controller (h : Head) (f : ∀ n < 4096, (h.ctl n).isNone = false) : h.freeCtl = none := by
  rw [Head.freeCtl, List.find?_eq_none]; intro n hn; simp [f n (List.mem_range.mp hn)]

/-- Held answers: an entry not in order, DATA that fits its descriptor, RESPONSE in order and one whose turn has not come. -/
theorem wit_held :
    let body (kind : Nat) : Rec64 := BitVec.ofNat 512 (recOf [(0, 1, kind), (2, 2, 9), (12, 4, 8), (16, 8, 0x200000000)])
    let e (kind : Nat) : QEntry := { count := 1, ok := true, body := body kind, cpl := none }
    let x : Work := { work0 with from_ := .host 3 7, state := .held 9, keys := [(5, 0x1000, 8)] }
    let h (e : QEntry) : Head :=
      let g := admin qpAdmin [(5, ctl0)]
      { g with works := [(4, x)], fe := { g.fe with holds := [(9, 4)] }, queues := [(3, { posted := 1, done := 0, waiting := [e] })] }
    (live.queue 3).waiting = [] ∧ (h (e 3)).heldFor 3 (e 3) = none ∧
      (∀ kind ∈ [1, 2], ((h (e kind)).queue 3).waiting = [e kind] ∧ (h (e kind)).heldFor 3 (e kind) = some 4 ∧ (h (e kind)).work 4 = some x ∧
        (h (e kind)).qp 3 = some qpAdmin ∧ recAt (e kind).body.toNat 0 1 = kind ∧
        recAt (e kind).body.toNat 8 4 + recAt (e kind).body.toNat 12 4 ≤ 8) ∧
      x.keys = [(5, 0x1000, 8)] ∧ x.discard = false ∧ ((h (e 2)).queue 3).done + 1 < 2 ∧
      (e 2).count ≤ ((h (e 2)).queue 3).done + 1 ∧ (h (e 2)).withholds 3 = false ∧
      (let b := (((h (e 2)).wr SD_PAIR_STS_ROLE rBidding).setQp 3 { qpAdmin with admin := false })
       b.withholds 3 = true ∧ (b.queue 3).waiting = [e 2] ∧ b.heldFor 3 (e 2) = some 4) := by
  decide +kernel

/-- ANA groups legal and not, with the head fenced and not; a controller due and not, ending and killed; SPLIT in OFF and not. -/
theorem wit_front_writes :
    let at_ := Access.mk (.core 1) .v 8
    let fs := fieldsAt (.core 1) (FE_P_CTL_SPLIT.nth 1).addr
    let r (h : Head) (v : Nat) : RegWrite := {
      origin := .core 1, level := h.accessLevel at_ (FE_P_CTL_SPLIT.nth 1).addr, index := indexAt fs (FE_P_CTL_SPLIT.nth 1).addr, value := v, fields := fs }
    let legal (v : Nat) : Bool := (List.range 16).all (fun j => [1, 2, 3, 4, 15].contains (bitsAt v (4 * j) 4))
    let h := admin qpAdmin [(5, ctl0)]
    let late : Head := { h with mer := { h.mer with sinceReset := 1000 * 25000 } }
    Accepted live at_ (FE_ANA_GRP.nth 2).addr ∧ (live.accessLevel at_ (FE_ANA_GRP.nth 2).addr).reaches .s = true ∧ legal 0xF432111111111111 = true ∧
      legal 0 = false ∧ live.is FE_STS_FENCED = false ∧ (live.wr FE_STS_FENCED 1).is FE_STS_FENCED = true ∧ live.ctl 5 = none ∧
      h.ctl 5 = some ctl0 ∧ ctl0.ending = false ∧ h.mer.sinceReset < ctl0.since + ctl0.kato * 25000 ∧
      ctl0.since + ctl0.kato * 25000 ≤ late.mer.sinceReset ∧ Accepted h at_ (FE_C_CTL_KILL.nth 5).addr ∧ bitAt 2 1 = true ∧ bitAt 0 1 = false ∧
      bitAt 0 0 = h.unitEn (.controller 5) ∧ Accepted live at_ (FE_P_CTL_SPLIT.nth 1).addr ∧
      live.writeOk (r live 0x324000030) [FE_P_CTL_SPLIT, FE_P_CTL_SUBEN, FE_P_CTL_EN] = true ∧ bitAt 0x324000030 0 = live.unitEn (.frontPort 1) ∧
      live.unitState (.frontPort 1) = uOff ∧ bitsAt 0x324000034 1 2 < 3 ∧ ports.unitState (.frontPort 1) ≠ uOff ∧ bitsAt 0x324000030 1 2 ≠ ports.split 1 ∧
      bitAt 0x324000030 0 = ports.unitEn (.frontPort 1) ∧ ports.writeOk (r ports 0x324000030) [FE_P_CTL_SPLIT, FE_P_CTL_SUBEN, FE_P_CTL_EN] = true ∧
      Accepted ports at_ (FE_P_CTL_SPLIT.nth 1).addr := by
  unfold Accepted; decide +kernel


/-! ### Memory, Veil and Umbra -/

/-- The cases of GO, a window armed, raw test operations, the fill, refresh slots, windows and scrub steps. -/
theorem wit_dram :
    let at_ := Access.mk (.core 1) .v 8
    let d := dram live
    let rng := d.wr UMB_STS_RNGOK 1
    let bad : Head := { rng with umb := { rng.umb with slots := [(rng.rd (UMB_DEVMAP_SLOT.el 0 0 1), .failed)] } }
    let run := d.wrList [(MEM_STS_RUN, 1), (MEM_STS_FILLDONE, 0)]
    let filled := run.wrList [(MEM_STS_FILLDONE, 1), (MEM_SCRPOS_NEXT, dramBase / 64), (MER_BUDA_SCRUB, 5)]
    let last := filled.wr MEM_SCRPOS_NEXT ((dramBase + d.installed) / 64 - 1)
    let n (h : Head) := min (1 : BitVec 16).toNat (h.budgetLeft 3 0)
    let first (h : Head) := (h.rd MEM_SCRPOS_NEXT * 64 - dramBase) / 64
    let count (h : Head) := min (n h * 16 * h.rd MEM_CFG_CHANS) (h.installed / 64)
    (∀ a ∈ [MEM_CTL_GO.addr, MEM_TEST_EN.addr], Accepted d at_ a) ∧ Accepted live at_ MEM_CTL_GO.addr ∧
    (bitAt 0 4 = false ∧ bitAt 0 3 = false ∧ bitsAt 0 0 3 ≤ 4 ∧ 4 < bitsAt 5 0 3 ∧ rng.rd MEM_CFG_CHANS ≠ 0 ∧ rng.roleFailed 1 = false ∧
      rng.roleFailed 2 = false ∧ rng.is UMB_STS_RNGOK = true ∧ bad.roleFailed 1 = true ∧ (d.wr UMB_STS_RNGOK 0).is UMB_STS_RNGOK = false ∧
      d.is MEM_STS_FCHGBUSY = false ∧ d.rateOk 0 = true ∧ (d.wr MEM_CFG_DPC 2).rateOk 2 = false) ∧
    (d.testLine = none ∧ (d.wr MEM_TADDR_LINE (dramBase / 64)).testLine = some 0) ∧
    (d.is MEM_STS_RUN = false ∧ run.is MEM_STS_RUN = true ∧ run.is MEM_STS_FILLDONE = false ∧ 0 < run.rd MEM_CFG_CHANS ∧
      run.mer.tick % 97 = 8 * 0 ∧ run.is MEM_STS_FCHGBUSY = false ∧ (run.wr MEM_STS_FCHGBUSY 1).is MEM_STS_FCHGBUSY = true ∧
      (run.wr MEM_PPR_GO 1).is MEM_PPR_GO = true ∧ run.is MEM_PPR_GO = false ∧ ¬ 1 < run.rd MEM_CFG_CHANS) ∧
    (∀ h ∈ [filled, last], h.is MEM_STS_FILLDONE = true ∧ n h = 1 ∧ h.memc.lines = [] ∧ h.installed ≤ 2 ^ 47 ∧ first h < h.installed / 64) ∧
    first filled + count filled < filled.installed / 64 ∧ last.installed / 64 ≤ first last + count last ∧ first filled ≤ 15 ∧
    15 < first filled + count filled ∧ n (filled.wr MER_BUDA_SCRUB 0) = 0 := by
  unfold Accepted; decide +kernel

/-- Entry 3 of cache 2: a page that is dirty, and one being filled. -/
def pageEntry : VeilEntry :=
  { VeilEntry.none with page := 0x200000000, valid := 1, dirty := 1, under := [(0, List.replicate 64 7)] }
def caching (y : VeilEntry) : Head :=
  { (live.wr VEIL_OPADDR_PAGE (0x200000000 / 4096)) with veilEntries := [(veilKey 2 3, y)] }

/-- A fill that ends and none, an operation refused because one runs, for a cache or an index out of range, by index, by page, and by
a page that no entry holds; at level V and at level S. -/
theorem wit_veil :
    let v (index byIndex cache : Nat) : Nat := index * 2 ^ 10 + cache * 2 ^ 4 + byIndex * 4
    let h := caching pageEntry
    (h.veil 2 3 = pageEntry ∧ h.plt.inReset = false ∧ pageEntry.filling = false ∧
      ((caching { pageEntry with filling := true }).veil 2 3).filling = true) ∧
    Accepted h ⟨.core 1, .v, 8⟩ VEIL_OP_OP.addr ∧ h.accessLevel ⟨.core 1, .v, 8⟩ VEIL_OP_OP.addr = .v ∧
    Accepted h ⟨.core 1, .s, 8⟩ VEIL_OP_OP.addr ∧ h.accessLevel ⟨.core 1, .s, 8⟩ VEIL_OP_OP.addr ≠ .v ∧
    ((h.wr VEIL_OP_BUSY 1).is VEIL_OP_BUSY = true ∧ 28 ≤ bitsAt (v 0 0 28) 4 5 ∧ 48 ≤ bitsAt (v 48 1 2) 10 6) ∧
    (h.is VEIL_OP_BUSY = false ∧ bitAt (v 3 1 2) 3 = false ∧ bitsAt (v 3 1 2) 4 5 = 2 ∧ bitAt (v 3 1 2) 2 = true ∧ bitsAt (v 3 1 2) 10 6 = 3) ∧
    (bitAt (v 0 0 2) 2 = false ∧ h.veilHit 2 (h.rd VEIL_OPADDR_PAGE * 4096) = some 3 ∧ live.veilHit 2 (live.rd VEIL_OPADDR_PAGE * 4096) = none) := by
  unfold Accepted; decide +kernel


/-- An owned part with a challenge, UMB_ADDR at 0x200000000, and slots 300, which holds a key, and 301, which has failed. -/
def owned : Head :=
  let h := live.wrList [(UMB_ADDR_ADDR, 0x200000000 / 8), (UMB_STS_UNLOCKED, 1)]
  let r : KeyRec := { key := [], salt := [], kind := 1, use := 1, keyid := 9 }
  let k : KeyRec := { r with kind := 5 }
  { h with umb := { h.umb with nonce := some [], slots := [(300, .loaded r), (301, .failed), (h.roleSlot 0, .loaded k)], staged := some (302, r), answer := some 0 },
           plt := { h.plt with fuses := { h.plt.fuses with ownHash := some [] } } }

/-- The statuses of UMB_CMD. A signature, an unwrapped key or an agreed secret is what a function without a body says, so each is any
value here: with it in order every other condition of the operation holds in this state, and the status is OK. -/
theorem wit_umb_statuses (good : Bool) (keyed : Option KeyRec) :
    let at_ := Access.mk (.core 1) .v 8
    let o := at_.origin
    let pool := owned.roleSlot 0
    Accepted owned at_ UMB_CMD_OP.addr ∧ owned.accessLevel at_ UMB_CMD_OP.addr = .v ∧ owned.is UMB_CMDSTS_BUSY = false ∧
    (owned.wr UMB_CMDSTS_BUSY 1).is UMB_CMDSTS_BUSY = true ∧ owned.is UMB_STS_RNGOK = true ∧
    firstStatus [(! owned.umbAddrOk o .v 200 false || leAt (owned.bytes 0x200000000 200) 97 7 ≠ 0, 1), (owned.plt.fuses.retired, 9),
      (! owned.plt.fuses.ownHash.isSome, 10), (decide (8 ≤ owned.rd UMB_STS_CREDFAILS), 4), (owned.umb.nonce.isNone, 2), (! good, 3)] =
        (if good then 0 else 3) ∧
    firstStatus [(! owned.umbAddrOk o .v 280 true || leAt (owned.bytes 0x200000000 192) 97 7 ≠ 0, 1), (owned.plt.fuses.retired, 9),
      (! owned.plt.fuses.ownHash.isSome, 10), (! owned.is UMB_STS_UNLOCKED, 4), (owned.umb.nonce.isNone, 2), (keyed.isNone, 5),
      (owned.slotFailed pool, 7)] = (if keyed.isSome then 0 else 5) ∧
    firstStatus [(! owned.umbAddrOk o .v 88 false, 1), (owned.plt.fuses.retired, 9), (owned.umb.latch, 4), (keyed.isNone, 5),
      (owned.slotFailed pool, 7)] = (if keyed.isSome then 0 else 5) ∧
    firstStatus [(! owned.umbAddrOk o .v 88 false, 1), (owned.plt.fuses.retired, 9), ((owned.roleKey 0).isNone, 8), (keyed.isNone, 5),
      (owned.slotFailed 302, 7), ((owned.slotKey 302).isSome, 6)] = (if keyed.isSome then 0 else 5) ∧
    firstStatus [(! owned.umbAddrOk o .v 7680 false, 1), (owned.plt.fuses.retired, 9), (! owned.plt.fuses.ownHash.isSome, 10),
      (owned.umb.nonce.isNone, 2), (! good, 3)] = (if good then 0 else 3) ∧
    firstStatus [(! owned.umbAddrOk o .v 113 true, 1)] = 0 ∧ firstStatus [(! owned.umbAddrOk o .v 97 false, 1), (live.plt.fuses.retired, 9),
      (live.plt.fuses.ownHash.isSome, 10)] = 0 ∧ live.umbAddrOk o .v 97 false = false ∧
    owned.slotFailed 301 = true ∧ owned.slotFailed 300 = false ∧ (owned.slotKey 300).isSome = true ∧
    live.umb.answer = none ∧ owned.umb.answer = some 0 ∧ owned.umb.staged.isSome = true ∧ live.umb.staged = none := by
  unfold Accepted; revert good; cases keyed <;> simp only [Option.isNone_none, Option.isSome_none, Option.isNone_some, Option.isSome_some] <;> decide +kernel

/-- UMB_DEVMAP: role 3 where it is, to a sound spare, below the spares and to a slot that another role has; a digest unit idle, busy
and run; its bytes below DRAM. -/
theorem wit_roles :
    let at_ := Access.mk (.core 1) .v 8
    let same := (List.range 8).foldl (fun n q => n + live.roleSlot q * 2 ^ (8 * q)) 0
    let other (slot : Nat) := same - live.roleSlot 3 * 2 ^ 24 + slot * 2 ^ 24
    let named (v q : Nat) : Nat := if q / 8 = 0 then bitsAt v (8 * (q % 8)) 8 else live.roleSlot q
    let busy := live.wr (UMB_DG_CTL_BUSY.nth 2) 1
    Accepted live at_ (UMB_DEVMAP_SLOT.nth 0).addr ∧ (∀ v ∈ [same, other 255, other 239, other (live.roleSlot 4)], ∀ q < 16, q ≠ 3 → named v q = live.roleSlot q) ∧
      named same 3 = live.roleSlot 3 ∧ named (other 255) 3 ≠ live.roleSlot 3 ∧ 240 ≤ named (other 255) 3 ∧ live.slotFailed 255 = false ∧
      (∀ q < 16, q ≠ 3 → named (other 255) q ≠ 255) ∧ named (other 239) 3 < 240 ∧ named (other (live.roleSlot 4)) 3 = live.roleSlot 4 ∧
      Accepted live at_ (UMB_DG_CTL_ALG.nth 2).addr ∧ (live.is (UMB_DG_CTL_BUSY.nth 2) = false ∧ live.is MEM_STS_FILLDONE = false ∧ (live.wr (UMB_DG_ADDR_ADDR.nth 2) dramBase).rd (UMB_DG_ADDR_ADDR.nth 2) = dramBase ∧
        live.inDram dramBase (live.rd (UMB_DG_LEN_LEN.nth 2)) = true) ∧
      (inBillow billowBase 8 = true ∧ live.inMemory afterglowBase 64 = false ∧ live.inMemory 0 64 = false ∧ 64 ≤ romSize ∧
        live.dgReadable romSize 64 = false) ∧
      Accepted busy at_ (UMB_DG_CTL_ALG.nth 2).addr ∧ busy.is (UMB_DG_CTL_BUSY.nth 2) = true ∧ Tbl.find live.umb.digests 2 = none ∧
      (∃ h : Head, Tbl.find h.umb.digests 2 = some { result := [1], err := false } ∧ h.plt.inReset = false) := by
  refine ⟨by unfold Accepted; decide +kernel, by decide +kernel, by decide +kernel, by decide +kernel, by decide +kernel, by decide +kernel,
    by decide +kernel, by decide +kernel, by decide +kernel, by unfold Accepted; decide +kernel, by decide +kernel, by decide +kernel,
    by unfold Accepted; decide +kernel, by decide +kernel, by decide +kernel,
    ⟨{ live with umb := { live.umb with digests := [(2, { result := [1], err := false })] } }, by decide +kernel⟩⟩


/-! ### The platform -/

/-- The cases of resets: nothing due, a watchdog and a window due, GO with a dump of a head that has nothing to dump; a release of a
head that started, one that an alarm holds and one that is free, its role keys on sound slots of their own. -/
theorem wit_resets :
    let dog := live.wrList [(PLT_WDOG_EN, 1), (PLT_WDOG_PERIOD, 0)]
    let trial := live.wr DAY_STS_TRIAL 1
    let open_ : Head := { trial with plt := { trial.plt with windowOpen := true } }
    let off : Head := { live with plt := { live.plt with started := false } }
    let holding : Head := { off with umb := { off.umb with holding := true } }
    live.plt.inReset = false ∧ live.plt.stopped = false ∧ live.fb.dirty = false ∧ live.is PLT_WDOG_EN = false ∧
      (dog.is PLT_WDOG_EN = true ∧ dog.plt.wdogStart + dog.rd PLT_WDOG_PERIOD * 25000 ≤ dog.mer.sinceReset ∧ dog.plt.stopped = false ∧ dog.fb.dirty = false) ∧
      (live.is DAY_STS_TRIAL = false ∧ open_.is DAY_STS_TRIAL = true ∧ open_.plt.windowOpen = true ∧ open_.rd DAY_WINLEFT_EPOCHS = 0) ∧
      Accepted live ⟨.core 1, .v, 8⟩ PLT_RST_GO.addr ∧ bitAt 0 0 = false ∧ bitAt 3 0 = true ∧ bitAt 1 1 = false ∧
      (off.umb.holding = false ∧ off.plt.started = false ∧ ({ off with plt := { off.plt with started := true } } : Head).plt.started = true ∧ holding.umb.holding = true) ∧
      (off.retiredLog = [] ∧ off.slotFailed (off.roleSlot 6) = false ∧ off.roleSlot 2 ≠ off.roleSlot 6) := by
  unfold Accepted; decide +kernel

/-- A head with a boot-flash operation under way, its operands in erased flash and in Billow. -/
def flashing (op : Nat) (idx : Nat) : Head :=
  { live with plt := { live.plt with dayOp := some { op := op, dev := 1, idx := idx, fl := 0x10000, mem := 0x200000000, len := 64 } } }

/-- The cases of the registers of boot flash, watchdog and recorder: idle and busy, in a trial and not, in range and out of it. -/
theorem wit_platform_writes :
    let at_ := Access.mk (.core 1) .v 8
    let trial := live.wr DAY_STS_TRIAL 1
    let post (sev a : Nat) : Nat := sev + (a / 32) * 2 ^ 5
    (∀ a ∈ [DAY_CMD_OP.addr, DAY_CONFIRM_GO.addr, PLT_WDOG_KICK.addr, AG_POST_POST.addr, OBS_CTL_REPLAY.addr], Accepted live at_ a) ∧
      live.is DAY_CMD_BUSY = false ∧ (live.wr DAY_CMD_BUSY 1).is DAY_CMD_BUSY = true ∧ live.is DAY_STS_TRIAL = false ∧ trial.is DAY_STS_TRIAL = true ∧
      (trial.plt.bootSource = .billow → trial.is DAY_CTL_BURN = false) ∧ bitsAt (100 + 2 ^ 17) 0 16 = 100 ∧ bitAt (100 + 2 ^ 17) 17 = true ∧
      bitsAt 60000 0 16 ≤ 60000 ∧ bitsAt 99 0 16 < 100 ∧ bitsAt (post 3 0x200000000) 2 3 = 0 ∧
      live.inMemory (bitsAt (post 3 0x200000000) 5 43 * 32) 32 = true ∧ live.accessLevel at_ AG_POST_POST.addr = .v ∧ bitsAt 4 2 3 ≠ 0 ∧
      bitsAt (24 * 2 ^ 16 + 512) 16 5 ≤ 24 ∧ bitAt (24 * 2 ^ 16 + 512) 9 = true ∧ live.is OBS_STS_REPLAYING = false := by
  unfold Accepted; decide +kernel

/-- The cases of the platform's events: tokens due and not, heat above, between and below, each operation of the boot flash with its
range in order and not, a device that fails, a slot verified and not, no good device, a hash absent, present and misplaced. -/
theorem wit_platform_events :
    let hot := live.wr PLT_THERM_ACTIVE 1
    let late : Head := { live with mer := { live.mer with sinceReset := 25000000 } }
    let h := flashing 1 0
    let op (n : Nat) : DayOp := { op := n, dev := 1, idx := 0, fl := 0x10000, mem := 0x200000000, len := 64 }
    let ready := ((flashing 4 0).wr DAY_STS_VERIFIEDA 1).wr DAY_STS_VERIFIEDB 1
    let none_ : Head := (flashing 5 0).wr DAY_STS_FLDEVOK 0
    let keyed : Head := { flashing 7 0 with plt := { (flashing 7 0).plt with fuses := { live.plt.fuses with oemHash := [(0, [])] } } }
    live.mer.sinceReset < live.plt.tokenTicks + 25000000 ∧ late.plt.tokenTicks + 25000000 ≤ late.mer.sinceReset ∧
      (live.is PLT_THERM_ACTIVE = false ∧ hot.is PLT_THERM_ACTIVE = true ∧ 8 * (live.rd PLT_THERM_THROTTLE : Int) < (2047#12).toInt ∧ ¬ 8 * (live.rd PLT_THERM_THROTTLE : Int) < (0#12).toInt ∧
        (0#12).toInt < 8 * ((hot.rd PLT_THERM_THROTTLE : Int) - (hot.rd PLT_THERM_HYST : Int))) ∧
      live.plt.dayOp = none ∧ (∀ n ∈ [1, 2, 3, 4, 5, 6, 7], (flashing n 0).plt.dayOp = some (op n)) ∧ h.dayRangeOk (op 1) = true ∧
      h.dayRangeOk { op 1 with mem := 0 } = false ∧ (flashing 3 0).dayRangeOk { op 3 with len := 65536 } = true ∧
      (∀ i < 64, Tbl.get (255 : Byte) ((flashing 2 0).flashTbl 1) (0x10000 + i) = 255) ∧
      ready.is DAY_STS_TRIAL = false ∧ ready.verified (1 - ready.rd DAY_STS_SLOT) = true ∧ (flashing 4 0).verified (1 - live.rd DAY_STS_SLOT) = false ∧
      [0, 1].filter none_.flashOk = [] ∧ h.inMemory 0x200000000 48 = true ∧ h.inMemory 0 48 = false ∧
      Tbl.find (flashing 6 0).plt.fuses.oemHash 0 = none ∧ (Tbl.find keyed.plt.fuses.oemHash 0).isSome = true := by
  decide +kernel


/-! ### Ill-formed commands, one for each check -/

theorem test_wf_accesses : (⟨.core 1, .s, 3⟩ : Access).wf = false ∧ (⟨.core 1, .c, 8⟩ : Access).wf = false ∧
    (⟨.engine 0 1 0, .s, 8⟩ : Access).wf = false ∧ (⟨.service, .v, 8⟩ : Access).wf = false ∧ (⟨.core 1, .v, 8⟩ : Access).wf = true := by decide

/-- Every command that is an access is well formed exactly where its access is. -/
theorem test_wf_access_rows (a : Access) (addr : BitVec 48) (v : Word) (u : UnitId) (b : Bool) (w : Fin 32) (k : Fin 16)
    (c : Fin 4096) (p : Fin 8) (n : BitVec 10) (g f : Fin 4) (j : Fin 2) (sl : BitVec 16) (alg : BitVec 3) (d : BitVec 2) :
    [Instr.registerWrite a addr v, .rcFieldRead a addr, .unitEnWrite a u v, .merSeedWrite a v, .merEplenNextWrite a v, .merEplenAtWrite a v,
        .merBudgetWrite a b v, .merEpochRead a, .cmtJbaseWrite a v, .cmtJsizeWrite a v, .cmtAppliedRead a, .coreDbellWrite a v,
        .coreReleaseWrite a v, .accQwArmWrite a w v, .parModFailWrite a w v, .parModAcceptWrite a w v, .parDumpForceWrite a v,
        .feAnaWrite a k v, .feKillWrite a c v, .feSplitWrite a p v, .connectionOpen a n, .connectionReset a n, .sdMrregWrite a v,
        .sdMrrevWrite a v, .sdPairClaimWrite a v, .sdPairLeaveWrite a v, .sdSyncWrite a v, .sdSyncgrpWrite a g v, .memGoWrite a v,
        .memFchgWrite a v, .memTestRawRead a b, .memTestRawWrite a b, .memTestCheckWrite a b, .veilClean a v, .veilInvalidate a v,
        .veilCleanInvalidate a v, .nonce a, .unlock a, .importAkek a, .loadAkek a, .unwrap a sl, .zero a sl, .dikpub a, .own a, .testentry a,
        .umbDevmapWrite a j v, .umbDgGo a f alg, .pltRstWrite a v, .dayCmdRead a d, .dayCmdProgram a d, .dayCmdErase a d, .dayCmdActivate a,
        .dayCmdVerify a d, .dayCmdFusekey a d, .dayCmdRevoke a d, .dayConfirmWrite a v, .pltWdogKick a v, .agPostWrite a v,
        .obsReplayWrite a v].map Instr.wf = List.replicate 59 a.wf := rfl

/-- Each operand of a message or an event that its field cannot hold. -/
theorem test_wf_messages :
    let e := 2 ^ 63
    ∀ i ∈ [Instr.servicePortRequest (.read 0 0), .servicePortRequest (.write 0 []), .todMessage (List.replicate 65 0) false,
        .sealReceive e 0 0 0 0 0 0, .sealReceive 0 (2 ^ 32) 0 0 0 0 0, .sealReceive 0 0 (2 ^ 32) 0 0 0 0, .sealReceive 0 0 0 0 (2 ^ 16) 0 0,
        .sealReceive 0 0 0 0 0 e 0, .sealAckSend e, .sealAckReceive e, .sealNakReceive e, .commitNoteReceive e, .rerunReceive e true,
        .stripeDoneReceive (2 ^ 32) 0, .stripeDoneReceive 0 e, .bandNoteReceive (2 ^ 24) 0 0 0 0, .bandNoteReceive 0 (2 ^ 32) 0 0 0,
        .bandNoteReceive 0 0 0 32 0, .bandNoteReceive 0 0 0 0 e, .bandGiveReceive (List.replicate 7 0), .bandGiveReceive [2 ^ 24], .floorReceive e,
        .modNoteReceive 32 0 0 0 0 0, .modNoteReceive 0 8 0 0 0 0, .modNoteReceive 0 0 256 0 0 0, .modNoteReceive 0 0 0 0 0 e,
        .holeNoteReceive (2 ^ 24) 0 0, .holeNoteReceive 0 0 e, .lostNoteReceive (2 ^ 32) 0 0, .lostNoteReceive 0 0 e,
        .scrubStep 0 [(2 ^ 42, .uncorrectable)], .joinAtReceive e true, .formedReceive e, .clockReceive e 0 0 0 0 0, .clockReceive 0 (2 ^ 64) 0 0 0 0,
        .clockReceive 0 0 0 (2 ^ 11) 0 0, .clockReceive 0 0 0 0 (2 ^ 11) 0, .clockReceive 0 0 0 0 0 e, .joinOfferReceive e 0 0,
        .joinOfferReceive 0 (2 ^ 64) 0, .joinOfferReceive 0 0 e, .joinCopy (2 ^ 48) [] [], .joinCopy 0 [] [(2 ^ 48, [])], .joinReadyReceive e 0,
        .leaveReceive e], i.wf = false := by
  decide +kernel
theorem test_wf_messages_of_many_fields :
    let e := 2 ^ 63
    ∀ i ∈ [Instr.descriptorReceive e 0 0 0 0 0 0 0, .descriptorReceive 0 (2 ^ 32) 0 0 0 0 0 0, .descriptorReceive 0 0 (2 ^ 32) 0 0 0 0 0,
        .descriptorReceive 0 0 0 (2 ^ 16) 0 0 0 0, .descriptorReceive 0 0 0 0 (2 ^ 16) 0 0 0, .descriptorReceive 0 0 0 0 0 256 0 0,
        .descriptorReceive 0 0 0 0 0 0 256 0, .descriptorReceive 0 0 0 0 0 0 0 (2 ^ 32), .twinEventReceive (2 ^ 16) 0 0 0 0 0 0,
        .twinEventReceive 0 256 0 0 0 0 0, .twinEventReceive 0 0 (2 ^ 32) 0 0 0 0, .twinEventReceive 0 0 0 e 0 0 0,
        .twinEventReceive 0 0 0 0 (2 ^ 64) 0 0, .twinEventReceive 0 0 0 0 0 (2 ^ 64) 0, .twinEventReceive 0 0 0 0 0 0 (2 ^ 64),
        .helloReceive 2 0 0 0 0 0 0 0 0 0, .helloReceive 0 8 0 0 0 0 0 0 0 0, .helloReceive 0 0 64 0 0 0 0 0 0 0, .helloReceive 0 0 0 32 0 0 0 0 0 0,
        .helloReceive 0 0 0 0 (2 ^ 16) 0 0 0 0 0, .helloReceive 0 0 0 0 0 (2 ^ 16) 0 0 0 0, .helloReceive 0 0 0 0 0 0 0 e 0 0,
        .helloReceive 0 0 0 0 0 0 0 0 e 0], i.wf = false := by
  decide +kernel
/-- A page that is too long. -/
theorem test_wf_program (m : Fin 32) (port : Bool) (op : ModOp) (r : Rec64) (data : List Byte) (long : 262144 < data.length) :
    (Instr.programPage m port op data r).wf = false := by
  simp [Instr.wf, long]


/-! ### Single steps, with results worked out by hand from spec/ (the rule stands before each) -/

/-- A control core at S with g1 = 0x8000000000000001, g2 = 65, g3 = -1, g4 = -7, g6 the most negative number, g7 = 2. -/
def ints : Head := live.setCtx 3 (regs (body .s) [(1, 0x8000000000000001), (2, 65), (3, -1), (4, -7), (6, 0x8000000000000000), (7, 2)])
def core3 : Ctx := .core 3

/-- R121: wrap, shift amounts modulo 64, signed against unsigned. -/
theorem test_integers : ∀ p ∈ [(Instr.add core3 5 1 3, (0x8000000000000000 : Word)), (.sub core3 5 0 3, 1), (.and core3 5 1 2, 1),
    (.or core3 5 1 2, 0x8000000000000041), (.xor core3 5 1 3, 0x7FFFFFFFFFFFFFFE), (.andn core3 5 3 1, 0x7FFFFFFFFFFFFFFE),
    (.andn core3 5 1 3, 0), (.sll core3 5 1 2, 2), (.srl core3 5 1 2, 0x4000000000000000), (.sra core3 5 1 2, 0xC000000000000000),
    (.ror core3 5 1 2, 0xC000000000000000), (.slt core3 5 1 2, 1), (.sltu core3 5 1 2, 0), (.min core3 5 1 2, 0x8000000000000001),
    (.max core3 5 1 2, 65), (.minu core3 5 1 2, 65), (.maxu core3 5 1 2, 0x8000000000000001), (.clz core3 5 2, 57), (.clz core3 5 0, 64),
    (.ctz core3 5 6, 63), (.ctz core3 5 0, 64), (.popc core3 5 3, 64), (.bswap core3 5 1, 0x0100000000000080)],
    ((after p.1 ints).ctx 3).gr 5 = p.2 := by decide +kernel
/-- R122, with the boundary cases of division. -/
theorem test_products : ∀ p ∈ [(Instr.mul core3 5 1 1, (1 : Word)), (.mulh core3 5 1 1, 0x3FFFFFFFFFFFFFFF), (.mulhu core3 5 1 1, 0x4000000000000001),
    (.div core3 5 4 7, -3), (.rem core3 5 4 7, -1), (.divu core3 5 4 7, 0x7FFFFFFFFFFFFFFC), (.remu core3 5 4 7, 1), (.div core3 5 2 0, -1),
    (.divu core3 5 2 0, -1), (.rem core3 5 2 0, 65), (.remu core3 5 2 0, 65), (.div core3 5 6 3, 0x8000000000000000), (.rem core3 5 6 3, 0)],
    ((after p.1 ints).ctx 3).gr 5 = p.2 := by decide +kernel
/-- R123. -/
theorem test_immediates : ∀ p ∈ [(Instr.addi core3 5 2 0xFFFF, (64 : Word)), (.andi core3 5 3 0x8000, 0x8000), (.ori core3 5 2 0x8000, 0x8041),
    (.xori core3 5 3 0xFFFF, 0xFFFFFFFFFFFF0000), (.slti core3 5 2 0xFFFF, 0), (.sltiu core3 5 2 0xFFFF, 1), (.slli core3 5 2 63, 0x8000000000000000),
    (.srli core3 5 3 60, 15), (.srai core3 5 6 63, -1), (.rori core3 5 2 1, 0x8000000000000020), (.lui core3 5 0x8000, 0xFFFFFFFF80000000),
    (.lsi core3 5 2 0xFFFF, 0x41FFFF), (.pcadd core3 5 0xFFFF, 0xFFFFFFC)],
    ((after p.1 ints).ctx 3).gr 5 = p.2 := by decide +kernel
/-- Register 0 stays zero, and the PC goes on by 4 (R88). -/
theorem test_g0 : ((after (.add core3 0 1 2) ints).ctx 3).gr 0 = 0 ∧ ((after (.add core3 0 1 2) ints).ctx 3).pc = 0x10000004 := by decide +kernel

/-- A core at V with g1 the counter of the example of ch. 05 in DRAM, which holds 41, or eight bytes with the high bit set. -/
def counter (n : Nat) : Head :=
  ((dram live).setCtx 4 (regs (body .v) [(1, 0x100004002000), (2, 42), (10, 41)])).store 0x100004002000 8 n
/-- The loads' extensions. -/
theorem test_loads : ∀ p ∈ [(Instr.lb (.core 4) 5 1 0 .clean, (-120 : Word)), (.lbu (.core 4) 5 1 0 .clean, 136), (.lh (.core 4) 5 1 0 .clean, 0xFFFFFFFFFFFF8788),
    (.lhu (.core 4) 5 1 0 .clean, 0x8788), (.lw (.core 4) 5 1 0 .clean, 0xFFFFFFFF85868788), (.lwu (.core 4) 5 1 0 .clean, 0x85868788),
    (.ld (.core 4) 5 1 0 .clean, 0x8182838485868788), (.lbu (.core 4) 5 1 7 .clean, 0x81)],
    ((after p.1 (counter 0x8182838485868788)).ctx 4).gr 5 = p.2 := by decide +kernel
/-- The stores: the low bytes of g2, little end first, others as they were. -/
theorem test_stores : ∀ p ∈ [(Instr.sb (.core 4) 2 1 1 .clean, 0x2A00), (.sh (.core 4) 2 1 2 .clean, 0x2A0000), (.sw (.core 4) 2 1 4 .clean, 42 * 2 ^ 32),
    (.sd (.core 4) 2 1 0 .clean, 42), (.sd (.core 4) 2 1 0xFF8 .clean, 0)],
    (after p.1 (counter 0)).load 0x100004002000 8 = p.2 := by decide +kernel
/-- R96, R125: a misaligned load at V saves its address, its PC and ALIGN, and goes to VBASE_V + 64 × 3; g[rt] stays. -/
theorem test_misaligned :
    let t := after (.ld (.core 4) 5 1 4 .clean) (counter 7)
    t.rd (CORE_ECAUSE_V_CODE.ofCore 4) = 3 ∧ t.rd (CORE_EPC_V_PC.ofCore 4) = 0x10000000 ∧ t.rd (CORE_EADDR_V_ADDR.ofCore 4) = 0x100004002004 ∧
      (t.ctx 4).pc = 192 ∧ (t.ctx 4).exlv = true ∧ (t.ctx 4).gr 5 = 0 := by decide +kernel
/-- The example of ch. 05: core 4's CAS finds 41 and stores 42; the other core's CAS then fails and takes 42; and the exchanges. -/
theorem test_atomics :
    let t := after (.cas (.core 4) 10 1 2 .clean) (counter 41)
    let u := after (.cas (.core 4) 10 1 2 .clean) (counter 42)
    (t.load 0x100004002000 8 = 42 ∧ (t.ctx 4).gr 10 = 41) ∧ (u.load 0x100004002000 8 = 42 ∧ (u.ctx 4).gr 10 = 42) ∧
      (after (.amoadd (.core 4) 5 1 2 .clean) (counter 41)).load 0x100004002000 8 = 83 ∧
      ((after (.amoswap (.core 4) 5 1 2 .clean) (counter 41)).ctx 4).gr 5 = 41 := by decide +kernel

/-- HMOV; HQRY at S of a buffer of pool 4 with 4096 bytes and of the empty handle; R135: HQRY at C ends the recipe. -/
theorem test_handles :
    let h := posting 0 []
    let s := h.setCtx 3 { h.ctx 32 with level := .s }
    ((after (.hmov recipe 3 1) h).ctx 32).hr 3 = .buffer 0x400000 ∧ ((after (.hqry core3 5 1) s).ctx 3).gr 5 = 0x100011 ∧
      ((after (.hqry core3 5 0) s).ctx 3).gr 5 = 0 ∧ ((after (.hqry recipe 5 1) h).ctx 32).run ≠ .running := by decide +kernel
/-- A byte stored to a buffer at the last offset, and read back; one past it raises ACCESS on a stream engine. -/
theorem test_handle_bytes :
    let h := (posting 0 []).setCtx 32 (regs ((posting 0 []).ctx 32) [(4, 4095), (6, 0x1FF), (7, 4096)])
    let t := after (.hstb recipe 6 4 1 .clean) h
    ((after (.hldb recipe 5 4 1 .clean) t).ctx 32).gr 5 = 0xFF ∧ t.bytes (t.bufAddr 0x400000 + 4096) 1 = [0] ∧
      ((after (.hldb recipe 5 7 1 .clean) t).ctx 32).run ≠ .running := by decide +kernel

/-- R128: a branch's link and target, one not taken, JALR to where its own link register pointed. -/
theorem test_branches :
    let t := after (.br core3 31 0x1FFFFF) ints
    let j := after (.jalr core3 31 31 8) (ints.setCtx 3 (regs (ints.ctx 3) [(31, 0x10000100)]))
    ((t.ctx 3).pc = 0xFFFFFFC ∧ (t.ctx 3).gr 31 = 0x10000004) ∧ ((after (.bltz core3 2 4) ints).ctx 3).pc = 0x10000004 ∧
      ((after (.bgez core3 2 4) ints).ctx 3).pc = 0x10000010 ∧ ((after (.beqz core3 0 4) ints).ctx 3).pc = 0x10000010 ∧
      ((after (.bnez core3 0 4) ints).ctx 3).pc = 0x10000004 ∧ ((after (.blez core3 3 4) ints).ctx 3).pc = 0x10000010 ∧
      ((after (.bgtz core3 0 4) ints).ctx 3).pc = 0x10000004 ∧ ((j.ctx 3).pc = 0x10000108 ∧ (j.ctx 3).gr 31 = 0x10000004) := by decide +kernel
/-- R96: SYS from S goes to V with the PC of the next instruction saved and EST the old ST; BREAK stays at S with its own PC. -/
theorem test_sys_and_break :
    let t := after (.sys core3) (ints.wr (CORE_VBASE_V_BASE.ofCore 3) 1)
    let b := after (.break core3) ints
    ((t.ctx 3).level = .v ∧ (t.ctx 3).pc = 4096 + 448 ∧ t.rd (CORE_EPC_V_PC.ofCore 3) = 0x10000004 ∧ t.rd (CORE_ECAUSE_V_CODE.ofCore 3) = 7 ∧
      t.rd (CORE_EST_V_ST.ofCore 3) = 1) ∧ (b.rd (CORE_EPC_S_PC.ofCore 3) = 0x10000000 ∧ (b.ctx 3).pc = 512 ∧ (b.ctx 3).level = .s) := by
  decide +kernel
/-- R97: an exception for S in a handler of S halts the core, with a record of severity 3. -/
theorem test_halt :
    let t := after (.break core3) (ints.setCtx 3 { ints.ctx 3 with exls := true })
    (t.ctx 3).run = .halted ∧ t.ag.length = 1 := by decide +kernel
/-- R131, R133: MTSR takes IE only; ERET restores. -/
theorem test_special_registers :
    let h := ints.setCtx 3 (regs (ints.ctx 3) [(8, 5)])
    ((after (.mtsr core3 0 8) h).ctx 3).ie = true ∧ ((after (.mtsr core3 0 3) h).ctx 3).ie = false ∧
      ((after (.mtsr core3 3 2) h).ctx 3).tk = 65 ∧ ((after (.mfsr core3 5 2) h).ctx 3).gr 5 = 0x3F0 ∧ ((after (.mfsr core3 5 0) h).ctx 3).gr 5 = 1 := by
  decide +kernel

/-- R29, R48: a length just in range and one just out of it; a budget that brings the sum to 187 and one to 188. -/
theorem test_meridian_writes :
    let w := ⟨.core 1, .v, 8⟩
    (after (.merEplenNextWrite w (100 * 65536)) live).rd MER_EPLEN_CUR = 100 ∧ (after (.merEplenNextWrite w (99 * 65536)) live).rd MER_ERR_CFGERR = 1 ∧
      (after (.merBudgetWrite w false 0x00030005000D004C) live).rd MER_BUDA_GC = 76 ∧ (after (.merBudgetWrite w false 0x00030005000D004D) live).rd MER_BUDA_GC = 25 := by
  decide +kernel
/-- R43, R27: the tick after a seed is the first of the seeded epoch; tick 249 of 0 to 249 ends it. -/
theorem test_ticks :
    let t := after (.tick 0) (after (.merSeedWrite ⟨.core 1, .v, 8⟩ 131074) live)
    (t.epoch = 131074 ∧ t.mer.tick = 131074 * 250 ∧ t.is MER_STS_EPVALID = true) ∧ (after (.tick 0) (timed 131000 248)).epoch = 131000 ∧
      (after (.tick 0) (timed 131000 249)).epoch = 131001 ∧ (after (.tick 0) (timed 131000 249)).mer.tie = 0 := by decide +kernel

/-! ### The worked examples of spec/ -/

/-- Ch. 07: the attribute word of namespace 9. -/
theorem test_attribute_word : (attrOf 0x00000002_0312_128C) =
    { object := false, fsize := 2, pdig := 1, fdig := 0, calg := 1, clevel := 1, verify := 1, keyslot := 0x312, pclass := 2 } ∧
    attrOk 0x00000002_0312_128C = true := ⟨rfl, rfl⟩
/-- Ch. 08: bucket and tag of a digest in domain 0x0312, and the index entry of chunk 0x0A31C4F7. -/
theorem test_fingerprint_place : fpPlace 34 [0x3C, 0x91, 0x5E, 0x07, 0xA4, 0x2B, 0xD8, 0x66] 0x312 = (0x075E922E, 0x1B60AE9) ∧
    entryId 0x36C15D200A31C4F7 = 0x0A31C4F7 ∧ entryTag 0x36C15D200A31C4F7 = 0x1B60AE9 := by decide +kernel
/-- Ch. 10: the parity bytes of one byte column with k = 4 and m = 3, and D1 and D3 rebuilt from it. -/
theorem test_parity : (pargenJob (4 + 3 * 256) 1 [0x11, 0x22, 0x33, 0x44]).out = [0x44, 0x83, 0x5E] ∧
    (parfixJob (4 + 3 * 256 + 10 * 2 ^ 32) 1 [0x11, 0, 0x33, 0, 0x44, 0x83, 0x5E]).out = [0x22, 0x44] := by decide +kernel
/-- Ch. 11: DESC and the digest's first bytes in the header of chunk 0x0A31C4F7. -/
theorem test_chunk_header : (chunkHeader 1 0 1 16384 0x0A31C4F7 [0x3C, 0x91, 0x5E, 0x07, 0xA4, 0x2B, 0xD8, 0x66] []).take 16 =
    [0x89, 0xFE, 0x7F, 0xB8, 0x27, 0x8E, 0x51, 0x00, 0x3C, 0x91, 0x5E, 0x07, 0xA4, 0x2B, 0xD8, 0x66] := by decide +kernel
/-- Ch. 16: where lines 65,705, 65,706 and 65,708 lie with 12 channels and ORDER_C. -/
theorem test_line_places : locateLine 12 2 1 16 65705 = { chan := 10, sub := 0, rank := 0, bg := 1, ba := 2, row := 0, col := 86 } ∧
    locateLine 12 2 1 16 65706 = { chan := 10, sub := 0, rank := 0, bg := 2, ba := 2, row := 0, col := 86 } ∧ (locateLine 12 2 1 16 65708).chan = 11 := by
  decide
/-- Ch. 16: pool 6 with 4096 buffers and reservations 2048, 512, 256 and 0. -/
def pool6 (host : Nat) : Head :=
  let u := host + 196
  { (live.wrList [(BLW_POOL_CNT_COUNT.nth 6, 4096), (BLW_POOL_RES_HOST.nth 6, 2048), (BLW_POOL_RES_COMMAND.nth 6, 512),
      (BLW_POOL_RES_BACKGROUND.nth 6, 256), (BLW_POOL_RES_CONTROL.nth 6, 0)]) with
    pools := [(6, ((((Pool.fresh.setUse 0 host).setUse 1 100).setUse 2 96).setUse 3 0 |> fun p => { p with next := u }))] }
theorem test_pool_reservations : (pool6 2900).poolFree 6 = 1000 ∧ (pool6 2900).allocCheck 6 0 = none ∧ (pool6 3328).allocCheck 6 0 = some .poolReserved ∧
    (pool6 3328).allocCheck 6 3 = some .poolReserved ∧ (pool6 3328).allocCheck 6 1 = none := by decide +kernel

/-! ### Events and register writes -/

/-- Own-address ARP, solicitation and echo are answered, another address is dropped and counted (R332). -/
theorem test_answers : (after (.arpRequest 1 0 0x0A000001) ports).out = [.frame 4 (.arpReply 0x0A000001)] ∧
    (after (.neighbourSolicitation 1 0 1) ports).out = [.frame 4 (.neighbourAdvert 1)] ∧
    (after (.echoRequest 1 0 0x0A000001 false [7]) ports).out = [.frame 4 (.echoReply 0x0A000001 [7])] ∧
    (after (.arpRequest 1 0 5) ports).out = [] ∧ (after (.arpRequest 1 0 5) ports).rd (FE_P_CNT_DROP.nth 1) = 1 := by decide +kernel
/-- R331: a lost lane's sub-port moves to the spare lane 3. -/
theorem test_lane : let t := after (.laneLinkChange 1 2 false) ports
    t.firstLane 1 2 = 3 ∧ t.rd (FE_P_STS_LANEUP.nth 1) = 11 ∧ t.rd (FE_P_STS_SUBUP.nth 1) = 7 := by decide +kernel
/-- R334 to R338: an ACK ends the oldest operation; a CNP halves the rate; the eighth timeout fails the queue pair. -/
theorem test_queue_pairs :
    let h := paired { qp0 with out := [opWrite, opRead] } ports
    ((after (.roceAck 3 0) h).qp 3).map (fun q => (q.out.map (·.psn), q.retries)) = some ([1], 0) ∧
      (after (.roceAckTimeout 3) (paired { qp0 with out := [opWrite], retries := 7 } ports)).qp 3 = none ∧
      (after (.roceAckTimeout 3) (paired { qp0 with out := [opWrite], retries := 7 } ports)).rd FE_ERR_QPERR = 1 ∧
      ((after (.cmDreq 3) h).qp 3) = none := by decide +kernel
/-- R356: Property Get answers VS 2.0; a Keep Alive restarts the count. -/
theorem test_admin :
    let h := admin qpAdmin [(5, ctl0)]
    (after (.propertyGet (fabrics 4 [(44, 4, 8)] [])) h).out.head? = some (.roce 3 (.response 0 none 7 stOk 0x20000)) ∧
      ((after (.keepAlive (capsule 0x18 [] [])) { h with mer := { h.mer with sinceReset := 77 } }).ctl 5).map (·.since) = some 77 := by decide +kernel
/-- R162, R186: a Compare that matches, and a Write beyond the end of the namespace. -/
theorem test_library :
    let go := HostCmd.handle 0 0 0 0
    ((after (.nvmeFlush go) (atLib 5 (attrWord false) (hostWork 0 0))).ctx 32).run = .ending rsOk .empty 0 ∧
      ((after (.nvmeWrite go) (atLib 1 (attrWord false) { hostWork 0 1 with len := 4096, lba := 8 })).ctx 32).run = .ending lsLbaRange .empty 0 ∧
      ((after (.kvExist go) (atLib 19 (attrWord true) { hostWork 1 0x14 with keyBytes := [1] })).ctx 32).run = .ending lsKeyAbsent .empty 0 := by
  decide +kernel


/-- R56, R57: the complete half of epoch 6 is sealed and sent; R58: its acknowledgement and the twin's half let it commit (R59). -/
theorem test_seal_and_commit :
    let sent := after .sealSend ((serving.wr SD_STS_LINKUP 1).setConn 0 { Conn.reset with state := 1 })
    let ready := epochIs serving 6 { EpochSt.empty with
      sealed := true, ackSent := true, ackRecv := true,
      twinSeal := some { n := 0, commands := 0, crc := 0, asvMax := 1, ea := 5, d := 0 } }
    let c := after .epochCommit ready
    (sent.rd CMT_SEALED_EPOCH = 6 ∧ (sent.conn 0).out ≠ []) ∧ (after .sealSend live).out = [] ∧ c.last = 6 ∧ (after .epochCommit serving).last = 5 := by
  decide +kernel
/-- R67: an epoch without intents applies and moves APPLIED. -/
theorem test_apply :
    let span : Head := { serving.wr CMT_LAST_EPOCH 6 with
      cmt := { serving.cmt with spans := [(6, { off := 0, len := 128, n0 := 0, n1 := 0, nref := 0, asv := 1 })] } }
    (after .applyEpoch span).applied = 6 := by decide +kernel

/-- R139, R140: a job is posted; TWAIT of one that ended gives its status, of one that runs waits. -/
theorem test_jobs :
    let t := after (.pack recipe 5 1 1 2) (posting 0xA11 [])
    let w (j : Job) := after (.twait recipe 5 4) { running 32 .c with jobs := [(1, j)] }
    t.jobs.length = 1 ∧ (t.jobs.map (·.2.owner)) = [32] ∧
      ((w { job0 with ticket := 0, ended := some (0, 9) }).ctx 32).run = .running ∧ ((w { job0 with ticket := 0 }).ctx 32).run = .ticket 1 5 := by
  decide +kernel
/-- R149, R444: BGET of 4096 bytes takes a buffer of the smallest pool that holds them, BPUT gives it back. -/
theorem test_buffers :
    let h := (running 32 .c).wrList [(BLW_POOL_CNT_COUNT.nth 2, 2)] |>.setCtx 32 (regs (body .c) [(1, 4096)])
    let t := after (.bget recipe 5 1 2) h
    (t.ctx 32).hr 2 = .buffer (2 * 2 ^ 20) ∧ t.poolFree 2 = 1 ∧ (after (.bput recipe 5 2) t).poolFree 2 = 2 ∧
      ((after (.bput recipe 5 2) t).ctx 32).hr 2 = .empty := by decide +kernel
/-- Ch. 06: on a control core EPOCH.READ has no value, EPOCH.APPLIED is CMT_APPLIED; EWAIT waits for an epoch to come. -/
theorem test_epochs :
    let h := (running 3 .s).wrList [(MER_STS_EPVALID, 1), (MER_EPOCH_EPOCH, 10), (CMT_APPLIED_EPOCH, 8)]
    ((after (.epochRead core3 5) h).ctx 3).gr 5 = 0x7FFFFFFFFFFFFFFF ∧ ((after (.epochApplied core3 5) h).ctx 3).gr 5 = 8 ∧
      ((after (.ewait core3 5 1) (h.setCtx 3 (regs (body .s) [(1, 11)]))).ctx 3).run = .epoch 11 5 := by decide +kernel

/-- R320 to R326: the module's answers: the strip's byte, an erased slot, a good and a stale acquire, a fence set by its holder. -/
theorem test_module :
    let r : ModOp := { blankOp 1 with pblk := 1, len := 4096, dptr := 8, mptr := 8 }
    let l (gen : Nat) : ModOp := { blankOp 8 with subop := 2, len := 64, dptr := 8, exph := 2, newh := 1, gen := BitVec.ofNat 64 gen }
    let h : Head := { live with modules := [(3, mod0)] }
    let holder (t : Head) := (t.module 3).map (fun m => (m.holder, m.gen))
    holder (after (.leaseAcquire 3 false (l 4)) h) = some (1, 5) ∧ holder (after (.leaseAcquire 3 false (l 3)) h) = some (2, 4) ∧
      ((after (.eraseBlock 3 false { blankOp 4 with pblk := 1 }) h).module 3).map (fun m => (m.block 1).strips) = some [] ∧
      ((after (.eraseBlock 3 true { blankOp 4 with pblk := 1 }) h).module 3).map (fun m => (m.block 1).strips.length) = some 1 ∧
      (after (.readPage 3 false r) h).out.length = 1 := by decide +kernel
/-- R304: releasing PERST of a port that is starting; R308: a completion that names no operation. -/
theorem test_module_link :
    let start : Head := (live.wr (ML_P_STS_STATE.nth 3) uStarting).setPort 3 { Port.reset with perstHeld := true }
    ((after (.mlPerstRelease 3) start).port 3).perstHeld = false ∧ (after (.moduleCompletion 3 (cpl 5 0 [])) port3).is ML_ERR_DMAVIOL = true ∧
      (after (.moduleCompletion 3 (cpl 5 0 [])) port3).is (ML_P_STS_LINKUP.nth 3) = false := by decide +kernel
/-- R223: a stripe open for CLOSEMAX epochs closes; R232: no victim, nothing changes. -/
theorem test_stripes :
    ((after (.stripeCloseTimeout 257) pool).stripe 257).map (·.phase) ≠ some .open_ ∧ (after (.victimSelect .collect) pool) = pool := by decide +kernel

/-- R371, R375: an ACK ends what is outstanding, the eighth timeout fails a UDP connection, a CREDIT raises the grants. -/
theorem test_chrt :
    let m : ChrtMsg := { psn := 0, npsn := 1, body := .send 0x40 [], entry := none, job := none, sent := 1, got := 0 }
    let h (n : Nat) := linked { udp with out := [m], retries := n }
    ((after (.chrtAck 16 0) (h 6)).conn 16).out = [] ∧ ((after (.chrtRetransmitTimeout 16) (h 6)).conn 16).retries = 7 ∧
      ((after (.chrtRetransmitTimeout 16) (h 7)).conn 16).out = [] := by decide +kernel
/-- R371: a WRITE of 64 bytes to the end of its region lies in memory and is acknowledged; one byte further it does not. -/
theorem test_rdma_write :
    let p (a : Nat) := packet (List.replicate 64 7) a 16 64
    (after (.chrtWrite (p 0x200000000)) (linked udp)).bytes 0x20000003F 2 = [7, 0] ∧
      (after (.chrtWrite (p 0x200000001)) (linked udp)).bytes 0x200000001 1 = [0] := by decide +kernel
/-- R377: the third missed heartbeat of a group that is ON takes it out. -/
theorem test_groups :
    let h (n : Nat) : Head := { live.wrList [(SD_G_CTL_EN.nth 2, 1), (SD_G_STS_STATE.nth 2, 2), (SD_STS_LINKUP, 1), (SD_G_STS_ACTIVE.nth 2, 1)] with
      sd := { live.sd with newest := some (beat 100 4), newestTick := 0, groupSeen := [(2, 3)], groupMiss := [(2, n)] },
      mer := { Mer.reset with tick := 500, loaded := true } }
    (after (.groupHeartbeatMiss 2) (h 2)).is (SD_G_STS_ACTIVE.nth 2) = false ∧ (after (.groupHeartbeatMiss 2) (h 1)).is (SD_G_STS_ACTIVE.nth 2) = true := by
  decide +kernel

/-- R431, R450, R429: the fill zeroes DRAM; a clean empties the dirty lines; two refreshes of a hot channel. -/
theorem test_memory :
    let run := (dram live).wrList [(MEM_STS_RUN, 1), (MEM_STS_FILLDONE, 0)]
    let f := after .fillDone (run.store dramBase 1 7)
    f.is MEM_STS_FILLDONE = true ∧ f.byte dramBase = 0 ∧
      ((after (.veilClean ⟨.core 1, .v, 8⟩ (3 * 2 ^ 10 + 2 * 2 ^ 4 + 4)) (caching pageEntry)).veil 2 3).dirty = 0 ∧
      (after (.refreshSlot 0) (run.wr MEM_STS_HOTREF 1)).out = [.refresh 0 2 2] := by decide +kernel
/-- R464, R472: ZERO of an ordinary slot; an alarm clears every slot and holds the head in reset. -/
theorem test_umbra :
    let t := after (.alarm 1) owned
    (after (.zero ⟨.core 1, .v, 8⟩ 300) owned).slotKey 300 = none ∧ (after (.zero ⟨.core 1, .v, 8⟩ 300) owned).umb.answer = some 0 ∧
      (after (.zero ⟨.core 1, .v, 8⟩ 301) owned).umb.answer = some 7 ∧ t.umb.slots = [] ∧ t.umb.latch = true ∧ t.plt.inReset = true ∧
      (after .umbCmdComplete owned).is UMB_CMDSTS_BUSY = false ∧ ((after .umbCmdComplete owned).slotKey 302).isSome = true := by decide +kernel
/-- R499, R500, R508, R483: KICK, tokens up to the cap, throttling at its threshold, and a reset by PLT_RST. -/
theorem test_platform :
    let late : Head := { live with mer := { live.mer with sinceReset := 25000000 } }
    let r := after (.pltRstWrite ⟨.core 1, .v, 8⟩ 3) (live.wr MER_ERR_CFGERR 1)
    (after (.pltWdogKick ⟨.core 1, .v, 8⟩ (100 + 2 ^ 17)) late).plt.wdogStart = 25000000 ∧ (after .agTokenGain late).rd AG_STS_TOKENS = 4096 ∧
      (after .agTokenGain (late.wr AG_STS_TOKENS 9)).rd AG_STS_TOKENS = 10 ∧ (after (.thermalThrottleChange 0x7FF 1) live).is PLT_THERM_ACTIVE = true ∧
      r.plt.inReset = true ∧ r.plt.resetKind = 4 ∧ r.rd MER_ERR_CFGERR = 0 := by decide +kernel
/-- R494: an ERASE covers whole sectors; a PROGRAM writes what memory holds. -/
theorem test_flash :
    let h (op : Nat) : Head := { (flashing op 0).store 0x200000000 1 0x55 with plt := { (flashing op 0).plt with flash1 := if op = 3 then [(0x1FFFF, 0)] else [] } }
    (after (.dayCmdComplete none) (h 3)).flashBytes 1 0x1FFFF 1 = [255] ∧ (after (.dayCmdComplete none) (h 2)).flashBytes 1 0x10000 2 = [0x55, 0] ∧
      (after (.dayCmdComplete none) (h 2)).rd DAY_CMD_STATUS = 0 := by decide +kernel
/-- The idle step and the queue's order. -/
theorem test_queue :
    step (st live) = .next (st live) ∧
      (match step { pending := [.add core3 5 1 3, .svcPerst true], head := ints } with
        | .next t => decide (t.pending = [.svcPerst true] ∧ (t.head.ctx 3).gr 5 = 0x8000000000000000)
        | _ => false) = true := ⟨rfl, by decide +kernel⟩

end Sys2Proof.Tests
end

section
/-! Register accesses that are turned away (spec/00_scope.md, R3, R7, R8; R11, R120, R511): the answer they get, and what the
command that makes one does. -/
namespace Sys2Proof.Machine
open Reg

/-! ### The answer -/

/-- What a requester that is turned away gets: an exception at a context, another answer at the service port (R511). -/
def refusal (o : Origin) (code : Nat) (other : BusReply) : BusReply := if o = .service then other else .exception code

theorem eq_refusal_iff (o : Origin) (code : Nat) (other b : BusReply) :
    ((o = .service ∧ b = other) ∨ (¬ o = .service ∧ b = .exception code)) ↔ b = refusal o code other := by
  by_cases ho : o = .service <;> simp [refusal, ho]

theorem refusal_core (n : Fin 32) (code : Nat) (other : BusReply) : refusal (.core n) code other = .exception code :=
  if_neg nofun

/-- The alignment that an access needs: its size, and 8 bytes at the service port (R120, R511). -/
def Aligned (x : Access) (a : Nat) : Prop := if x.origin = .service then a % 8 = 0 else a % x.size.val = 0

theorem Head.turnedAway_priv {h : Head} {x : Access} {a : Nat}
    (hl : ¬ levelReaches (h.accessLevel x (a / 8 * 8)) (fieldsAt x.origin (a / 8 * 8)) = true) :
    h.turnedAway x a = some (refusal x.origin excPriv .abort) := by
  by_cases ho : x.origin = .service <;> simp_all [Head.turnedAway, refusal]

theorem Head.turnedAway_align {h : Head} {x : Access} {a : Nat}
    (hl : levelReaches (h.accessLevel x (a / 8 * 8)) (fieldsAt x.origin (a / 8 * 8)) = true) (ha : ¬ Aligned x a) :
    h.turnedAway x a = some (refusal x.origin excAlign .busError) := by
  by_cases ho : x.origin = .service <;> simp_all [Head.turnedAway, refusal, Aligned]

theorem Head.turnedAway_width {h : Head} {x : Access} {a : Nat}
    (hl : levelReaches (h.accessLevel x (a / 8 * 8)) (fieldsAt x.origin (a / 8 * 8)) = true) (ha : Aligned x a)
    (hs : x.size ≠ 8) : h.turnedAway x a = some (refusal x.origin excBusErr .busError) := by
  by_cases ho : x.origin = .service <;> simp_all [Head.turnedAway, refusal, Aligned]

/-! ### The requester -/

/-- An answer reaches no context that runs: it is given, and nothing else happens. -/
theorem Head.answer_idle (h : Head) (o : Origin) (a : Nat) (w : Bool) (b : BusReply)
    (hk : ∀ k, originCtx o = some k → (h.ctx k).run ≠ .running) : h.answer o a w b = h.reply b := by
  unfold Head.answer
  dsimp only
  split
  · next code k ho => exact if_neg (hk k ho)
  · rfl

/-- A running control core takes the exception that its access raised. -/
theorem Head.answer_core (h : Head) (n : Fin 32) (a : Nat) (w : Bool) (code : Nat) (hr : (h.ctx n.val).run = .running) :
    h.answer (.core n) a w (.exception code) =
      (h.reply (.exception code)).enterExc n.val code { addr := a, store := w, fetch := false } := by
  have hn : isStream n.val = false := by simp [isStream]
  change (if (h.ctx n.val).run = .running then (h.reply _).except n.val code _ else _) = _
  rw [if_pos hr, Head.except, hn]
  rfl

/-- Exception entry leaves the power-fail dump alone. -/
theorem TookException.fb {h t : Head} {n : Fin 32} {v : Bool} {code : Nat} {epc : Word} {irq : Nat} {x : ExcInfo}
    (e : TookException h t n v code epc irq x) : t.fb = h.fb := by
  obtain ⟨-, -, -, ht, -, -⟩ := e
  rw [ht]

/-! ### The commands -/

/-- A command that makes a write is a register write at its address. -/
theorem Makes.exec_write {x : Access} {c : Instr} {a : Nat} (hm : Makes x c a true) (s : State) :
    ∃ v, exec c s = s.write x a v := by
  cases hm <;> exact ⟨_, rfl⟩

/-- A command that makes a read is a register read at its address. -/
theorem Makes.exec_read {x : Access} {c : Instr} {a : Nat} (hm : Makes x c a false) (s : State) :
    exec c s = s.read x a := by
  cases hm <;> rfl

theorem Head.writeCmd_turnedAway {h : Head} {x : Access} {a : Nat} {b : BusReply} (v : Word)
    (hs : h.served x.origin = true) (ht : h.turnedAway x a = some b) : h.writeCmd x a v = h.answer x.origin a true b := by
  simp [Head.writeCmd, Head.busWrite, hs, ht]

theorem Head.readCmd_turnedAway {h : Head} {x : Access} {a : Nat} {b : BusReply}
    (hs : h.served x.origin = true) (ht : h.turnedAway x a = some b) : h.readCmd x a = h.answer x.origin a false b := by
  simp [Head.readCmd, Head.busRead, hs, ht]

/-- A register access that is turned away does nothing but answer. -/
theorem Makes.completes_turnedAway {x : Access} {c : Instr} {a : Nat} {w : Bool} {s : State} {b : BusReply}
    (hm : Makes x c a w) (hr : s.head.plt.inReset = false) (hs : s.head.served x.origin = true)
    (ht : s.head.turnedAway x a = some b) (hd : (s.head.answer x.origin a w b).fb = s.head.fb) :
    Completes c s (fun t => t = s.head.answer x.origin a w b) := by
  refine ⟨_, ?_, rfl⟩
  cases w with
  | true =>
    obtain ⟨v, hv⟩ := hm.exec_write s
    have hw := Head.writeCmd_turnedAway v hs ht
    rw [hv, State.write, State.applyPort_live s _ hr (by rw [hw, hd]), hw]
  | false => rw [hm.exec_read s, State.read, State.apply_live s _ hr, Head.readCmd_turnedAway hs ht]

/-- Settles O23: the three checks of `turnedAway`, in their order, name the answer, and `answer` gives it to the requester. -/
theorem accessesTurnedAway : Obligations.AccessesTurnedAway := by
  unfold Obligations.AccessesTurnedAway
  intro s x c a w b hm h r port reaches aligned answer hr hs hcase
  obtain ⟨e, other, he, hbe, ht⟩ : ∃ e other, e ∈ [excPriv, excAlign, excBusErr] ∧ b = refusal x.origin e other ∧
      h.turnedAway x a = some b := by
    simp only [answer, port, eq_refusal_iff] at hcase
    rcases hcase with ⟨hl, rfl⟩ | ⟨hl, ha, rfl⟩ | ⟨hl, ha, hw, rfl⟩
    · exact ⟨_, _, .head _, rfl, Head.turnedAway_priv hl⟩
    · exact ⟨_, _, .tail _ (.head _), rfl, Head.turnedAway_align hl ha⟩
    · exact ⟨_, _, .tail _ (.tail _ (.head _)), rfl, Head.turnedAway_width hl ha hw⟩
  refine ⟨fun hk => ?_, fun n code ho hb hrun hmay => ?_⟩
  · have idle := Head.answer_idle h x.origin a w b hk
    rw [← idle]
    exact hm.completes_turnedAway hr hs ht (by rw [idle]; rfl)
  · subst hb
    have entry : h.answer x.origin a w (.exception code) = _ := ho ▸ Head.answer_core h n a w code hrun
    obtain rfl : code = e := BusReply.exception.inj (hbe.trans (ho ▸ refusal_core n e other))
    have range : ∀ c ∈ [excPriv, excAlign, excBusErr], c ≠ excSys ∧ c ≠ excIntr ∧ c < 256 := by decide
    obtain ⟨hsys, hintr, hlt⟩ := range code he
    have spec := Head.enterExc_spec (h.reply (.exception code)) n code { addr := a, store := w, fetch := false } hlt hmay
    rw [if_neg hsys, if_neg hintr] at spec
    obtain ⟨t, ht', rfl⟩ := hm.completes_turnedAway hr hs ht (by rw [entry, spec.fb]; rfl)
    exact ⟨_, ht', by rw [entry]; exact spec⟩

end Sys2Proof.Machine
end

section
/-! A register read that posts a record (spec/00_scope.md, R8; spec/08_coalesce_index.md, R199; spec/18_platform.md, R508). -/
namespace Sys2Proof.Machine
open Reg

/-! ### The state -/

/-- The head after reset with its tables of 2^24 entries, every chunk ID it may allocate live, ID_LOW not yet posted, and lane 0
enabled for EVENT frames. -/
def idsLowHead : Head :=
  { ((State.reset.head.wr CX_CTL_LOG 24).wr OBS_CTL_LANEEN 1).wr OBS_CTL_TYPES 1 with liveIds := (2 ^ 26 - 1, 0) }

/-- Control core 1 at level S. -/
def coreOneAtS : Access := { origin := .core 1, level := .s, size := 8 }

theorem idsLowHead_accepts : Accepted idsLowHead coreOneAtS CX_FREE_COUNT.addr := by
  unfold Accepted
  decide +kernel

/-- The read of CX_FREE posts ID_LOW, whose EVENT frame goes out before the answer. -/
theorem idsLowHead_read_gives_two : (idsLowHead.readCmd coreOneAtS CX_FREE_COUNT.addr).out.length = idsLowHead.out.length + 2 := by
  decide +kernel

/-- A register read of a head out of reset meets `P` where the head that `readCmd` makes does. -/
theorem completes_rcFieldRead_iff (s : State) (x : Access) (addr : BitVec 48) (P : Head → Prop)
    (hr : s.head.plt.inReset = false) : Completes (.rcFieldRead x addr) s P ↔ P (s.head.readCmd x addr.toNat) := by
  have e : exec (.rcFieldRead x addr) s = .next { s with head := s.head.readCmd x addr.toNat } :=
    ((Makes.rcFieldRead addr).exec_read s).trans (State.apply_live s _ hr)
  constructor
  · rintro ⟨t, ht, hp⟩
    have : s.head.readCmd x addr.toNat = t := congrArg State.head (Host.Outcome.next.inj (e.symm.trans ht))
    exact this ▸ hp
  · exact fun hp => ⟨_, e, hp⟩

/-- Refutes O24: a read of CX_FREE may find fewer IDs free than CX_IDLOW says and post ID_LOW (R199), and with a lane enabled the
record's EVENT frame (R508) goes out beside the answer: more was given to the outside than one answer. -/
theorem not_registerReadsClearCounters : ¬ Obligations.RegisterReadsClearCounters := by
  unfold Obligations.RegisterReadsClearCounters
  intro claim
  have ha : (BitVec.ofNat 48 CX_FREE_COUNT.addr).toNat = CX_FREE_COUNT.addr := by decide
  have done := (completes_rcFieldRead_iff { pending := [], head := idsLowHead } coreOneAtS _ _ idsLowHead_accepts.1).mp
    (claim _ coreOneAtS _ (ha.symm ▸ idsLowHead_accepts))
  obtain ⟨⟨v, hv⟩, -⟩ := done
  rw [ha] at hv
  have one : (idsLowHead.readCmd coreOneAtS CX_FREE_COUNT.addr).out.length = idsLowHead.out.length + 1 :=
    congrArg List.length hv
  have two := idsLowHead_read_gives_two
  omega

end Sys2Proof.Machine
end

section
/-! Plain register writes (spec/00_scope.md, R4, R5, R8): what a field takes, what a write leaves alone, and a write that is
ignored. -/
namespace Sys2Proof.Machine
open Reg

/-! ### One field -/

/-- What a field reads as after it was given `v`, by its access type (R5). -/
def Head.wrote (h : Head) (f : Field) (v : Nat) : Nat :=
  match f.acc with
  | .rw => v % 2 ^ f.width
  | .rwo => if h.written f then h.rd f else v % 2 ^ f.width
  | .w1c => (h.rd f - (h.rd f &&& v)) % 2 ^ f.width
  | .w1s => (h.rd f ||| v) % 2 ^ f.width
  | _ => h.rd f

/-- What giving a field a value can do: nothing, set it, or set it and note that its one write was made. -/
theorem Head.writeField_cases (h : Head) (f : Field) (v : Nat) :
    h.writeField f v = h ∨ ∃ w, h.writeField f v = h.wr f w ∨ h.writeField f v = { h.wr f w with rwo := f.key :: h.rwo } := by
  unfold Head.writeField
  cases f.acc with
  | ro | wo | rc => exact .inl rfl
  | rw | w1c | w1s => exact .inr ⟨_, .inl rfl⟩
  | rwo =>
    by_cases hw : h.written f = true
    · exact .inl (if_pos hw)
    · exact .inr ⟨v, .inr (if_neg hw)⟩

theorem Head.rd_writeField_self (h : Head) (f : Field) (v : Nat) (hf : f.width ≤ 64) :
    (h.writeField f v).rd f = h.wrote f v := by
  unfold Head.writeField Head.wrote
  cases f.acc with
  | ro | wo | rc => rfl
  | rw | w1c | w1s => exact Head.rd_wr_self h f _ hf
  | rwo =>
    by_cases hw : h.written f = true
    · simp only [if_pos hw]
    · simp only [if_neg hw]
      exact Head.rd_wr_self h f v hf

theorem Head.rd_writeField_ne (h : Head) {f g : Field} (v : Nat) (hk : g.key ≠ f.key) :
    (h.writeField f v).rd g = h.rd g := by
  obtain e | ⟨w, e | e⟩ := h.writeField_cases f v <;> rw [e]
  · exact Head.rd_wr_ne h f g w hk
  · exact Head.rd_wr_ne h f g w hk

theorem Head.written_writeField_ne (h : Head) {f g : Field} (v : Nat) (hk : g.key ≠ f.key) :
    (h.writeField f v).written g = h.written g := by
  obtain e | ⟨w, e | e⟩ := h.writeField_cases f v <;> rw [e]
  · rfl
  · simp [Head.written, hk]

theorem Head.written_writeField_self (h : Head) (f : Field) (v : Nat) (hf : f.acc = .rwo) :
    (h.writeField f v).written f = true := by
  simp only [Head.writeField, hf]
  by_cases hw : h.written f = true
  · rw [if_pos hw, hw]
  · rw [if_neg hw]
    simp [Head.written]

theorem Head.writeField_frame (h : Head) (f : Field) (v : Nat) :
    h.writeField f v = { h with fields := (h.writeField f v).fields, rwo := (h.writeField f v).rwo } := by
  obtain e | ⟨w, e | e⟩ := h.writeField_cases f v <;> rw [e] <;> rfl

theorem Head.wrote_writeField_ne (h : Head) {f g : Field} (u v : Nat) (hk : g.key ≠ f.key) :
    (h.writeField f u).wrote g v = h.wrote g v := by
  simp only [Head.wrote, Head.rd_writeField_ne h u hk, Head.written_writeField_ne h u hk]

/-! ### Fields in turn -/

/-- Fields take their values in turn: `Head.writeFields` on any list of them. -/
def Head.writeEach (h : Head) (x : RegWrite) (ps : List (Field × Field)) : Head :=
  ps.foldl (fun h p => h.writeField p.2 (x.val p.2)) h

theorem Head.writeFields_eq (h : Head) (x : RegWrite) (skip : List Field) :
    h.writeFields x skip = h.writeEach x (x.open_ skip) := rfl

theorem Head.writeEach_cons (h : Head) (x : RegWrite) (p : Field × Field) (ps : List (Field × Field)) :
    h.writeEach x (p :: ps) = (h.writeField p.2 (x.val p.2)).writeEach x ps := rfl

theorem Head.writeEach_frame (h : Head) (x : RegWrite) (ps : List (Field × Field)) :
    h.writeEach x ps = { h with fields := (h.writeEach x ps).fields, rwo := (h.writeEach x ps).rwo } := by
  induction ps generalizing h with
  | nil => rfl
  | cons p ps ih => rw [Head.writeEach_cons, ih, Head.writeField_frame]

theorem Head.rd_writeEach_ne (h : Head) (x : RegWrite) {ps : List (Field × Field)} {f : Field}
    (hf : ∀ p ∈ ps, f.key ≠ p.2.key) : (h.writeEach x ps).rd f = h.rd f := by
  induction ps generalizing h with
  | nil => rfl
  | cons p ps ih =>
    rw [Head.writeEach_cons, ih _ (fun q hq => hf q (.tail _ hq)), Head.rd_writeField_ne h _ (hf p (.head _))]

theorem Head.written_writeEach_ne (h : Head) (x : RegWrite) {ps : List (Field × Field)} {f : Field}
    (hf : ∀ p ∈ ps, f.key ≠ p.2.key) : (h.writeEach x ps).written f = h.written f := by
  induction ps generalizing h with
  | nil => rfl
  | cons p ps ih =>
    rw [Head.writeEach_cons, ih _ (fun q hq => hf q (.tail _ hq)), Head.written_writeField_ne h _ (hf p (.head _))]

/-- The fields of a list stand at different keys. -/
def KeysApart (ps : List (Field × Field)) : Prop := ps.Pairwise (fun p q => p.2.key ≠ q.2.key)

theorem KeysApart.key_ne {ps : List (Field × Field)} (hps : KeysApart ps) {p q : Field × Field} (hp : p ∈ ps) (hq : q ∈ ps)
    (hpq : p ≠ q) : p.2.key ≠ q.2.key := by
  induction ps with
  | nil => cases hp
  | cons r ps ih =>
    obtain ⟨hr, hps⟩ := List.pairwise_cons.mp hps
    cases hp with
    | head =>
      cases hq with
      | head => exact absurd rfl hpq
      | tail _ hq => exact hr q hq
    | tail _ hp =>
      cases hq with
      | head => exact (hr p hp).symm
      | tail _ hq => exact ih hps hp hq

/-- A field of the list reads as its own write leaves it: those before and after it stand elsewhere. -/
theorem Head.rd_writeEach_mem (h : Head) (x : RegWrite) {ps : List (Field × Field)} (hps : KeysApart ps)
    {p : Field × Field} (hp : p ∈ ps) (hw : p.2.width ≤ 64) :
    (h.writeEach x ps).rd p.2 = h.wrote p.2 (x.val p.2) := by
  induction ps generalizing h with
  | nil => cases hp
  | cons q ps ih =>
    obtain ⟨hq, hps⟩ := List.pairwise_cons.mp hps
    rw [Head.writeEach_cons]
    cases hp with
    | head => rw [Head.rd_writeEach_ne _ x hq, Head.rd_writeField_self h _ _ hw]
    | tail _ hp => rw [ih _ hps hp, Head.wrote_writeField_ne h _ _ (hq p hp).symm]

theorem Head.written_writeEach_mem (h : Head) (x : RegWrite) {ps : List (Field × Field)} (hps : KeysApart ps)
    {p : Field × Field} (hp : p ∈ ps) (ha : p.2.acc = .rwo) : (h.writeEach x ps).written p.2 = true := by
  induction ps generalizing h with
  | nil => cases hp
  | cons q ps ih =>
    obtain ⟨hq, hps⟩ := List.pairwise_cons.mp hps
    rw [Head.writeEach_cons]
    cases hp with
    | head => rw [Head.written_writeEach_ne _ x hq, Head.written_writeField_self h _ _ ha]
    | tail _ hp => exact ih _ hps hp

/-! ### A plain write -/

/-- The fields that a plain write changes are those in reach. -/
theorem RegWrite.mem_open_nil (x : RegWrite) (p : Field × Field) :
    p ∈ x.open_ [] ↔ p ∈ x.fields ∧ x.reaches p.1 = true := by
  simp [RegWrite.open_]

/-- A field out of reach shares its key with no field that a plain write changes. -/
theorem RegWrite.key_ne_of_unreached {x : RegWrite} (hx : KeysApart x.fields) {p : Field × Field} (hp : p ∈ x.fields)
    (hr : x.reaches p.1 = false) : ∀ q ∈ x.open_ [], p.2.key ≠ q.2.key := by
  intro q hq
  obtain ⟨hq, hqr⟩ := (x.mem_open_nil q).mp hq
  refine hx.key_ne hp hq ?_
  rintro rfl
  simp [hr] at hqr

/-- A write of no field changes nothing. -/
theorem Head.plain_of_no_field (h : Head) {x : RegWrite} (hx : x.fields = []) : h.plain x = h := by
  have ho : x.open_ [] = [] := by simp [RegWrite.open_, hx]
  simp [Head.plain, Head.plainThen, Head.writeOk, Head.writeFields, ho]

/-- A write of a register outside `effectRegisters` and the chunk-index block is plain. -/
theorem Head.writeRegister_plain (h : Head) {x : RegWrite} (he : x.base ∉ effectRegisters.map (·.addr))
    (h5 : (x.base - regBase) / 2 ^ 24 ≠ 5) : h.writeRegister x = h.plain x := by
  simp only [effectRegisters, List.map_cons, List.map_nil, List.mem_cons, List.not_mem_nil, or_false, not_or] at he
  unfold Head.writeRegister
  split
  · next hx => exact (h.plain_of_no_field hx).symm
  · split
    case h_6 hb => exact absurd hb h5
    case h_7 =>
      simp only [he, if_false]
      rfl
    all_goals
      simp only [Head.writePlatform, Head.writeFront, Head.writeEpochs, Head.writeCores, Head.writeAcc,
        Head.writeRedundancy, Head.writeModuleLink, Head.writeSundog, Head.writeMemory, Head.writeUmbra, Head.plain,
        he, or_self, if_false]

theorem Head.plain_ok {h : Head} {x : RegWrite} (hk : h.writeOk x [] = true) : h.plain x = h.writeEach x (x.open_ []) := by
  simp [Head.plain, Head.plainThen, hk, Head.writeFields_eq]

theorem Head.plain_refused {h : Head} {x : RegWrite} (hk : h.writeOk x [] = false) : h.plain x = h.cfgErrAt x.base := by
  simp [Head.plain, Head.plainThen, hk]

/-- `cfgErrAt` by what `cfgErr` says of the address. The definition is opened as a function, before it meets an address: at an
unknown address the kernel would count the difference to `regBase` in `cfgErr` down by ones. -/
theorem Head.cfgErrAt_of (h : Head) {a : Nat} {o : Option Field} (hc : cfgErr a = o) :
    h.cfgErrAt a = o.elim h (h.wr · 1) := by
  have e : Head.cfgErrAt = Head.cfgErrAt := rfl
  conv at e => rhs; delta Head.cfgErrAt
  simp only [e, hc]
  cases o <;> rfl

theorem Head.cfgErrAt_frame (h : Head) (a : Nat) :
    h.cfgErrAt a = { h with fields := (h.cfgErrAt a).fields, rwo := (h.cfgErrAt a).rwo } := by
  obtain ⟨o, hc⟩ : ∃ o, cfgErr a = o := ⟨_, rfl⟩
  rw [h.cfgErrAt_of hc]
  cases o <;> rfl

theorem Head.plain_frame (h : Head) (x : RegWrite) :
    h.plain x = { h with fields := (h.plain x).fields, rwo := (h.plain x).rwo } := by
  cases hk : h.writeOk x [] with
  | true => rw [Head.plain_ok hk, Head.writeEach_frame]
  | false =>
    rw [Head.plain_refused hk]
    exact h.cfgErrAt_frame x.base

/-- What a field of a written register reads as afterwards: what its access type makes of its bits where it is in reach. -/
theorem Head.rd_plain {h : Head} {x : RegWrite} (hk : h.writeOk x [] = true) (hx : KeysApart x.fields) {p : Field × Field}
    (hp : p ∈ x.fields) (hw : p.2.width ≤ 64) :
    (h.plain x).rd p.2 = if x.reaches p.1 then h.wrote p.2 (x.val p.2) else h.rd p.2 := by
  rw [Head.plain_ok hk]
  split
  · next hr => exact Head.rd_writeEach_mem h x (hx.filter _) ((x.mem_open_nil p).mpr ⟨hp, hr⟩) hw
  · next hr => exact Head.rd_writeEach_ne h x (RegWrite.key_ne_of_unreached hx hp (by simpa using hr))

theorem Head.written_plain {h : Head} {x : RegWrite} (hk : h.writeOk x [] = true) (hx : KeysApart x.fields)
    {p : Field × Field} (hp : p ∈ x.fields) (hr : x.reaches p.1 = true) (ha : p.2.acc = .rwo) :
    (h.plain x).written p.2 = true := by
  rw [Head.plain_ok hk]
  exact Head.written_writeEach_mem h x (hx.filter _) ((x.mem_open_nil p).mpr ⟨hp, hr⟩) ha

/-- A plain write leaves every field of another register. -/
theorem Head.plain_others {h : Head} {x : RegWrite} (hk : h.writeOk x [] = true) :
    SameRegistersBut h (h.plain x) (x.fields.map (·.2)) := by
  intro f hf
  rw [Head.plain_ok hk]
  exact Head.rd_writeEach_ne h x (fun p hp => hf p.2 (List.mem_map_of_mem ((x.mem_open_nil p).mp hp).1))

/-- Every CFGERR flag is one bit. -/
theorem cfgErr_width {a : Nat} {f : Field} (hf : cfgErr a = some f) : f.width = 1 := by
  unfold cfgErr at hf
  dsimp only at hf
  repeat' split at hf
  all_goals cases hf <;> rfl

/-- A write that is ignored changes no field but the CFGERR flag that `cfgErr` names, which is 1. -/
theorem Head.cfgErrAt_spec (h : Head) (a : Nat) :
    OnlyFields h (h.cfgErrAt a) (cfgErr a).toList ∧ ∀ f, cfgErr a = some f → (h.cfgErrAt a).rd f = 1 := by
  obtain ⟨o, hc⟩ : ∃ o, cfgErr a = o := ⟨_, rfl⟩
  rw [h.cfgErrAt_of hc, hc]
  cases o with
  | none => exact ⟨⟨fun _ _ => rfl, rfl⟩, nofun⟩
  | some f =>
    refine ⟨⟨fun g hg => Head.rd_wr_ne h f g 1 (hg f (.head _)), rfl⟩, fun _ hf => ?_⟩
    cases hf
    have hw := cfgErr_width hc
    exact (Head.rd_wr_self h f 1 (by omega)).trans (by simp [hw])

/-! ### The command -/

theorem Head.answer_done (h : Head) (o : Origin) (a : Nat) : h.answer o a true .done = h.reply .done := rfl

/-- The register write that an access makes. -/
def Head.regWrite (h : Head) (x : Access) (a : Nat) (v : Word) : RegWrite :=
  { origin := x.origin, level := h.accessLevel x a, index := indexAt (fieldsAt x.origin a) a, value := v.toNat,
    fields := fieldsAt x.origin a }

theorem Head.writeCmd_accepted {h : Head} {x : Access} {a : Nat} (v : Word) (ha : Accepted h x a) :
    h.writeCmd x a v = (h.writeRegister (h.regWrite x a v)).reply .done := by
  obtain ⟨-, hs, ht⟩ := ha
  simp only [Head.writeCmd, Head.busWrite, hs, ht, Head.answer_done]
  rfl

/-- REGISTER_WRITE of a register whose write is plain does the plain write and answers. -/
theorem writeDone_plain {s : State} {x : Access} {addr : BitVec 48} {v : Word} {P : Head → Prop}
    (ha : Accepted s.head x addr.toNat)
    (he : (s.head.regWrite x addr.toNat v).base ∉ effectRegisters.map (·.addr))
    (h5 : ((s.head.regWrite x addr.toNat v).base - regBase) / 2 ^ 24 ≠ 5)
    (hp : P (s.head.plain (s.head.regWrite x addr.toNat v))) : WriteDone (.registerWrite x addr v) s P := by
  have e : s.head.writeCmd x addr.toNat v = (s.head.plain (s.head.regWrite x addr.toNat v)).reply .done := by
    rw [Head.writeCmd_accepted v ha, Head.writeRegister_plain _ he h5]
  have hd : (s.head.writeCmd x addr.toNat v).fb.dump = s.head.fb.dump := by
    rw [e, Head.plain_frame]
    rfl
  exact ⟨_, State.applyPort_live s _ ha.1 hd, _, e, hp⟩

/-- Settles O25: a write outside `effectRegisters` is plain, a plain write gives each field in reach its own value for the fields
stand at different keys, and one that is refused sets CFGERR alone. -/
theorem plainRegisterWrites : Obligations.PlainRegisterWrites := by
  unfold Obligations.PlainRegisterWrites
  intro s x addr v h a fs w ha he h5 hx
  have done (P : Head → Prop) (hp : P (h.plain w)) : WriteDone (.registerWrite x addr v) s P := writeDone_plain ha he h5 hp
  refine ⟨fun hk => done _ ⟨h.plain_frame w, Head.plain_others hk, fun p hp hwidth => ?_⟩, fun hk => done _ ?_⟩
  · have hrd := Head.rd_plain hk hx hp hwidth
    have hbits : w.val p.2 % 2 ^ p.2.width = w.val p.2 := Nat.mod_mod _ _
    cases hr : w.reaches p.1 with
    | false => simpa [hr] using hrd
    | true =>
      simp only [hr, if_true, Head.wrote] at hrd
      cases hacc : p.2.acc <;> simp only [hacc, hbits] at hrd ⊢
      case rwo =>
        refine ⟨fun hd => ?_, fun hd => ⟨?_, Head.written_plain hk hx hp hr hacc⟩⟩
        · rwa [if_pos hd] at hrd
        · rwa [if_neg (by simp [hd])] at hrd
      all_goals exact hrd
  · rw [Head.plain_refused hk]
    exact h.cfgErrAt_spec w.base

end Sys2Proof.Machine
end

section
/-! What the proofs about stream instructions share (spec/06_terdan_stream_instructions.md): how an instruction that executes and a
command on a head out of reset complete, and the writing of a result after a context has come back. -/
namespace Sys2Proof.Machine
open Reg

/-- An instruction that executes completes where the head that its own effect makes meets `P`. -/
theorem Completes.of_executes {i : Instr} {s : State} {x : Ctx} {may : Level → Bool} {f : Head → Nat → Context → Head}
    {P : Head → Prop} (e : Executes s.head x may) (hi : exec i s = s.apply (fun h => h.instr x may f))
    (hp : P (f s.head (ctxKey x) (s.head.ctx (ctxKey x)))) : Completes i s P :=
  ⟨_, by rw [hi, State.apply_live s _ e.live, Head.instr_executes e], hp⟩

/-- A command completes on a head out of reset where the head it makes meets `P`. -/
theorem Completes.of_live {i : Instr} {s : State} {f : Head → Head} {P : Head → Prop} (hr : s.head.plt.inReset = false)
    (hi : exec i s = s.apply f) (hp : P (f s.head)) : Completes i s P :=
  ⟨_, by rw [hi, State.apply_live s _ hr], hp⟩

/-- A result written for a context that was replaced at the same instant is the result of that context. -/
theorem Head.result_of_replaced (h : Head) (k : Nat) (c : Context) (rd : Fin 32) (v : Word) :
    Result (h.setCtx k c) (h.result k c rd v) k rd v := by
  refine ⟨⟨fun _ => rfl, fun _ => rfl, rfl, fun j hj => ?_⟩, fun i => ?_, ?_⟩
  · rw [Head.result, Head.ctx_setCtx_ne h _ hj, Head.ctx_setCtx_ne h _ hj]
  · simp only [Head.result, Head.ctx_setCtx, Context.next]
    exact Context.gr_setGr c rd i v
  · simp only [Head.result, Head.ctx_setCtx, Context.next, Context.setGr]
    split <;> rfl

/-- Replacing a context does that and nothing else. -/
theorem Head.setCtx_becomes (h : Head) (k : Nat) (c : Context) : OnlyContext h (h.setCtx k c) k ∧ (h.setCtx k c).ctx k = c :=
  ⟨Head.setCtx_only h k c, Head.ctx_setCtx h k c⟩

end Sys2Proof.Machine
end

section
/-! Waits for tickets, queues and epochs (R142, R169 to R171, R185). -/
namespace Sys2Proof.Machine
open Reg

section
variable {s : State} {x : Ctx} (e : Executes s.head x anyLevel) (rd rs1 rs2 : Fin 32)

/-! ### TWAIT (R142) -/

/-- The ticket that a TWAIT names: TK where its register is g0. -/
def State.ticketOf (s : State) (x : Ctx) (rs1 : Fin 32) : Word :=
  if rs1.val = 0 then (s.head.ctx (ctxKey x)).tk else s.reg x rs1

/-- The low sixteen bits of a word. -/
theorem and_ffff (w : Word) : w &&& 0xFFFF#64 = BitVec.ofNat 64 (w.toNat % 65536) := by
  apply BitVec.eq_of_toNat_eq
  have := w.isLt
  rw [BitVec.toNat_and, BitVec.toNat_ofNat, BitVec.toNat_ofNat, show (65535 % 2 ^ 64 : Nat) = 2 ^ 16 - 1 by decide,
    Nat.and_two_pow_sub_one_eq_mod]
  omega

include e

theorem twait_of_failed_ticket (ht : (s.ticketOf x rs1).getLsbD 63 = true) :
    Completes (.twait x rd rs1) s (fun t =>
      Result s.head t (ctxKey x) rd (BitVec.ofNat 64 ((s.ticketOf x rs1).toNat % 65536))) := by
  refine Completes.of_executes e rfl ?_
  unfold State.ticketOf State.reg at *
  simp only [ht, if_true, and_ffff]
  exact Head.result_spec _ _ _ _

theorem twait_of_no_job (ht : (s.ticketOf x rs1).getLsbD 63 = false) (hj : s.head.jobOf (ctxKey x) (s.ticketOf x rs1) = none) :
    Completes (.twait x rd rs1) s (fun t => Result s.head t (ctxKey x) rd 3) := by
  refine Completes.of_executes e rfl ?_
  unfold State.ticketOf State.reg at *
  simp only [ht, hj, Bool.false_eq_true, if_false]
  exact Head.result_spec _ _ _ _

theorem twait_of_running_job {n : Nat} {j : Job} (ht : (s.ticketOf x rs1).getLsbD 63 = false)
    (hj : s.head.jobOf (ctxKey x) (s.ticketOf x rs1) = some (n, j)) (hr : j.ended = none) :
    Completes (.twait x rd rs1) s (fun t => OnlyContext s.head t (ctxKey x) ∧
      t.ctx (ctxKey x) = { s.head.ctx (ctxKey x) with run := .ticket n rd.val }) := by
  refine Completes.of_executes e rfl ?_
  unfold State.ticketOf State.reg at *
  simp only [ht, hj, hr, Bool.false_eq_true, if_false]
  exact Head.setCtx_becomes _ _ _

theorem twait_of_ended_job {n st res : Nat} {j : Job} (ht : (s.ticketOf x rs1).getLsbD 63 = false)
    (hj : s.head.jobOf (ctxKey x) (s.ticketOf x rs1) = some (n, j)) (hr : j.ended = some (st, res)) :
    Completes (.twait x rd rs1) s (fun t =>
      Result { s.head with jobs := Tbl.del s.head.jobs n } t (ctxKey x) rd (jobWord st res)) := by
  refine Completes.of_executes e rfl ?_
  unfold State.ticketOf State.reg at *
  simp only [ht, hj, hr, Bool.false_eq_true, if_false]
  exact Head.result_spec { s.head with jobs := Tbl.del s.head.jobs n } _ _ _

/-! ### QWAIT (R169) -/

theorem qwait_of_absent_queue (hq : s.head.queueThere (s.reg x rs1).toNat = false) :
    Completes (.qwait x rd rs1 rs2) s (fun t => Result s.head t (ctxKey x) rd 0x17) := by
  refine Completes.of_executes e rfl ?_
  unfold State.reg at *
  simp only [hq, if_true]
  exact Head.result_spec _ _ _ _

theorem qwait_of_count_reached (hq : s.head.queueThere (s.reg x rs1).toNat = true)
    (hd : (s.reg x rs2).toNat ≤ (s.head.queue (s.reg x rs1).toNat).done) :
    Completes (.qwait x rd rs1 rs2) s (fun t => Result s.head t (ctxKey x) rd 0) := by
  refine Completes.of_executes e rfl ?_
  unfold State.reg at *
  simp only [hq, hd, Bool.true_eq_false, if_true, if_false]
  exact Head.result_spec _ _ _ _

theorem qwait_of_count_ahead (hq : s.head.queueThere (s.reg x rs1).toNat = true)
    (hd : (s.head.queue (s.reg x rs1).toNat).done < (s.reg x rs2).toNat) :
    Completes (.qwait x rd rs1 rs2) s (fun t => OnlyContext s.head t (ctxKey x) ∧ t.ctx (ctxKey x) =
      { s.head.ctx (ctxKey x) with run := .queue (s.reg x rs1).toNat (s.reg x rs2).toNat rd.val }) := by
  refine Completes.of_executes e rfl ?_
  unfold State.reg at *
  simp only [hq, Nat.not_le_of_lt hd, Bool.true_eq_false, if_false]
  exact Head.setCtx_becomes _ _ _

end

/-! ### Waits for an epoch (R171) -/

/-- The wait of a context for an epoch or for an applied epoch. -/
def waitRun (applied : Bool) (t r : Nat) : Run := if applied then .applied t r else .epoch t r

/-- The value that a wait for an epoch looks at: the epoch applied, or the current one. -/
def Head.waitsOn (h : Head) (applied : Bool) : Nat := if applied then h.applied else h.epoch

/-- The target of a wait is there: of the epoch applied, one that is an epoch. -/
def Head.targetMet (h : Head) (applied : Bool) (t : Nat) : Prop :=
  (applied = true → h.applied ≠ noEpoch) ∧ t ≤ h.waitsOn applied

theorem Head.waitValue_any_iff (h : Head) (applied : Bool) (t : Nat) :
    (h.waitValue applied).any (fun v => decide (t ≤ v)) = true ↔ h.targetMet applied t := by
  unfold Head.waitValue Head.targetMet Head.waitsOn
  cases applied
  · simp
  · by_cases ha : h.applied = noEpoch <;> simp [ha]

theorem Head.ewait_of_met {h : Head} {applied : Bool} {t : Nat} (ht : h.targetMet applied t) (k : Nat) (rd : Fin 32) :
    Result h (h.ewait k (h.ctx k) rd t applied) k rd 0 := by
  unfold Head.ewait
  rw [if_pos ((h.waitValue_any_iff applied t).mpr ht)]
  exact Head.result_spec _ _ _ _

theorem Head.ewait_of_far {h : Head} {applied : Bool} {t : Nat} (ht : h.waitsOn applied + 65536 < t) (k : Nat) (rd : Fin 32) :
    Result h (h.ewait k (h.ctx k) rd t applied) k rd 4 := by
  have hm : ¬ h.targetMet applied t := fun m => by have := m.2; omega
  unfold Head.ewait
  rw [if_neg (fun he => hm ((h.waitValue_any_iff applied t).mp he))]
  exact (if_pos ht : ite _ _ _ = _) ▸ Head.result_spec _ _ _ _

theorem Head.ewait_of_near {h : Head} {applied : Bool} {t : Nat} (hm : ¬ h.targetMet applied t)
    (ht : t ≤ h.waitsOn applied + 65536) (k : Nat) (rd : Fin 32) :
    OnlyContext h (h.ewait k (h.ctx k) rd t applied) k ∧
      (h.ewait k (h.ctx k) rd t applied).ctx k = { h.ctx k with run := waitRun applied t rd.val } := by
  unfold Head.ewait
  rw [if_neg (fun he => hm ((h.waitValue_any_iff applied t).mp he))]
  exact (if_neg (Nat.not_lt_of_le ht) : ite _ _ _ = _) ▸ Head.setCtx_becomes h k { h.ctx k with run := waitRun applied t rd.val }

/-! ### Returns (R142, R169, R171, R185) -/

section
variable {h : Head} {k : Nat}

theorem Head.twaitReturn_of_ended {n r st res : Nat} {j : Job} (hr : (h.ctx k).run = .ticket n r)
    (hj : Tbl.find h.jobs n = some j) (hd : j.ended = some (st, res)) :
    h.twaitReturn k =
      ({ h with jobs := Tbl.del h.jobs n }).result k { h.ctx k with run := .running } (Fin.ofNat 32 r) (jobWord st res) := by
  simp only [Head.twaitReturn, hr, hj, hd, Option.bind_some]

theorem Head.twaitReturn_of_running {n r : Nat} {j : Job} (hr : (h.ctx k).run = .ticket n r)
    (hj : Tbl.find h.jobs n = some j) (hd : j.ended = none) : h.twaitReturn k = h := by
  simp only [Head.twaitReturn, hr, hj, hd, Option.bind_some]

end

section
variable {s : State} {x : Ctx} (live : s.head.plt.inReset = false)
include live

theorem qwaitReturn_of_reached {q n r : Nat} (hr : (s.head.ctx (ctxKey x)).run = .queue q n r) (hd : n ≤ (s.head.queue q).done) :
    Completes (.qwaitReturn x) s (fun t => Result (s.head.setCtx (ctxKey x) { s.head.ctx (ctxKey x) with run := .running }) t
      (ctxKey x) (Fin.ofNat 32 r) 0) := by
  refine Completes.of_live live (show execQwaitReturn x s = _ from rfl) ?_
  simp only [hr, hd, if_true]
  exact Head.result_of_replaced _ _ _ _ _

theorem qwaitReturn_of_ahead {q n r : Nat} (hr : (s.head.ctx (ctxKey x)).run = .queue q n r) (hd : (s.head.queue q).done < n) :
    Completes (.qwaitReturn x) s (fun t => t = s.head) := by
  refine Completes.of_live live (show execQwaitReturn x s = _ from rfl) ?_
  simp only [hr, Nat.not_le_of_lt hd, if_false]

theorem ewaitReturn_of_not_met {applied : Bool} {t r : Nat} (hr : (s.head.ctx (ctxKey x)).run = waitRun applied t r)
    (hm : ¬ s.head.targetMet applied t) : Completes (.ewaitReturn x) s (fun u => u = s.head) := by
  refine Completes.of_live live (show execEwaitReturn x s = _ from rfl) ?_
  have hv := mt (s.head.waitValue_any_iff applied t).mp hm
  cases applied <;> simp only [waitRun, Bool.false_eq_true, if_false, if_true] at hr <;>
    simp only [hr, hv, Bool.false_eq_true, if_false]

theorem ewaitReturn_of_met {applied : Bool} {t r : Nat} (hr : (s.head.ctx (ctxKey x)).run = waitRun applied t r)
    (hm : s.head.targetMet applied t) (hw : (s.head.ctx (ctxKey x)).lib.wait = false) :
    Completes (.ewaitReturn x) s (fun u => Result (s.head.setCtx (ctxKey x) { s.head.ctx (ctxKey x) with run := .running }) u
      (ctxKey x) (Fin.ofNat 32 r) 0) := by
  refine Completes.of_live live (show execEwaitReturn x s = _ from rfl) ?_
  have hv := (s.head.waitValue_any_iff applied t).mpr hm
  cases applied <;> simp only [waitRun, Bool.false_eq_true, if_false, if_true] at hr <;>
    simp only [hr, hv, hw, Bool.false_eq_true, if_true, if_false] <;> exact Head.result_of_replaced _ _ _ _ _

theorem ewaitReturn_of_entry {applied : Bool} {t r : Nat} (hr : (s.head.ctx (ctxKey x)).run = waitRun applied t r)
    (hm : s.head.targetMet applied t) (hw : (s.head.ctx (ctxKey x)).lib.wait = true) :
    Completes (.ewaitReturn x) s (fun u => OnlyContext s.head u (ctxKey x) ∧ u.ctx (ctxKey x) = { s.head.ctx (ctxKey x) with
      run := .running, lib := { (s.head.ctx (ctxKey x)).lib with wait := false } }) := by
  refine Completes.of_live live (show execEwaitReturn x s = _ from rfl) ?_
  have hv := (s.head.waitValue_any_iff applied t).mpr hm
  cases applied <;> simp only [waitRun, Bool.false_eq_true, if_false, if_true] at hr <;>
    simp only [hr, hv, hw, if_true] <;> exact Head.setCtx_becomes _ _ _

end

/-! ### EPOCH instructions (R170) -/

/-- An EPOCH instruction that executes writes its value. -/
theorem epochValue_result {i : Instr} {s : State} {x : Ctx} {rd : Fin 32} {f : Head → Option Work → Nat}
    (e : Executes s.head x anyLevel) (hi : exec i s = s.epochValue x rd f) :
    Completes i s (fun t => Result s.head t (ctxKey x) rd
      (BitVec.ofNat 64 (f s.head ((s.head.ctx (ctxKey x)).work.bind s.head.work)))) :=
  Completes.of_executes e hi (Head.result_spec _ _ _ _)

/-- Settles O17: each wait answers at once or waits, by the one question it asks (an ended job, a count reached, a target met), and its
return asks the same question again. -/
theorem waitsForTicketsQueuesAndEpochs : Obligations.WaitsForTicketsQueuesAndEpochs := by
  unfold Obligations.WaitsForTicketsQueuesAndEpochs
  intro s x rd rs1 rs2 h k c tk r1 r2 work gives waits back stays
  have notMet {applied : Bool} {t : Nat} (hn : (applied = true ∧ h.applied = noEpoch) ∨ h.waitsOn applied < t) :
      ¬ h.targetMet applied t := fun m => hn.elim (fun a => m.1 a.1 a.2) (fun a => absurd m.2 (Nat.not_le_of_lt a))
  have current {t : Nat} (ht : t ≤ h.epoch) : h.targetMet false t := ⟨fun a => (Bool.false_ne_true a).elim, ht⟩
  refine ⟨fun e => ⟨twait_of_failed_ticket e rd rs1, twait_of_no_job e rd rs1,
      fun n j ht hj => ⟨twait_of_running_job e rd rs1 ht hj, fun st res => twait_of_ended_job e rd rs1 ht hj⟩,
      qwait_of_absent_queue e rd rs1 rs2, qwait_of_count_reached e rd rs1 rs2, qwait_of_count_ahead e rd rs1 rs2,
      fun ht => Completes.of_executes e rfl (Head.ewait_of_met (current ht) k rd),
      fun ht => Completes.of_executes e rfl (Head.ewait_of_far (applied := false) ht k rd),
      fun hc ht => Completes.of_executes e rfl (Head.ewait_of_near (notMet (applied := false) (.inr hc)) ht k rd),
      fun ha ht => Completes.of_executes e rfl (Head.ewait_of_met (applied := true) ⟨fun _ => ha, ht⟩ k rd),
      fun ht => Completes.of_executes e rfl (Head.ewait_of_far (applied := true) ht k rd),
      fun hc ht => Completes.of_executes e rfl
        (Head.ewait_of_near (notMet (applied := true) (hc.imp_left (fun a => ⟨rfl, a⟩))) ht k rd),
      ?_, ?_, epochValue_result (i := .epochApplied x rd) e (show execEpochApplied x rd s = _ from rfl)⟩,
    fun live => ⟨fun n r hr => ⟨fun j st res hj hd => ?_, fun j hj hd => ?_⟩,
      fun q n r hr => ⟨qwaitReturn_of_reached live hr, qwaitReturn_of_ahead live hr⟩,
      fun t r hr => ⟨fun ht hw => ewaitReturn_of_met live (applied := false) hr (current ht) hw,
        fun ht hw => ewaitReturn_of_entry live (applied := false) hr (current ht) hw,
        fun hc => ewaitReturn_of_not_met live (applied := false) hr (notMet (.inr hc))⟩,
      fun t r hr => ⟨fun ha ht hw => ewaitReturn_of_met live (applied := true) hr ⟨fun _ => ha, ht⟩ hw,
        fun hc => ewaitReturn_of_not_met live (applied := true) hr (notMet (hc.imp_left (fun a => ⟨rfl, a⟩)))⟩⟩⟩
  · have stamp := epochValue_result (i := .epochStamp x rd) e (show execEpochStamp x rd s = _ from rfl)
    exact (congrArg (gives (.epochStamp x rd)) (by unfold work; cases c.work.bind h.work <;> rfl)).mp stamp
  · have read := epochValue_result (i := .epochRead x rd) e (show execEpochRead x rd s = _ from rfl)
    exact (congrArg (gives (.epochRead x rd)) (by unfold work; cases c.work.bind h.work <;> rfl)).mp read
  · exact Completes.of_live live (show execTwaitReturn x s = _ from rfl)
      (Head.twaitReturn_of_ended hr hj hd ▸ Head.result_of_replaced { h with jobs := Tbl.del h.jobs n } k _ _ _)
  · exact Completes.of_live live (show execTwaitReturn x s = _ from rfl) (Head.twaitReturn_of_running hr hj hd)

end Sys2Proof.Machine
end

section
/-! Buffers (R148, R149, R442, R444, R445): what taking one from its pool and returning it do, and that neither moves a buffer. -/
namespace Sys2Proof.Machine
open Reg

/-! ### Keys and the places of buffers -/

/-- Fields at different bits of a register have different keys, wherever their registers stand. -/
theorem Field.key_ne_of_lo {f g : Field} (hf : f.lo < 64) (hg : g.lo < 64) (h : f.lo ≠ g.lo) : f.key ≠ g.key := by
  unfold Field.key
  omega

/-- The places of the buffers are given by fields that start at bit 12. -/
theorem Head.bufAddr_congr {h t : Head} (ht : ∀ p, t.rd (BLW_POOL_BASE_BASE.nth p) = h.rd (BLW_POOL_BASE_BASE.nth p)) (b : Nat) :
    t.bufAddr b = h.bufAddr b := by
  rw [Head.bufAddr, Head.bufAddr, ht]

theorem Head.rd_poolBase_wr (h : Head) {f : Field} (v : Nat) (hf : f.lo < 64) (h12 : f.lo ≠ 12) (p : Nat) :
    (h.wr f v).rd (BLW_POOL_BASE_BASE.nth p) = h.rd (BLW_POOL_BASE_BASE.nth p) :=
  Head.rd_wr_ne h f _ v (Field.key_ne_of_lo (show 12 < 64 by decide) hf (Ne.symm h12))

/-! ### Free values and bytes put -/

theorem Head.length_drawN (h : Head) (n : Nat) : (h.drawN n).1.length = n := by
  induction n generalizing h with
  | zero => rfl
  | succ n ih => simp [Head.drawN, ih]

theorem Head.drawN_frame (h : Head) (n : Nat) : (h.drawN n).2 = { h with free := (h.drawN n).2.free } := by
  induction n generalizing h with
  | zero => rfl
  | succ n ih => simpa [Head.drawN, Head.draw] using ih { h with free := h.free + 1 }

/-- Drawing free bytes changes the counter of free values alone. -/
theorem Head.drawBytes_frame (h : Head) (n : Nat) : (h.drawBytes n).2 = { h with free := (h.drawBytes n).2.free } :=
  h.drawN_frame _

theorem length_flatMap_words (ws : List Word) : (ws.flatMap (fun w => toBytes 8 w.toNat)).length = 8 * ws.length := by
  induction ws with
  | nil => rfl
  | cons w ws ih => simp [ih]; omega

@[simp] theorem Head.length_drawBytes (h : Head) (n : Nat) : (h.drawBytes n).1.length = n := by
  have : n ≤ 8 * ceilDiv n 8 := by unfold ceilDiv; omega
  simp only [Head.drawBytes, List.length_take, length_flatMap_words, Head.length_drawN]
  omega

/-- What drawing free bytes gives: as many as asked for, the counter of free values alone being changed. -/
theorem Head.drawBytes_spec (h : Head) (n : Nat) :
    ∃ b t, h.drawBytes n = (b, t) ∧ b.length = n ∧ t = { h with free := t.free } :=
  ⟨_, _, rfl, h.length_drawBytes n, h.drawBytes_frame n⟩

/-- Bytes put to memory leave every other byte. -/
theorem Head.put_memory (h : Head) (a : Nat) (b : List Byte) : SameMemoryBut h (h.put a b) a b.length :=
  fun _ hc => Memory.read_writeAll_out b h.mem a _ hc

/-! ### Pools (R444, R445) -/

/-- Only register fields changed, and no buffer moved. -/
def ShowsOnly (h t : Head) : Prop :=
  t = { h with fields := t.fields } ∧ ∀ p, t.rd (BLW_POOL_BASE_BASE.nth p) = h.rd (BLW_POOL_BASE_BASE.nth p)

theorem ShowsOnly.wr (h : Head) {f : Field} (v : Nat) (hf : f.lo < 64) (h12 : f.lo ≠ 12) : ShowsOnly h (h.wr f v) :=
  ⟨rfl, h.rd_poolBase_wr v hf h12⟩

theorem ShowsOnly.trans {h t u : Head} (a : ShowsOnly h t) (b : ShowsOnly t u) : ShowsOnly h u := by
  refine ⟨?_, fun p => (b.2 p).trans (a.2 p)⟩
  rw [b.1, a.1]

theorem Head.showPool_shows (h : Head) (p : Nat) : ShowsOnly h (h.showPool p) := by
  have free : ShowsOnly h (h.wr (BLW_POOL_STS_FREE.nth p) (h.poolFree p)) :=
    .wr h _ (show 0 < 64 by decide) (show 0 ≠ 12 by decide)
  unfold Head.showPool
  dsimp only
  split
  · exact free.trans (.wr _ _ (show 21 < 64 by decide) (show 21 ≠ 12 by decide))
  · exact free

/-- The buffer an allocation of a pool takes: the newest freed one, else the next never given out. -/
def Head.nextBuffer (h : Head) (p : Nat) : Nat := p * 2 ^ 20 + (h.pool p).freed.headD (h.pool p).next

/-- What an allocation or a return changed: registers that show pools, pools and owners, and no buffer moved. -/
structure PoolChanged (h t : Head) : Prop where
  frame : t = { h with fields := t.fields, pools := t.pools, owners := t.owners }
  places : ∀ b, t.bufAddr b = h.bufAddr b

theorem PoolChanged.of_shown {h : Head} {pools : Tbl Pool} {owners : Tbl Nat} {p : Nat} :
    PoolChanged h (({ h with pools := pools, owners := owners } : Head).showPool p) := by
  obtain ⟨frame, places⟩ := Head.showPool_shows { h with pools := pools, owners := owners } p
  exact ⟨by rw [frame], Head.bufAddr_congr places⟩

theorem Head.pool_showPool (h : Head) (p q : Nat) : (h.showPool p).pool q = h.pool q := by
  rw [Head.pool, (h.showPool_shows p).1]
  rfl

theorem Head.owners_showPool (h : Head) (p : Nat) : (h.showPool p).owners = h.owners := by
  rw [(h.showPool_shows p).1]

theorem Head.pool_set (h : Head) (owners : Tbl Nat) (p : Nat) (x : Pool) :
    ({ h with pools := Tbl.set Pool.fresh h.pools p x, owners := owners } : Head).pool p = x := by
  simp [Head.pool]

/-- A pool after a class has taken its next buffer. -/
def Pool.afterTaking (x : Pool) (c : Nat) : Pool :=
  let y := if x.freed = [] then { x with next := x.next + 1 } else { x with freed := x.freed.tail }
  y.setUse c (y.useOf c + 1)

theorem Pool.freed_afterTaking (x : Pool) (c : Nat) : (x.afterTaking c).freed = x.freed.tail := by
  unfold Pool.afterTaking
  cases x.freed <;> simp [Pool.setUse]

theorem Head.allocIn_eq {h : Head} {p c : Nat} (hc : h.allocCheck p c = none) :
    h.allocIn p c = (.buffer (h.nextBuffer p), ({ h with pools := Tbl.set Pool.fresh h.pools p ((h.pool p).afterTaking c),
                                                         owners := Tbl.put h.owners (h.nextBuffer p) c } : Head).showPool p) := by
  unfold Head.allocIn Head.nextBuffer Pool.afterTaking
  cases hf : (h.pool p).freed <;> simp [hc, hf]

/-- An allocation that the rule of R444 lets proceed takes the pool's next buffer for the class. -/
theorem Head.allocIn_taken {h : Head} {p c : Nat} (hc : h.allocCheck p c = none) :
    ∃ t, h.allocIn p c = (.buffer (h.nextBuffer p), t) ∧ PoolChanged h t ∧
      Tbl.find t.owners (h.nextBuffer p) = some c ∧ (t.pool p).freed = (h.pool p).freed.tail := by
  refine ⟨_, Head.allocIn_eq hc, .of_shown, ?_, ?_⟩
  · rw [Head.owners_showPool]; exact Tbl.find_put_self _ _ _
  · rw [Head.pool_showPool, Head.pool_set, Pool.freed_afterTaking]

/-- An allocation that does not proceed is counted and changes nothing else. -/
theorem Head.allocIn_refused {h : Head} {p c : Nat} {a : AllocAnswer} (hc : h.allocCheck p c = some a) :
    h.allocIn p c = (a, h.bump (BLW_POOL_STS_FAILS.nth p) 1) := by
  unfold Head.allocIn
  rw [hc]

/-- A returned buffer is its pool's newest freed one and has no owner. -/
theorem Head.freeBuf_spec (h : Head) (b : Nat) : PoolChanged h (h.freeBuf b) ∧
    Tbl.find (h.freeBuf b).owners b = none ∧
    ((h.freeBuf b).pool (bufPool b)).freed = bufIndex b :: (h.pool (bufPool b)).freed := by
  unfold Head.freeBuf
  refine ⟨.of_shown, ?_, ?_⟩
  · rw [Head.owners_showPool]; exact Tbl.find_del_self _ _
  · rw [Head.pool_showPool, Head.pool_set]
    cases Tbl.find h.owners b <;> rfl

/-! ### BGET (R148) -/

section
variable {h : Head} {k n p : Nat} {c : Context}

theorem Head.bget_of_bad_length (hn : n = 0 ∨ 4194304 < n) : h.bget k c n = (4, none, h) := if_pos hn

theorem Head.bget_of_no_pool (h0 : 0 < n) (h4 : n ≤ 4194304) (hp : h.poolFor n = none) : h.bget k c n = (1, none, h) := by
  unfold Head.bget
  rw [if_neg (by omega), hp]
  rfl

theorem Head.bget_refused (h0 : 0 < n) (h4 : n ≤ 4194304) (hp : h.poolFor n = some p) {a : AllocAnswer} {st : Nat}
    (ha : h.allocCheck p (h.classOf k c) = some a) (hs : (a = .poolEmpty ∧ st = 1) ∨ (a = .poolReserved ∧ st = 0x1C)) :
    h.bget k c n = (st, none, h.bump (BLW_POOL_STS_FAILS.nth p) 1) := by
  unfold Head.bget
  rw [if_neg (by omega), hp]
  dsimp only
  rw [Head.allocIn_refused ha]
  obtain ⟨rfl, rfl⟩ | ⟨rfl, rfl⟩ := hs <;> rfl

/-- A buffer is taken: it is of the length asked for, its bytes are free, and no other byte changed. -/
theorem Head.bget_taken (h0 : 0 < n) (h4 : n ≤ 4194304) (hp : h.poolFor n = some p)
    (ha : h.allocCheck p (h.classOf k c) = none) :
    ∃ t, h.bget k c n = (0, some (h.nextBuffer p), t) ∧ t.lenOf (h.nextBuffer p) = n ∧
      Tbl.find t.owners (h.nextBuffer p) = some (h.classOf k c) ∧ (t.pool p).freed = (h.pool p).freed.tail ∧
      SameMemoryBut h t (h.bufAddr (h.nextBuffer p)) (poolSize p) ∧ t.ctxs = h.ctxs := by
  obtain ⟨g, hg, ⟨frame, places⟩, owner, freed⟩ := Head.allocIn_taken ha
  obtain ⟨bytes, u, hu, len, drawn⟩ := g.drawBytes_spec (poolSize p)
  have eq : h.bget k c n = (0, some (h.nextBuffer p), (u.put (u.bufAddr (h.nextBuffer p)) bytes).setLen (h.nextBuffer p) n) := by
    unfold Head.bget
    rw [if_neg (by omega), hp]
    simp only [hg, hu, rsOk]
  have place : u.bufAddr (h.nextBuffer p) = h.bufAddr (h.nextBuffer p) := by rw [drawn]; exact places _
  refine ⟨_, eq, Tbl.get_set_self _ _ _ _, ?_, ?_, fun a ha => ?_, ?_⟩
  · change Tbl.find u.owners _ = _
    rw [drawn]
    exact owner
  · change (u.pool p).freed = _
    rw [drawn]
    exact freed
  · have same : u.byte a = h.byte a := by rw [drawn, frame]; rfl
    rw [← place, ← len] at ha
    exact (u.put_memory _ _ a ha).trans same
  · change u.ctxs = h.ctxs
    rw [drawn, frame]

end

/-! ### BPUT (R91, R149) -/

/-- A buffer is returned through a handle that names it: it goes to its pool, and memory and LENGTH stay. -/
theorem Head.bput_buffer (h : Head) (k : Nat) (c : Context) (b : Nat) :
    ∃ t, h.bput k c (.buffer b) = some (t, { c with bufs := c.bufs.erase b }) ∧ t.ctxs = h.ctxs ∧ t.lenOf b = h.lenOf b ∧
      Tbl.find t.owners b = none ∧ (t.pool (bufPool b)).freed = bufIndex b :: (h.pool (bufPool b)).freed ∧ SameMemory h t := by
  have eq : h.bput k c (.buffer b) = some ((h.freeBuf b).disown (c.work.getD 0) [b], { c with bufs := c.bufs.erase b }) := rfl
  have spec := h.freeBuf_spec b
  generalize h.freeBuf b = g at eq spec
  obtain ⟨⟨frame, -⟩, owner, freed⟩ := spec
  refine ⟨_, eq, ?_, ?_, owner, freed, fun a => ?_⟩
  · change g.ctxs = h.ctxs
    rw [frame]
  · change g.lenOf b = h.lenOf b
    rw [frame]
    rfl
  · change g.byte a = h.byte a
    rw [frame]
    rfl

/-! ### The instructions -/

theorem Head.ctx_congr {h t : Head} (ht : t.ctxs = h.ctxs) (k : Nat) : t.ctx k = h.ctx k := by rw [Head.ctx, ht]; rfl

/-- What a result leaves of a context that was given a handle and other buffers at the same instant. -/
theorem Head.result_of_handle {h t : Head} (ht : t.ctxs = h.ctxs) (k : Nat) (rd : Fin 32) (v : Word) (ha : Fin 8) (x : Handle)
    (bufs : List Nat) :
    let u := t.result k ({ (h.ctx k).setHr ha x with bufs := bufs }) rd v
    (∀ i, (u.ctx k).gr i = if i = rd ∧ rd.val ≠ 0 then v else (h.ctx k).gr i) ∧
      (∀ j, (u.ctx k).hr j = if j = ha then x else (h.ctx k).hr j) ∧ (u.ctx k).bufs = bufs ∧ (u.ctx k).pc = (h.ctx k).pc + 4 ∧
      ∀ j, j ≠ k → u.ctx j = h.ctx j := by
  intro u
  have e : u.ctx k = (({ (h.ctx k).setHr ha x with bufs := bufs } : Context).setGr rd v).next := Head.ctx_setCtx _ _ _
  refine ⟨fun i => ?_, fun j => ?_, ?_, ?_, fun j hj => (Head.ctx_setCtx_ne t _ hj).trans (Head.ctx_congr ht j)⟩
  · rw [e]
    exact Context.gr_setGr ({ (h.ctx k).setHr ha x with bufs := bufs }) rd i v
  · refine Eq.trans ?_ (Context.hr_setHr (h.ctx k) ha j x)
    rw [e, Context.next, Context.setGr]
    split <;> rfl
  · rw [e, Context.next, Context.setGr]
    split <;> rfl
  · rw [e, Context.next, Context.setGr]
    split <;> rfl

/-- A BGET that executes gives the status, and the buffer where there is one. -/
theorem bget_completes {s : State} {x : Ctx} (e : Executes s.head x anyLevel) (rd rs : Fin 32) (ha : Fin 8) {P : Head → Prop}
    {st : Nat} {o : Option Nat} {t : Head}
    (hb : s.head.bget (ctxKey x) (s.head.ctx (ctxKey x)) (s.reg x rs).toNat = (st, o, t))
    (hp : P (t.result (ctxKey x) (o.elim (s.head.ctx (ctxKey x)) (fun b =>
      { (s.head.ctx (ctxKey x)).setHr ha (.buffer b) with bufs := b :: (s.head.ctx (ctxKey x)).bufs })) rd (BitVec.ofNat 64 st))) :
    Completes (.bget x rd rs ha) s P := by
  refine Completes.of_executes e rfl ?_
  rw [State.reg] at hb
  simp only [hb]
  cases o <;> exact hp

/-- A BGET that gives no buffer counts the refusal and writes its status. -/
theorem bget_refused_completes {s : State} {x : Ctx} (e : Executes s.head x anyLevel) (rd rs : Fin 32) (ha : Fin 8) {st p : Nat}
    (hb : s.head.bget (ctxKey x) (s.head.ctx (ctxKey x)) (s.reg x rs).toNat =
      (st, none, s.head.bump (BLW_POOL_STS_FAILS.nth p) 1)) :
    Completes (.bget x rd rs ha) s (fun t =>
      (∀ i, (t.ctx (ctxKey x)).gr i = if i = rd ∧ rd.val ≠ 0 then BitVec.ofNat 64 st else (s.head.ctx (ctxKey x)).gr i) ∧
        SameMemory s.head t ∧ t.pools = s.head.pools ∧
        t.ctx (ctxKey x) = { s.head.ctx (ctxKey x) with g := (t.ctx (ctxKey x)).g, pc := (s.head.ctx (ctxKey x)).pc + 4 }) := by
  obtain ⟨-, gr, rest⟩ := (s.head.bump (BLW_POOL_STS_FAILS.nth p) 1).result_spec (ctxKey x) rd (BitVec.ofNat 64 st)
  exact bget_completes e rd rs ha hb ⟨gr, fun _ => rfl, rfl, rest⟩

/-- Settles O18: BGET by what the rule of R444 answers for the smallest pool that holds the length, BPUT by the return of R445. -/
theorem buffersAreTakenAndReturned : Obligations.BuffersAreTakenAndReturned := by
  unfold Obligations.BuffersAreTakenAndReturned
  intro s x rd rs ha h k c n cls g e
  refine ⟨fun hn => ?_, fun h0 h4 hp => ?_, fun p h0 h4 hp => ⟨fun hc => ?_, fun hc => ?_, fun hc => ?_⟩, fun b hb => ?_⟩
  · exact bget_completes e rd rs ha (Head.bget_of_bad_length hn) (Head.result_spec h k rd _)
  · exact bget_completes e rd rs ha (Head.bget_of_no_pool h0 h4 hp) (Head.result_spec h k rd _)
  · obtain ⟨t, ht, len, owner, freed, mem, ctxs⟩ := Head.bget_taken (c := c) h0 h4 hp hc
    obtain ⟨gr, hr, bufs, pc, others⟩ :=
      Head.result_of_handle ctxs k rd (BitVec.ofNat 64 0) ha (.buffer (h.nextBuffer p)) (h.nextBuffer p :: c.bufs)
    exact bget_completes e rd rs ha ht ⟨gr, hr, bufs, pc, len, owner, freed, mem, others⟩
  · exact bget_refused_completes e rd rs ha (Head.bget_refused h0 h4 hp hc (.inl ⟨rfl, rfl⟩))
  · exact bget_refused_completes e rd rs ha (Head.bget_refused h0 h4 hp hc (.inr ⟨rfl, rfl⟩))
  · obtain ⟨t, ht, ctxs, len, owner, freed, mem⟩ := h.bput_buffer k c b
    obtain ⟨gr, hr, bufs, pc, others⟩ := Head.result_of_handle ctxs k rd (BitVec.ofNat 64 0) ha .empty (c.bufs.erase b)
    refine Completes.of_executes e rfl ?_
    rw [hb, ht]
    exact ⟨gr, hr, bufs, pc, len, owner, freed, mem, others⟩

end Sys2Proof.Machine
end

section
/-! A posting on the send queue of a connection in the error state (R168, R389, R394). -/
namespace Sys2Proof.Machine
open Reg

/-- What a command completes with twice holds of one head. -/
theorem Completes.both {i : Instr} {s : State} {P Q : Head → Prop} (a : Completes i s P) (b : Completes i s Q) :
    ∃ t, P t ∧ Q t := by
  obtain ⟨t, ht, hp⟩ := a
  obtain ⟨u, hu, hq⟩ := b
  have same : t = u := congrArg State.head (Host.Outcome.next.inj (ht.symm.trans hu))
  exact ⟨t, hp, same ▸ hq⟩

/-! ### The state -/

/-- The send queue of connection 16. -/
def sendQueue16 : Nat := 0x9010

/-- A control core at level S in its local memory: h0 is a buffer, g1 the number of the send queue of connection 16. -/
def poster : Context :=
  { Context.fresh .s .running with
    pc := 0x10000000, g := (Context.fresh .s .running).g.set 1 (BitVec.ofNat 64 sendQueue16),
    h := (Context.fresh .s .running).h.set 0 (.buffer 0x400000) }

/-- The head after reset with control core 3 about to post, its buffer of 64 bytes, and connection 16 in the error state (R394). -/
def connectionInError : Head :=
  ({ State.reset.head with
      lens := [(0x400000, 64)],
      sd := { State.reset.head.sd with conns := [(16, { Conn.reset with state := 2 })] } } : Head).setCtx 3 poster

theorem connectionInError_executes : Executes connectionInError (.core 3) notC := by
  unfold Executes
  decide +kernel

theorem connectionInError_record :
    connectionInError.readRecord (.buffer 0x400000) 0 = (.ok (List.replicate 64 0), connectionInError) := by rfl

/-- The entry completes at once: none waits on the queue afterwards. -/
theorem qpost_in_error_leaves_nothing_waiting :
    Completes (.qpost (.core 3) 5 1 2 0) { pending := [], head := connectionInError } (fun t =>
      (t.queue sendQueue16).waiting = []) :=
  Completes.of_executes connectionInError_executes rfl (by decide +kernel)

/-- Refutes O19: an entry posted on the send queue of a connection in the error state completes at once (R394), so it does not wait
last: connection 16 is in that state, and after the posting its queue has no entry waiting. -/
theorem not_intentsAndQueueEntries : ¬ Obligations.IntentsAndQueueEntries := by
  unfold Obligations.IntentsAndQueueEntries
  intro claim
  obtain ⟨-, posts⟩ := claim { pending := [], head := connectionInError } (.core 3) 5 1 2 0 (List.replicate 64 0)
  obtain ⟨-, -, posted⟩ := posts connectionInError_executes connectionInError_record
  obtain ⟨t, ⟨-, -, lists, -⟩, none⟩ :=
    (posted (by decide +kernel) (by decide +kernel) (by decide +kernel)).both qpost_in_error_leaves_nothing_waiting
  obtain ⟨-, ok, last⟩ := lists (.inr (by decide +kernel))
  exact absurd (none.symm.trans last) (by simp)

end Sys2Proof.Machine
end

section
/-! What leaves every context and every job as it was: the records, the registers, and the front complex as it answers a host and
returns what a command held (R99, R149, R161, R172, R345). -/
namespace Sys2Proof.Machine
open Reg

/-! ### The relation -/

/-- Every context and every job is as before. -/
structure RunsKept (h t : Head) : Prop where
  ctxs : t.ctxs = h.ctxs
  jobs : t.jobs = h.jobs
  nextJob : t.nextJob = h.nextJob

theorem RunsKept.refl (h : Head) : RunsKept h h := ⟨rfl, rfl, rfl⟩

theorem RunsKept.trans {h t u : Head} (a : RunsKept h t) (b : RunsKept t u) : RunsKept h u :=
  ⟨b.ctxs.trans a.ctxs, b.jobs.trans a.jobs, b.nextJob.trans a.nextJob⟩

theorem RunsKept.of_notes {h t : Head} (a : OnlyNotes h t) : RunsKept h t := by
  obtain ⟨-, frame⟩ := a
  exact ⟨by rw [frame], by rw [frame], by rw [frame]⟩

theorem RunsKept.wr (h : Head) (f : Field) (v : Nat) : RunsKept h (h.wr f v) := ⟨rfl, rfl, rfl⟩

theorem RunsKept.put (h : Head) (a : Nat) (b : List Byte) : RunsKept h (h.put a b) := ⟨rfl, rfl, rfl⟩

theorem RunsKept.post (h : Head) (source code : Nat) {sev : Nat} (hs : sev < 4) (p0 p1 p2 p3 : Nat) :
    RunsKept h (h.post source code sev p0 p1 p2 p3) := .of_notes (Head.post_notes h source code hs p0 p1 p2 p3)

theorem RunsKept.foldl {α : Type} {f : Head → α → Head} (hf : ∀ h a, RunsKept h (f h a)) (l : List α) (h : Head) :
    RunsKept h (l.foldl f h) := by
  induction l generalizing h with
  | nil => exact .refl h
  | cons a l ih => exact (hf h a).trans (ih (f h a))

/-- Every context, job, unit of work and queue is as before. -/
structure WorkKept (h t : Head) : Prop extends RunsKept h t where
  works : t.works = h.works
  queues : t.queues = h.queues

theorem WorkKept.refl (h : Head) : WorkKept h h := ⟨.refl h, rfl, rfl⟩

theorem WorkKept.trans {h t u : Head} (a : WorkKept h t) (b : WorkKept t u) : WorkKept h u :=
  ⟨a.toRunsKept.trans b.toRunsKept, b.works.trans a.works, b.queues.trans a.queues⟩

theorem WorkKept.of_notes {h t : Head} (a : OnlyNotes h t) : WorkKept h t :=
  ⟨.of_notes a, by rw [a.2], by rw [a.2]⟩

theorem WorkKept.wr (h : Head) (f : Field) (v : Nat) : WorkKept h (h.wr f v) := ⟨.wr h f v, rfl, rfl⟩

theorem WorkKept.foldl {α : Type} {f : Head → α → Head} (hf : ∀ h a, WorkKept h (f h a)) (l : List α) (h : Head) :
    WorkKept h (l.foldl f h) := by
  induction l generalizing h with
  | nil => exact .refl h
  | cons a l ih => exact (hf h a).trans (ih (f h a))

/-! ### Buffers and units of work -/

theorem Head.freeBuf_work (h : Head) (b : Nat) : WorkKept h (h.freeBuf b) := by
  obtain ⟨⟨frame, -⟩, -⟩ := h.freeBuf_spec b
  exact ⟨⟨by rw [frame], by rw [frame], by rw [frame]⟩, by rw [frame], by rw [frame]⟩

theorem Head.dropBufs_work (h : Head) (bs : List Nat) : WorkKept h (h.dropBufs bs) := .foldl Head.freeBuf_work bs h

theorem Head.updWork_runs (h : Head) (w : Nat) (f : Work → Work) : RunsKept h (h.updWork w f) := ⟨rfl, rfl, rfl⟩

/-- A unit of work that leaves is no longer there; contexts, jobs and queues stay. -/
theorem Head.retireWork_spec (h : Head) (w : Nat) :
    RunsKept h (h.retireWork w) ∧ (h.retireWork w).work w = none ∧ (h.retireWork w).queues = h.queues := by
  unfold Head.retireWork
  split
  · next hw => exact ⟨.refl h, hw, rfl⟩
  · next x _ =>
    extract_lets g u
    have dropped : WorkKept h g := h.dropBufs_work _
    have counted : WorkKept g u := by
      unfold u
      split
      · exact .wr _ _ _
      · exact .refl g
    obtain ⟨⟨ctxs, jobs, nextJob⟩, -, queues⟩ := dropped.trans counted
    exact ⟨⟨ctxs, jobs, nextJob⟩, Tbl.find_del_self _ _, queues⟩

theorem Head.retireWork_runs (h : Head) (w : Nat) : RunsKept h (h.retireWork w) := (h.retireWork_spec w).1

theorem Head.releaseSeal_runs (h : Head) (e : Nat) : RunsKept h (h.releaseSeal e) := ⟨rfl, rfl, rfl⟩

theorem Head.watch_work (h : Head) (w : Nat) : WorkKept h (h.watch w) := by
  unfold Head.watch
  extract_lets q
  split
  · exact (WorkKept.wr _ _ _).trans (.wr _ _ _)
  · exact .refl h

/-- The completion count of a queue advances by one; contexts, jobs and units of work stay. -/
theorem Head.queueDone_spec (h : Head) (q : Nat) :
    RunsKept h (h.queueDone q) ∧ (h.queueDone q).works = h.works ∧ ((h.queueDone q).queue q).done = (h.queue q).done + 1 := by
  have watched := WorkKept.foldl Head.watch_work (List.range 32) (h.setQueue q { h.queue q with done := (h.queue q).done + 1 })
  refine ⟨⟨watched.ctxs, watched.jobs, watched.nextJob⟩, watched.works, ?_⟩
  rw [Head.queueDone, Head.queue, watched.queues, Head.setQueue, Tbl.get, Tbl.find_put_self]
  rfl

theorem Head.queueDone_runs (h : Head) (q : Nat) : RunsKept h (h.queueDone q) := (h.queueDone_spec q).1

/-! ### Answers to a host (R345, R349) -/

theorem Head.postOp_runs (h : Head) (n : Nat) (op : QpOp) (npsn : Nat) (msg : Nat → RoceOut) :
    RunsKept h (h.postOp n op npsn msg) := by
  unfold Head.postOp
  split
  · exact .refl h
  · split
    · exact .refl h
    · exact ⟨rfl, rfl, rfl⟩

theorem Head.writeKeys_runs (n : Nat) (keys : List (Nat × Nat × Nat)) (h : Head) (off : Nat) (data : List Byte) :
    RunsKept h (h.writeKeys n off data keys) := by
  induction keys generalizing h off data with
  | nil => exact .refl h
  | cons e t ih =>
    obtain ⟨key, addr, len⟩ := e
    simp only [Head.writeKeys]
    split
    · exact .refl h
    · split
      · exact ih h _ _
      · exact (Head.postOp_runs h _ _ _ _).trans (ih _ _ _)

theorem Head.commandFrame_runs (h : Head) (x : Work) (status : Nat) : RunsKept h (h.commandFrame x status) := by
  unfold Head.commandFrame
  dsimp only
  split
  · exact .refl h
  · exact .of_notes (Head.trace_notes _ _ _)

theorem Head.respond_runs (h : Head) (w status : Nat) : RunsKept h (h.respond w status) := by
  unfold Head.respond
  split
  · exact .refl h
  · next x _ =>
    split
    · exact Head.retireWork_runs _ _
    · next q _ =>
      extract_lets inval g r
      have sent : RunsKept h g := by
        unfold g
        split
        · exact .refl h
        · exact (Head.commandFrame_runs _ _ _).trans (Head.postOp_runs _ _ _ _ _)
      have retired : RunsKept h r := sent.trans (Head.retireWork_runs _ _)
      split
      · next acid c _ _ =>
        extract_lets u
        exact (retired.trans (t := r) (u := u) ⟨rfl, rfl, rfl⟩).trans (Head.postOp_runs _ _ _ _ _)
      · exact retired

theorem Head.respondReady_runs (h : Head) (q : Nat) : RunsKept h (h.respondReady q) := by
  unfold Head.respondReady
  split
  · exact .refl h
  · refine .foldl (fun g e => ?_) _ _
    split
    · split
      · exact Head.respond_runs _ _ _
      · exact .refl g
    · exact .refl g

theorem Head.sendAnswer_runs (h : Head) (w status : Nat) (data : List Byte) : RunsKept h (h.sendAnswer w status data) := by
  unfold Head.sendAnswer
  split
  · exact .refl h
  · next x _ =>
    split
    · exact .refl h
    · next q _ =>
      extract_lets g after
      have written : RunsKept h g := by
        unfold g
        split
        · exact .refl h
        · exact Head.writeKeys_runs _ _ _ _ _
      exact written.trans ((Head.updWork_runs _ _ _).trans (Head.respondReady_runs _ _))

theorem Head.raise_runs (h : Head) (core bit : Nat) : RunsKept h (h.raise core bit) := .wr _ _ _

theorem Head.hold_runs (h : Head) (w kind : Nat) : RunsKept h (h.hold w kind) := by
  unfold Head.hold
  split
  · exact .refl h
  · extract_lets g
    have posted : RunsKept h g := (RunsKept.wr h _ _).trans (RunsKept.post _ _ _ (by decide) _ _ _ _)
    exact posted.trans (Head.sendAnswer_runs _ _ _ _)
  · next s _ _ =>
    extract_lets a b c d
    exact RunsKept.trans (t := d) ⟨rfl, rfl, rfl⟩ ((RunsKept.wr d _ _).trans (Head.raise_runs _ _ _))

theorem Head.releaseWrites_runs (h : Head) : RunsKept h h.releaseWrites := by
  refine .foldl (fun g e => ?_) _ _
  split
  · exact Head.sendAnswer_runs _ _ _ _
  · exact .refl g

/-! ### Ends of units of work (R56, R61, R99, R172) -/

theorem Head.deliver_runs (h : Head) (w s : Nat) (data : List Byte) : RunsKept h (h.deliver w s data) := by
  unfold Head.deliver
  split
  · exact .refl h
  · next x _ =>
    split
    · exact (Head.retireWork_runs _ _).trans (Head.queueDone_runs _ _)
    · extract_lets g u
      have sealed_ : RunsKept h g := by
        unfold g
        split
        · exact Head.releaseSeal_runs _ _
        · exact .refl h
      have told : RunsKept h u := sealed_.trans (Head.updWork_runs _ _ _)
      split
      · exact told.trans (Head.retireWork_runs _ _)
      · split
        · exact told.trans ((Head.updWork_runs _ _ _).trans (Head.releaseWrites_runs _))
        · split
          · exact told.trans (Head.hold_runs _ _ _)
          · exact told.trans (Head.sendAnswer_runs _ _ _ _)

theorem Head.deliver_background {h : Head} {w cls n : Nat} {x : Work} (hx : h.work w = some x) (hf : x.from_ = .background cls n)
    (s : Nat) (data : List Byte) : h.deliver w s data = (h.retireWork w).queueDone (0xFF00 + cls) := by
  unfold Head.deliver
  simp only [hx, hf]

theorem Head.abandon_runs (h : Head) (w s : Nat) : RunsKept h (h.abandon w s) := by
  unfold Head.abandon
  split
  · exact .refl h
  · split
    · exact Head.retireWork_runs _ _
    · exact Head.deliver_runs _ _ _ _

theorem Head.deliverNvme_runs (h : Head) (w status : Nat) : RunsKept h (h.deliverNvme w status) := by
  unfold Head.deliverNvme
  split
  · exact .refl h
  · refine .trans ?_ (Head.sendAnswer_runs _ _ _ _)
    split
    · exact Head.releaseSeal_runs _ _
    · exact .refl h

/-! ### Allocations and intents (R53, R54, R161, R166) -/

theorem Head.showIds_work (h : Head) : WorkKept h h.showIds := by
  unfold Head.showIds
  extract_lets n low g u
  have shown : WorkKept h u := (((WorkKept.wr _ _ _).trans (.wr _ _ _)).trans (.wr _ _ _)).trans (.wr _ _ _)
  clear_value u
  split
  · exact shown
  · split
    · exact shown.trans ⟨⟨rfl, rfl, rfl⟩, rfl, rfl⟩
    · split
      · have armed : WorkKept u (({ u with idLowPosted := true } : Head).wr CX_ERR_IDLOW 1) := ⟨⟨rfl, rfl, rfl⟩, rfl, rfl⟩
        exact (shown.trans armed).trans (.of_notes (Head.post_notes _ _ _ (by decide) _ _ _ _))
      · exact shown

theorem Head.releaseAlloc_work (h : Head) (w : Nat) : WorkKept h (h.releaseAlloc w) := by
  unfold Head.releaseAlloc
  extract_lets mine
  exact WorkKept.trans (t := { h with
    inflight := h.inflight.filter (fun e => e.owner ≠ w),
    pendingIds := h.pendingIds.filter (fun i => ¬ mine.contains i) }) ⟨⟨rfl, rfl, rfl⟩, rfl, rfl⟩ (Head.showIds_work _)

theorem Head.sendIntents_notes (h : Head) (rs : List Rec64) : OnlyNotes h (h.sendIntents rs) :=
  .foldl _ (fun h _ => Head.sendTwin_notes h _) _ _

theorem Head.recordIntents_work (h : Head) (e : Nat) (rs : List Rec64) : WorkKept h (h.recordIntents e rs) := by
  unfold Head.recordIntents
  split
  · exact .refl h
  · extract_lets x
    exact WorkKept.trans (t := h.setEpochSt e { x with own := x.own ++ rs }) ⟨⟨rfl, rfl, rfl⟩, rfl, rfl⟩
      (.of_notes (Head.sendIntents_notes _ _))

theorem Head.recordList_work (h : Head) (x : Work) (rs : List Rec64) : WorkKept h (h.recordList x rs) := by
  unfold Head.recordList
  split
  · exact Head.recordIntents_work _ _ _
  · exact .foldl (fun g r => Head.recordIntents_work g _ _) _ _

/-! ### Lines that cannot be read (R439) -/

/-- The fields that the log of an error in DRAM fills. -/
def elogFields : List Field :=
  [MEM_ELOG0_ADDR, MEM_ELOG0_UNC, MEM_ELOG1_CHAN, MEM_ELOG1_SUB, MEM_ELOG1_RANK, MEM_ELOG1_BG, MEM_ELOG1_BA, MEM_ELOG1_ROW,
    MEM_ELOG1_COL, MEM_ELOG1_DEV]

/-- An error is logged in those fields, or the log is kept. -/
theorem Head.logLine_cases (h : Head) (n : Nat) (unc : Bool) (dev : Nat) :
    h.logLine n unc dev = h ∨ ∃ l : List (Field × Nat), l.map (·.1) = elogFields ∧ h.logLine n unc dev = h.wrList l := by
  unfold Head.logLine
  split
  · exact .inl rfl
  · extract_lets p
    exact .inr ⟨[(_, lineAddr n), (_, unc.toNat), (_, p.chan), (_, p.sub), (_, p.rank), (_, p.bg), (_, p.ba), (_, p.row), (_, p.col),
      (_, dev)], rfl, rfl⟩

theorem Head.logLine_runs (h : Head) (n : Nat) (unc : Bool) (dev : Nat) : RunsKept h (h.logLine n unc dev) := by
  obtain e | ⟨l, -, e⟩ := h.logLine_cases n unc dev
  · rw [e]
    exact .refl h
  · rw [e, Head.wrList_frame]
    exact ⟨rfl, rfl, rfl⟩

theorem Head.uncorrAccess_runs (h : Head) (n who : Nat) : RunsKept h (h.uncorrAccess n who) := by
  unfold Head.uncorrAccess
  extract_lets poisoned g u
  have logged : RunsKept h g := Head.logLine_runs h n true 15
  exact (logged.trans (u := u) ⟨rfl, rfl, rfl⟩).trans (RunsKept.post _ _ _ (by decide) _ _ _ _)

theorem Head.meetBad_runs (h : Head) (who : Nat) (ls : List Nat) : RunsKept h (h.meetBad who ls) :=
  .foldl (fun g n => Head.uncorrAccess_runs g n who) _ _

end Sys2Proof.Machine
end

section
/-! The end of a recipe context: by CPLT, and by an exception (R99, R149, R161, R172). -/
namespace Sys2Proof.Machine
open Reg

/-! ### A context becomes free -/

/-- Context `k` is free, no job of it remains, and no other context changed. -/
def Frees (h t : Head) (k : Nat) : Prop :=
  t.ctx k = Context.fresh .c .idle ∧ t.jobs = h.jobs.filter (fun j => j.2.owner ≠ k) ∧ ∀ j, j ≠ k → t.ctx j = h.ctx j

theorem Frees.after {h g t : Head} {k : Nat} (a : RunsKept h g) (b : Frees g t k) : Frees h t k := by
  obtain ⟨own, jobs, others⟩ := b
  exact ⟨own, by rw [jobs, a.jobs], fun j hj => (others j hj).trans (Head.ctx_congr a.ctxs j)⟩

theorem Frees.keeps {h t u : Head} {k : Nat} (a : Frees h t k) (b : RunsKept t u) : Frees h u k := by
  obtain ⟨own, jobs, others⟩ := a
  exact ⟨(Head.ctx_congr b.ctxs k).trans own, b.jobs.trans jobs, fun j hj => (Head.ctx_congr b.ctxs j).trans (others j hj)⟩

/-- What `freeCtx` does: the context is free, and works and queues stay. -/
theorem Head.freeCtx_spec (h : Head) (k : Nat) (keep : List Nat) :
    Frees h (h.freeCtx k keep) k ∧ (h.freeCtx k keep).works = h.works ∧ (h.freeCtx k keep).queues = h.queues := by
  unfold Head.freeCtx
  extract_lets c g
  have dropped := g.dropBufs_work (c.bufs.filter (fun b => ¬ keep.contains b))
  refine ⟨⟨Head.ctx_setCtx _ _ _, dropped.jobs, fun j hj => ?_⟩, dropped.works, dropped.queues⟩
  rw [Head.ctx_setCtx_ne _ _ hj, Head.ctx_congr dropped.ctxs]
  rfl

/-! ### By an exception (R99) -/

theorem Head.endContext_frees (h : Head) (k code : Nat) (x : ExcInfo) : Frees h (h.endContext k code x).2 k := by
  unfold Head.endContext
  extract_lets c w
  have freed : Frees h ((h.freeCtx k []).releaseAlloc w) k :=
    (h.freeCtx_spec k []).1.keeps (Head.releaseAlloc_work _ _).toRunsKept
  exact (freed.keeps (RunsKept.post _ _ _ (by decide) _ _ _ _)).keeps (Head.raise_runs _ _ _)

theorem Head.except_frees (h : Head) {k : Nat} (hk : isStream k = true) (code : Nat) (x : ExcInfo) :
    Frees h (h.except k code x) k := by
  unfold Head.except Head.terminate
  rw [if_pos hk]
  exact (h.endContext_frees k code x).keeps (Head.abandon_runs _ _ _)

/-- An instruction that the level may not execute raises PRIV (R135, R173). -/
theorem Head.instr_denied {h : Head} {x : Ctx} {may : Level → Bool} (e : Executes h x anyLevel)
    (hm : may (h.ctx (ctxKey x)).level = false) (f : Head → Nat → Context → Head) :
    h.instr x may f = h.except (ctxKey x) excPriv .none := by
  have guarded : h.instr x may f =
      h.instr x anyLevel (fun h k c => if may c.level then f h k c else h.except k excPriv .none) := by
    simp only [Head.instr, anyLevel, if_true]
  rw [guarded, Head.instr_executes e, hm]
  rfl

/-- A word that no row defines, fetched without an error, is an instruction that raises ILLEGAL (R117). -/
theorem execUndefinedInstruction_eq (s : State) (x : Ctx) {word : BitVec 32} (hw : wordDefined word = false) :
    exec (.undefinedInstruction ⟨x, word, .clean⟩) s =
      s.apply (fun h => h.instr x anyLevel (fun h k _ => h.except k excIllegal .none)) := by
  change execUndefinedInstruction ⟨x, word, .clean⟩ s = _
  unfold execUndefinedInstruction
  simp [Head.instr, anyLevel, hw]

/-! ### By CPLT (R172) -/

section
variable {h : Head} {k st off w : Nat} {data : Handle} (hr : (h.ctx k).run = .ending st data off) (hw : (h.ctx k).work = some w)
include hr hw

theorem Head.cpltFinish_waits (ho : ∃ j ∈ h.jobs, j.2.owner = k ∧ j.2.ended = none) : h.cpltFinish k = h := by
  obtain ⟨j, hj, own, run⟩ := ho
  unfold Head.cpltFinish
  simp only [hr, hw]
  exact if_pos (List.any_eq_true.mpr ⟨j, hj, by simp [own, run]⟩)

theorem Head.cpltFinish_spec (ho : ∀ j ∈ h.jobs, j.2.owner = k → j.2.ended ≠ none) {z : Work} (hz : h.work w = some z) :
    Frees h (h.cpltFinish k) k ∧ ∀ q n, z.from_ = .background q n → (h.cpltFinish k).work w = none ∧
      ((h.cpltFinish k).queue (0xFF00 + q)).done = (h.queue (0xFF00 + q)).done + 1 := by
  have none_open : ¬ h.jobs.any (fun e => e.2.owner = k && e.2.ended.isNone) = true := by
    simp only [List.any_eq_true, Bool.and_eq_true, decide_eq_true_eq, Option.isNone_iff_eq_none, not_exists, not_and]
    exact fun j hj own => ho j hj own
  unfold Head.cpltFinish
  extract_lets c
  have run : c.run = .ending st data off := hr
  have work : c.work = some w := hw
  simp -zeta only [run, work]
  rw [if_neg none_open]
  simp -zeta only [hz]
  extract_lets g len want short s bytes bad r own given f
  have recorded : WorkKept h g := by
    unfold g
    split
    · exact Head.recordList_work _ _ _
    · exact .refl h
  have released : WorkKept h r := by
    unfold r
    split
    · exact recorded
    · exact recorded.trans (Head.releaseAlloc_work _ _)
  obtain ⟨freed, works, queues⟩ := (r.updWork w (fun x => { x with data := x.data ++ given })).freeCtx_spec k given
  have frees : Frees h f k := (freed.after (Head.updWork_runs r w _)).after released.toRunsKept
  have noBad (hf : z.qp = none) : bad = [] := if_pos (.inr (.inr (by simp [hf])))
  clear_value bad
  refine ⟨?_, fun q n hf => ?_⟩
  · cases bad with
    | nil => exact frees.keeps (Head.deliver_runs _ _ _ _)
    | cons l ls =>
      exact ((frees.keeps (Head.meetBad_runs _ _ _)).keeps (Head.updWork_runs _ _ _)).keeps (Head.deliverNvme_runs _ _ _)
  · rw [noBad (by rw [Work.qp, hf])]
    have there : f.work w = some { z with data := z.data ++ given } := by
      rw [Head.work, works, Head.updWork, Tbl.find_upd_self, released.works]
      exact congrArg _ hz
    rw [Head.deliver_background there hf]
    obtain ⟨-, gone, kept⟩ := f.retireWork_spec w
    obtain ⟨-, left, done⟩ := (f.retireWork w).queueDone_spec (0xFF00 + q)
    refine ⟨?_, ?_⟩
    · rw [Head.work, left]
      exact gone
    · rw [done, Head.queue, kept, queues, Head.updWork, released.queues]
      rfl

end

/-- Settles O21: CPLT only marks the context as ending; CPLT_FINISH and every exception of a recipe context run `freeCtx` among
operations that leave contexts and jobs as they are. -/
theorem recipesEnd : Obligations.RecipesEnd := by
  unfold Obligations.RecipesEnd
  intro s cl en y rs1 rs2 ha word undefined h x k c free
  have stream : isStream k = true := decide_eq_true (show 32 ≤ 32 + 8 * (9 * cl.val + en.val) + y.val by omega)
  refine ⟨fun e => Completes.of_executes e rfl (Head.setCtx_becomes _ _ _), fun live st data off w hr hw => ⟨fun ho => ?_,
    fun ho z hz => ?_⟩, fun e => ⟨?_, ?_, fun hl => ?_⟩⟩
  · exact Completes.of_live live (show execCpltFinish cl en y s = _ from rfl) (Head.cpltFinish_waits hr hw ho)
  · exact Completes.of_live live (show execCpltFinish cl en y s = _ from rfl) (Head.cpltFinish_spec hr hw ho hz)
  · exact Completes.of_executes e rfl (Head.except_frees h stream _ _)
  · exact Completes.of_executes e (execUndefinedInstruction_eq s x undefined) (Head.except_frees h stream _ _)
  · exact Completes.of_live e.live (show execSys x s = _ from rfl)
      (Head.instr_denied e (may := notC) (by rw [hl]; rfl) _ ▸ Head.except_frees h stream _ _)

end Sys2Proof.Machine
end

section
/-! What placing a stored chunk leaves alone (R164, R220, R221): every context and every job but the one placed. -/
namespace Sys2Proof.Machine
open Reg

/-! ### Bands (R218, R219) -/

theorem Head.withFb_runs (h : Head) (x : Fb) : RunsKept h { h with fb := x } := ⟨rfl, rfl, rfl⟩

theorem Head.touch_runs (h : Head) (table nsid key vepoch : Nat) : RunsKept h (h.touch table nsid key vepoch) := by
  unfold Head.touch
  extract_lets t
  split
  · exact .refl h
  · exact ⟨rfl, rfl, rfl⟩

theorem Head.showHoles_runs (h : Head) : RunsKept h h.showHoles := by
  unfold Head.showHoles
  extract_lets g n
  have shown : RunsKept h g := .foldl (fun _ _ => .wr _ _ _) _ _
  exact (shown.trans (.wr _ _ _)).trans (.wr _ _ _)

theorem Head.putBand_runs (h : Head) (b : Nat) (x : Band) : RunsKept h (h.putBand b x) := by
  unfold Head.putBand
  extract_lets g
  have stored : RunsKept h g := (RunsKept.put h _ _).trans (Head.touch_runs _ _ _ _ _)
  split
  · exact stored.trans (Head.showHoles_runs g)
  · exact stored

theorem Head.setBand_runs (h : Head) (b : Nat) (x : Band) : RunsKept h (h.setBand b x) := by
  unfold Head.setBand
  split
  · exact .refl h
  · exact (Head.putBand_runs h b x).trans (.of_notes (Head.sendTwin_notes _ _))

theorem Head.closeBand_runs (h : Head) (b : Nat) : RunsKept h (h.closeBand b) := by
  unfold Head.closeBand
  extract_lets x g
  have unopened : RunsKept h g :=
    RunsKept.trans (t := { h with fb := { h.fb with opens := h.fb.opens.filter (·.2 ≠ b) } }) ⟨rfl, rfl, rfl⟩ (.wr _ _ _)
  split
  · exact unopened.trans (Head.setBand_runs _ _ _)
  · exact unopened

theorem Head.openBand_runs {h t : Head} {cls kind b : Nat} {host : Bool} (ho : h.openBand cls kind host = some (b, t)) :
    RunsKept h t := by
  unfold Head.openBand at ho
  extract_lets l at ho
  split at ho
  · cases ho
  · split at ho
    · cases ho
    · next a _ =>
      extract_lets x g at ho
      have band : RunsKept h g := Head.setBand_runs _ _ _
      have shown (u : Head) : RunsKept u u.showBuf.showDirect := by
        refine RunsKept.trans (t := u.showBuf) ?_ (.wr _ _ _)
        unfold Head.showBuf
        split
        · exact .refl u
        · exact .wr _ _ _
      obtain ⟨-, rfl⟩ : a = b ∧ _ = t := by simpa using ho
      exact (band.trans (g.withFb_runs _)).trans (shown { g with fb := _ })

/-! ### Stripes (R220, R221) -/

theorem Head.showFree_runs (h : Head) : RunsKept h h.showFree := by
  unfold Head.showFree
  extract_lets g u
  have shown : RunsKept h u := (RunsKept.wr h _ _).trans (.wr _ _ _)
  split
  · exact shown.trans ⟨rfl, rfl, rfl⟩
  · exact shown

theorem Head.setStripe_runs (h : Head) (s : Nat) (x : StripeSt) : RunsKept h (h.setStripe s x) := ⟨rfl, rfl, rfl⟩

theorem Head.closeStripe_runs (h : Head) (s : Nat) : RunsKept h (h.closeStripe s) := by
  unfold Head.closeStripe
  split
  · exact .refl h
  · next st _ =>
    split
    · exact .refl h
    · extract_lets b x g w u
      have passed : RunsKept h u := (Head.setStripe_runs _ _ _).trans (Head.setBand_runs _ _ _)
      refine RunsKept.trans (passed.trans ?_) (Head.showFree_runs _)
      split
      · exact Head.closeBand_runs _ _
      · exact .refl u

theorem Head.closeFull_runs (h : Head) (s : Nat) (st : StripeSt) : RunsKept h (h.closeFull s st) := by
  unfold Head.closeFull
  split
  · exact .refl h
  · exact Head.closeStripe_runs _ _

theorem Head.roomFor_runs {cls kind u : Nat} {host : Bool} {charge : Option Nat} (fuel : Nat) {h t : Head} {s : Nat} {st : StripeSt}
    (hr : h.roomFor cls kind u host charge fuel = some (s, st, t)) : RunsKept h t := by
  induction fuel generalizing h with
  | zero => cases hr
  | succ n ih =>
    simp only [Head.roomFor] at hr
    split at hr
    · cases hr
    · next b g hf =>
      have opened : RunsKept h g := by
        split at hf
        · obtain ⟨-, rfl⟩ : _ ∧ h = g := by simpa using hf
          exact .refl h
        · exact Head.openBand_runs hf
      split at hr
      · obtain ⟨-, -, rfl⟩ : _ ∧ _ ∧ g = t := by simpa using hr
        exact opened
      · exact (opened.trans (Head.setStripe_runs _ _ _)).trans ((Head.closeStripe_runs _ _).trans (ih hr))

/-! ### Records of space (R66, R235, R246) -/

theorem Head.fgEnter_runs (h : Head) : RunsKept h h.fgEnter := by
  unfold Head.fgEnter
  extract_lets f u fe g
  split
  · exact RunsKept.trans (t := g.wr FB_STS_FG 1) ⟨rfl, rfl, rfl⟩ (RunsKept.post _ _ _ (by decide) _ _ _ _)
  · exact .refl h

theorem Head.capacityLow_runs (h : Head) : RunsKept h h.capacityLow := by
  unfold Head.capacityLow
  extract_lets g
  split
  · exact .wr _ _ _
  · exact RunsKept.trans (t := { g with fb := { g.fb with lowPosted := true } }) ⟨rfl, rfl, rfl⟩
      (RunsKept.post _ _ _ (by decide) _ _ _ _)

theorem Head.backPressure_runs (h : Head) : RunsKept h h.backPressure := by
  unfold Head.backPressure
  extract_lets lag max low
  split
  next fi fd _ =>
  extract_lets short g u
  have told : RunsKept h g := by
    unfold g
    split
    · exact ((RunsKept.wr h _ _).trans (.wr _ _ _)).trans (RunsKept.post _ _ _ (by decide) _ _ _ _)
    · exact .wr _ _ _
  have shown : RunsKept h u := told.trans (.wr _ _ _)
  split
  · exact shown.trans (.wr _ _ _)
  · split
    · exact shown.trans (.wr _ _ _)
    · exact shown

theorem Head.mirror_runs (h : Head) (n loc : Nat) : RunsKept h (h.mirror n loc) := by
  unfold Head.mirror
  split
  · split
    · exact .of_notes (Head.sendBody_notes _ _ _ _ _)
    · exact .refl h
  · exact .refl h

end Sys2Proof.Machine
end

section
/-! Posting a job (R137 to R141): the ticket, the job, and what a kind does beside them at its posting. -/
namespace Sys2Proof.Machine
open Reg

/-! ### A job that is placed or ends -/

/-- A job as posted, whatever has come of it since. -/
def SamePosting (j j' : Job) : Prop :=
  j'.owner = j.owner ∧ j'.kind = j.kind ∧ j'.blk = j.blk ∧ j'.inp = j.inp ∧ j'.outp = j.outp ∧ j'.ticket = j.ticket

/-- Every context is as before, and job `n` is still there as it was posted. -/
structure JobMoves (h t : Head) (n : Nat) : Prop where
  ctxs : t.ctxs = h.ctxs
  nextJob : t.nextJob = h.nextJob
  job : ∀ j, Tbl.find h.jobs n = some j → ∃ j', Tbl.find t.jobs n = some j' ∧ SamePosting j j'

theorem JobMoves.of_runs {h t : Head} (a : RunsKept h t) (n : Nat) : JobMoves h t n :=
  ⟨a.ctxs, a.nextJob, fun j hj => ⟨j, a.jobs ▸ hj, rfl, rfl, rfl, rfl, rfl, rfl⟩⟩

theorem JobMoves.refl (h : Head) (n : Nat) : JobMoves h h n := .of_runs (.refl h) n

theorem JobMoves.trans {h t u : Head} {n : Nat} (a : JobMoves h t n) (b : JobMoves t u n) : JobMoves h u n := by
  refine ⟨b.ctxs.trans a.ctxs, b.nextJob.trans a.nextJob, fun j hj => ?_⟩
  obtain ⟨j', hj', o, k, bl, i, p, t⟩ := a.job j hj
  obtain ⟨j'', hj'', o', k', bl', i', p', t'⟩ := b.job j' hj'
  exact ⟨j'', hj'', o'.trans o, k'.trans k, bl'.trans bl, i'.trans i, p'.trans p, t'.trans t⟩

/-- Job `n` is changed by a function that keeps what was posted. -/
theorem JobMoves.upd (h : Head) (n : Nat) {f : Job → Job} (hf : ∀ j, SamePosting j (f j)) :
    JobMoves h { h with jobs := Tbl.upd h.jobs n f } n :=
  ⟨rfl, rfl, fun j hj => ⟨f j, by rw [Tbl.find_upd_self, hj]; rfl, hf j⟩⟩

theorem Head.endJob_moves (h : Head) (n st res : Nat) : JobMoves h (h.endJob n st res) n :=
  .upd h n (fun _ => ⟨rfl, rfl, rfl, rfl, rfl, rfl⟩)

theorem Head.jobWrites_moves (h : Head) (n : Nat) (j : Job) (b : Nat) (bytes : List Byte) :
    JobMoves h (h.jobWrites n j b bytes) n := by
  unfold Head.jobWrites
  extract_lets a g
  have kept : JobMoves h g n := .upd h n (fun _ => ⟨rfl, rfl, rfl, rfl, rfl, rfl⟩)
  exact kept.trans (.of_runs (.put _ _ _) n)

theorem Head.drawBytes_runs (h : Head) (n : Nat) : RunsKept h (h.drawBytes n).2 := by
  rw [h.drawBytes_frame n]
  exact ⟨rfl, rfl, rfl⟩

theorem Head.setLen_runs (h : Head) (b l : Nat) : RunsKept h (h.setLen b l) := ⟨rfl, rfl, rfl⟩

theorem Head.finishJob_moves (h : Head) (n : Nat) (j : Job) (e : JobEnd) : JobMoves h (h.finishJob n j e) n := by
  have ended := h.endJob_moves n e.status e.result
  unfold Head.finishJob
  extract_lets g
  split
  · next b _ =>
    split
    · split
      next bytes u hu =>
      have drawn : RunsKept g u := by
        split at hu
        · rw [show u = (g.drawBytes e.out.length).2 from (congrArg Prod.snd hu).symm]
          exact g.drawBytes_runs _
        · obtain ⟨-, rfl⟩ := Prod.mk.inj hu
          exact .refl g
      have written := (ended.trans (.of_runs drawn n)).trans (u.jobWrites_moves n j b bytes)
      have raised (l : Nat) : JobMoves (u.jobWrites n j b bytes) ((u.jobWrites n j b bytes).setLen b l) n :=
        .of_runs (Head.setLen_runs _ b l) n
      dsimp only
      split
      · exact written.trans (raised _)
      · exact written
    · exact (ended.trans (.of_runs (g.drawBytes_runs _) n)).trans (Head.jobWrites_moves _ n j _ _)
  · exact ended

/-- The units that a job may go to are ON (R145). -/
theorem Head.accelState_of_mem_accelChoices {h : Head} {owner : Nat} {kind : JobKind} {u : Nat × Nat}
    (hu : u ∈ h.accelChoices owner kind) : h.accelState u.1 u.2 = uOn := by
  have on {c : Nat} (hc : u ∈ ((List.range 12).filter (fun a => accelServes a kind && h.accelState c a = uOn)).map (fun a => (c, a))) :
      h.accelState u.1 u.2 = uOn := by
    obtain ⟨a, ha, rfl⟩ := List.mem_map.mp hc
    simpa using And.right (by simpa using (List.mem_filter.mp ha).2 : accelServes a kind = true ∧ _)
  unfold Head.accelChoices at hu
  extract_lets units rest c waits at hu
  split at hu
  · split at hu
    · exact on hu
    · split at hu
      · cases hu
      · cases hd : (List.range 24).find? (fun d => d ≠ c && units d ≠ []) with
        | none => rw [hd] at hu; cases hu
        | some d => rw [hd] at hu; exact on hu
  · obtain ⟨d, -, hd⟩ := List.mem_flatMap.mp hu
    exact on hd

/-- What placing a waiting job can do: nothing, or give it an ON unit, with a record where it had failed on another. -/
theorem Head.placeJob_cases (h : Head) (n : Nat) :
    h.placeJob n = h ∨ ∃ j u, Tbl.find h.jobs n = some j ∧ j.accel = none ∧ j.ended = none ∧ h.accelState u.1 u.2 = uOn ∧
      OnlyNotes { h with jobs := Tbl.put h.jobs n { j with accel := some u, rerun := none } } (h.placeJob n) := by
  unfold Head.placeJob
  split
  · exact .inl rfl
  · next j hj =>
    extract_lets blocked
    split
    · exact .inl rfl
    · next hfree =>
      simp only [not_or, Bool.not_eq_true, Option.isSome_eq_false_iff, Option.isNone_iff_eq_none] at hfree
      obtain ⟨-, unit, run, -⟩ := hfree
      split
      · next u hu =>
        refine .inr ⟨j, u, hj, unit, run, ?_, ?_⟩
        · exact Head.accelState_of_mem_accelChoices (List.mem_of_find?_eq_some hu)
        · split
          · exact Head.post_notes _ _ _ (by decide) _ _ _ _
          · exact .refl _
      · exact .inl rfl

theorem Head.placeJob_moves (h : Head) (n : Nat) : JobMoves h (h.placeJob n) n := by
  obtain same | ⟨j, u, hj, -, -, -, told⟩ := h.placeJob_cases n
  · rw [same]
    exact .refl h n
  · have given : JobMoves h { h with jobs := Tbl.put h.jobs n { j with accel := some u, rerun := none } } n := by
      refine ⟨rfl, rfl, fun j' hj' => ?_⟩
      obtain rfl : j = j' := Option.some.inj (hj.symm.trans hj')
      exact ⟨_, Tbl.find_put_self _ _ _, rfl, rfl, rfl, rfl, rfl, rfl⟩
    exact given.trans (.of_runs (.of_notes told) n)

/-! ### Placing an MPROG's chunk (R164) -/

theorem Head.placeBytes_moves {h t : Head} {n : Nat} {j : Job} {why : PlaceWhy} {data : List Byte}
    (ht : h.placeBytes n j why data = some t) : JobMoves h t n := by
  unfold Head.placeBytes at ht
  extract_lets c u kind id bytes at ht
  split at ht
  · cases ht
  · split at ht
    · cases ht
    · next s st g hg =>
      extract_lets loc st' d b x e f r cmt fb w m at ht
      have stored : RunsKept h f := by
        have seen : RunsKept d e := by
          unfold e
          split
          · exact Head.putBand_runs _ _ _
          · exact .refl d
        exact ((Head.roomFor_runs _ hg).trans (Head.setStripe_runs g s st')).trans (seen.trans (.put _ _ _))
      have placed : JobMoves f w n := by
        have named : JobMoves f { f with jobs := Tbl.upd f.jobs n (fun j => { j with place := some loc }) } n :=
          .upd f n (fun _ => ⟨rfl, rfl, rfl, rfl, rfl, rfl⟩)
        exact ⟨rfl, rfl, named.job⟩
      have mirrored : RunsKept w m := Head.mirror_runs _ _ _
      have shown : RunsKept m (((m.closeFull s st').showFree).fgEnter).backPressure :=
        ((Head.closeFull_runs m s st').trans (Head.showFree_runs _)).trans ((Head.fgEnter_runs _).trans (Head.backPressure_runs _))
      obtain rfl := Option.some.inj ht
      exact ((JobMoves.of_runs stored n).trans placed).trans (.of_runs (mirrored.trans shown) n)

theorem Head.placeJobData_moves (h : Head) (n : Nat) : JobMoves h (h.placeJobData n) n := by
  have low (st : Nat) : JobMoves h (h.capacityLow.endJob n st 0) n :=
    (JobMoves.of_runs h.capacityLow_runs n).trans (Head.endJob_moves _ n st 0)
  unfold Head.placeJobData
  split
  · exact .refl h n
  · split
    · exact .refl h n
    · extract_lets data why bad
      split
      · next st _ =>
        split
        · exact low st
        · split
          · exact (JobMoves.of_runs (Head.meetBad_runs h 1 bad) n).trans (Head.endJob_moves _ n st 0)
          · exact h.endJob_moves n st 0
      · split
        · exact Head.placeBytes_moves ‹_›
        · split
          · exact low rsCapacity
          · exact .refl h n

/-- What a kind does at its posting keeps the job as it was posted. -/
theorem postHook_moves (kind : JobKind) (h : Head) (n : Nat) : JobMoves h (postHook kind h n) n := by
  unfold postHook
  split
  · split
    · split
      · exact h.finishJob_moves n _ _
      · exact .refl h n
    · exact .refl h n
  · exact h.placeJobData_moves n
  · exact h.placeJob_moves n

/-! ### The ticket (R139) -/

theorem toNat_liveTicket (n : Nat) (f : Word) : (liveTicket n f).toNat = n % 2 ^ 32 + 1 + 2 ^ 32 * (f.toNat % (2 ^ 31 - 1)) := by
  rw [liveTicket, BitVec.toNat_ofNat]
  omega

/-- A live ticket is the job's number, not zero, with bit 63 clear. -/
theorem liveTicket_spec (n : Nat) (f : Word) :
    (liveTicket n f).getLsbD 63 = false ∧ liveTicket n f ≠ 0 ∧ (liveTicket n f).toNat % 2 ^ 32 = (n + 1) % 2 ^ 32 := by
  have value := toNat_liveTicket n f
  refine ⟨?_, fun h0 => ?_, by omega⟩
  · rw [← BitVec.msb_eq_getLsbD_last (x := liveTicket n f), BitVec.msb_eq_decide]
    simp
    omega
  · rw [h0] at value
    exact absurd value (by simp; omega)

/-- The context goes on with a ticket in g[rd] and TK. -/
def Ticketed (c : Context) (t : Head) (k : Nat) (rd : Fin 32) (w : Word) : Prop :=
  t.ctx k = { c with g := (t.ctx k).g, pc := c.pc + 4, tk := w } ∧
    ∀ i, (t.ctx k).gr i = if i = rd ∧ rd.val ≠ 0 then w else c.gr i

/-- A ticket is given to the context. -/
def Head.giveTicket (h : Head) (k : Nat) (c : Context) (rd : Fin 32) (w : Word) : Head :=
  h.setCtx k { (c.setGr rd w).next with tk := w }

theorem Head.giveTicket_ticketed (h : Head) (k : Nat) (c : Context) (rd : Fin 32) (w : Word) :
    Ticketed c (h.giveTicket k c rd w) k rd w := by
  unfold Ticketed Head.giveTicket
  rw [Head.ctx_setCtx]
  refine ⟨?_, fun i => Context.gr_setGr c rd i w⟩
  simp only [Context.next, Context.setGr]
  split <;> rfl

theorem Ticketed.congr {c : Context} {t u : Head} {k : Nat} {rd : Fin 32} {w : Word} (ht : Ticketed c t k rd w)
    (hu : u.ctxs = t.ctxs) : Ticketed c u k rd w := by
  unfold Ticketed at *
  rwa [Head.ctx_congr hu]

/-! ### A job block in clean memory (R138, R140, R141) -/

theorem Head.readBlock_clean {h : Head} {k : Nat} {c : Context} {a key : Nat} (ha : a % 8 = 0)
    (hp : h.place k c a 32 false = .mem key) (hc : IsDram key → CleanLines h key 32) :
    ∃ t, h.readBlock k c a = (.ok (jobBlock (h.bytes key 32)), t) ∧ MergeOnly h t := by
  obtain ⟨t, read, -, merge, -⟩ := Head.loadKey_clean h k key 32 (fun h1 h2 => hc ⟨h1, h2⟩)
  refine ⟨t, ?_, merge⟩
  simp only [Head.readBlock, ha, ne_eq, not_true_eq_false, if_false, hp, read]

/-- A posting instruction whose handles name memory and whose block is read: the ticket of the limit, of a field out of range, or of
the job that its hook then places. -/
theorem Head.post_of_block {h g : Head} {k : Nat} {c : Context} {kind : JobKind} {rd : Fin 32} {a : Nat} {inp out : Handle}
    {hook : PostHook} {b : JobBlock} (hin : kind.hasIn = true → (h.segsOfHandle inp).isSome = true)
    (hout : kind.hasOut = true → outSize out ≠ 0) (read : h.readBlock k c a = (.ok b, g)) (merge : MergeOnly h g) :
    (jobLimit k ≤ h.outstanding k → h.post_ k c kind rd a inp out hook = g.giveTicket k c rd (failedTicket 2)) ∧
    (h.outstanding k < jobLimit k → h.jobOk kind b inp out = false →
      h.post_ k c kind rd a inp out hook = g.giveTicket k c rd (failedTicket 4)) ∧
    (h.outstanding k < jobLimit k → h.jobOk kind b inp out = true →
      ∃ (f : Word) (j : Job) (u : Head),
        h.post_ k c kind rd a inp out hook = hook (u.giveTicket k c rd (liveTicket h.nextJob f)) h.nextJob ∧
        Tbl.find u.jobs h.nextJob = some j ∧ u.nextJob = h.nextJob + 1 ∧
        j.owner = k ∧ j.kind = kind ∧ j.blk = b ∧ j.inp = inp ∧ j.outp = out ∧ j.ticket = liveTicket h.nextJob f) := by
  have named : ((kind.hasIn && (h.segsOfHandle inp).isNone) || (kind.hasOut && decide (outSize out = 0))) = false := by
    cases hi : kind.hasIn <;> cases ho : kind.hasOut <;> simp_all [Option.isSome_iff_ne_none]
  have count : g.outstanding k = h.outstanding k := by rw [merge]; rfl
  have rules : g.jobOk kind b inp out = h.jobOk kind b inp out := by rw [merge]; rfl
  have next : g.nextJob = h.nextJob := by rw [merge]
  unfold Head.post_
  simp only [named, read, count, rules, Bool.false_eq_true, if_false]
  refine ⟨fun full => if_pos full, fun room bad => ?_, fun room ok => ?_⟩
  · rw [if_neg (Nat.not_le_of_lt room), if_pos bad]
    rfl
  · rw [if_neg (Nat.not_le_of_lt room), if_neg (by simp [ok])]
    rw [← next]
    exact ⟨g.draw.1, _, { g.draw.2 with jobs := Tbl.put g.jobs g.nextJob _, nextJob := g.nextJob + 1 }, rfl,
      Tbl.find_put_self _ _ _, rfl, rfl, rfl, rfl, rfl, rfl, rfl⟩

/-- Settles O16: each of the eighteen instructions is one posting with its kind and handles, which reads its block without a change
but to the caches; the hook of a live job leaves the context and what was posted. -/
theorem postingInstructionsMakeAJob : Obligations.PostingInstructionsMakeAJob := by
  unfold Obligations.PostingInstructionsMakeAJob
  intro s x rd rs ha hb h k c a ia ob rows ticketed
  have posts : ∀ r ∈ rows, ∃ f, exec r.1 s =
      s.apply (fun h => h.instr x (if r.2.1 = .chunk ∨ r.2.1 = .mprog then onlyC else anyLevel) f) ∧
      f h k c = h.post_ k c r.2.1 rd a r.2.2.1 r.2.2.2 (postHook r.2.1) := by
    simp only [rows, List.forall_mem_cons, List.not_mem_nil, false_implies, implies_true, and_true]
    and_intros <;> exact ⟨_, rfl, rfl⟩
  intro r hr key e hin hout aligned hp clean b
  obtain ⟨f, row, post⟩ := posts r hr
  obtain ⟨g, read, merge⟩ := Head.readBlock_clean aligned hp clean
  obtain ⟨full, bad, live⟩ := Head.post_of_block (rd := rd) (hook := postHook r.2.1) hin hout read merge
  have jobs : g.jobs = h.jobs := by rw [merge]
  refine ⟨fun limit => ?_, fun room wrong => ?_, fun room ok => ?_⟩
  · refine Completes.of_executes e row ?_
    rw [post, full limit]
    exact ⟨g.giveTicket_ticketed k c rd _, jobs⟩
  · refine Completes.of_executes e row ?_
    rw [post, bad room wrong]
    exact ⟨g.giveTicket_ticketed k c rd _, jobs⟩
  · obtain ⟨v, j, u, given, hj, next, posted⟩ := live room ok
    obtain ⟨ctxs, moved, job⟩ := postHook_moves r.2.1 (u.giveTicket k c rd (liveTicket h.nextJob v)) h.nextJob
    obtain ⟨j', hj', owner, kind, blk, inp, outp, ticket⟩ := job j hj
    obtain ⟨positive, nonzero, number⟩ := liveTicket_spec h.nextJob v
    refine Completes.of_executes e row ?_
    rw [post, given]
    refine ⟨_, j', (u.giveTicket_ticketed k c rd _).congr ctxs, positive, nonzero, number, hj', moved.trans next, ?_⟩
    rw [owner, kind, blk, inp, outp, ticket]
    exact posted

end Sys2Proof.Machine
end

section
/-! Placing the waiting jobs (R145): the jobs' units and a record for each that failed elsewhere, and nothing else. -/
namespace Sys2Proof.Machine
open Reg

/-! ### The jobs and records alone -/

/-- Nothing changed but the jobs and what records change. -/
def JobsOnly (h t : Head) : Prop := OnlyNotes { h with jobs := t.jobs } t

theorem JobsOnly.refl (h : Head) : JobsOnly h h := OnlyNotes.refl h

theorem JobsOnly.trans {h t u : Head} (a : JobsOnly h t) (b : JobsOnly t u) : JobsOnly h u := by
  obtain ⟨ra, ea⟩ := a
  obtain ⟨rb, eb⟩ := b
  refine ⟨fun f hf => (rb f hf).trans (ra f hf), ?_⟩
  rw [eb, ea]

theorem JobsOnly.mem {h t : Head} (a : JobsOnly h t) : t.mem = h.mem := by rw [a.2]
theorem JobsOnly.lens {h t : Head} (a : JobsOnly h t) : t.lens = h.lens := by rw [a.2]
theorem JobsOnly.retiredLog {h t : Head} (a : JobsOnly h t) : t.retiredLog = h.retiredLog := by rw [a.2]

/-- A field that no record changes reads as before. -/
theorem JobsOnly.rd {h t : Head} (a : JobsOnly h t) {f : Field} (hf : ∀ g ∈ noteFields, f.key ≠ g.key) : t.rd f = h.rd f := a.1 f hf

/-! ### One job placed -/

theorem OnlyNotes.jobs {h t : Head} (a : OnlyNotes h t) : t.jobs = h.jobs := by rw [a.2]

theorem Head.placeJob_jobsOnly (h : Head) (n : Nat) : JobsOnly h (h.placeJob n) := by
  obtain same | ⟨j, u, -, -, -, -, told⟩ := h.placeJob_cases n
  · rw [same]
    exact .refl h
  · unfold JobsOnly
    rw [told.jobs]
    exact told

/-- Placing one job leaves every other. -/
theorem Head.placeJob_find_ne (h : Head) {n m : Nat} (hm : m ≠ n) : Tbl.find (h.placeJob n).jobs m = Tbl.find h.jobs m := by
  obtain same | ⟨j, u, -, -, -, -, told⟩ := h.placeJob_cases n
  · rw [same]
  · rw [told.jobs]
    exact Tbl.find_put_ne _ _ hm

/-- A job that is placed waited for a unit: its unit is then an ON one, and the rest of it is as before. -/
theorem Head.placeJob_find_self (h : Head) {n : Nat} {j : Job} (hj : Tbl.find h.jobs n = some j) :
    Tbl.find (h.placeJob n).jobs n = some j ∨ ∃ u, h.accelState u.1 u.2 = uOn ∧ j.ended = none ∧
      Tbl.find (h.placeJob n).jobs n = some { j with accel := some u, rerun := none } := by
  obtain same | ⟨i, u, hi, -, run, on, told⟩ := h.placeJob_cases n
  · exact .inl (by rw [same, hj])
  · obtain rfl : i = j := Option.some.inj (hi.symm.trans hj)
    exact .inr ⟨u, on, run, by rw [told.jobs]; exact Tbl.find_put_self _ _ _⟩

theorem Head.placeJob_find_ended (h : Head) (n : Nat) {m : Nat} {j : Job} (hj : Tbl.find h.jobs m = some j) (he : j.ended ≠ none) :
    Tbl.find (h.placeJob n).jobs m = some j := by
  by_cases hm : m = n
  · subst hm
    obtain same | ⟨u, -, run, -⟩ := h.placeJob_find_self hj
    · exact same
    · exact absurd run he
  · rw [h.placeJob_find_ne hm, hj]

/-! ### All of them -/

/-- The jobs of a list are placed in turn. -/
def Head.placeAll (h : Head) (l : List (Nat × Job)) : Head := l.foldl (fun h e => h.placeJob e.1) h

/-- What every placement keeps, placing all keeps. -/
theorem Head.placeAll_keeps {P : Head → Prop} (l : List (Nat × Job)) (hp : ∀ e ∈ l, ∀ h, P h → P (h.placeJob e.1)) {h : Head}
    (h0 : P h) : P (h.placeAll l) := by
  induction l generalizing h with
  | nil => exact h0
  | cons e l ih => exact ih (fun e he => hp e (.tail _ he)) (hp e (.head _) h h0)

theorem Head.placeAll_jobsOnly (h : Head) (l : List (Nat × Job)) : JobsOnly h (h.placeAll l) :=
  Head.placeAll_keeps (P := JobsOnly h) l (fun e _ g a => a.trans (g.placeJob_jobsOnly e.1)) (.refl h)

theorem Head.placeJobs_jobsOnly (h : Head) : JobsOnly h h.placeJobs := h.placeAll_jobsOnly h.jobs

theorem Head.placeJobs_find_ended (h : Head) {m : Nat} {j : Job} (hj : Tbl.find h.jobs m = some j) (he : j.ended ≠ none) :
    Tbl.find h.placeJobs.jobs m = some j :=
  Head.placeAll_keeps (P := fun g => Tbl.find g.jobs m = some j) h.jobs (fun e _ g hg => g.placeJob_find_ended e.1 hg he) hj

/-! ### Fields that no record changes -/

theorem lo_of_mem_noteFields : ∀ g ∈ noteFields, g.lo < 64 ∧ g.lo ≠ 2 ∧ g.lo ≠ 12 := by decide

/-- No record changes the place of a buffer. -/
theorem poolBase_not_note (p : Nat) : ∀ g ∈ noteFields, (BLW_POOL_BASE_BASE.nth p).key ≠ g.key := fun g hg => by
  obtain ⟨lo, -, h12⟩ := lo_of_mem_noteFields g hg
  exact Field.key_ne_of_lo (show 12 < 64 by decide) lo (Ne.symm h12)

theorem memErrUe_not_note : ∀ g ∈ noteFields, MEM_ERR_UE.key ≠ g.key := fun g hg => by
  obtain ⟨lo, h2, -⟩ := lo_of_mem_noteFields g hg
  exact Field.key_ne_of_lo (show 2 < 64 by decide) lo (Ne.symm h2)

end Sys2Proof.Machine
end

section
/-! The end of a job on its unit (R143, R439). -/
namespace Sys2Proof.Machine
open Reg

/-! ### Lines that cannot be read -/

/-- The error log lies beside the places of buffers. -/
theorem Head.rd_poolBase_logLine (h : Head) (n : Nat) (unc : Bool) (dev p : Nat) :
    (h.logLine n unc dev).rd (BLW_POOL_BASE_BASE.nth p) = h.rd (BLW_POOL_BASE_BASE.nth p) := by
  have los : ∀ f ∈ elogFields, f.lo < 64 ∧ f.lo ≠ 12 := by decide
  obtain e | ⟨l, hl, e⟩ := h.logLine_cases n unc dev
  · rw [e]
  · rw [e]
    refine Head.rd_wrList_ne h l _ (fun x hx => ?_)
    obtain ⟨lo, h12⟩ := los x.1 (hl ▸ List.mem_map_of_mem hx)
    exact Field.key_ne_of_lo (show 12 < 64 by decide) lo (Ne.symm h12)

theorem Head.mem_logLine (h : Head) (n : Nat) (unc : Bool) (dev : Nat) : (h.logLine n unc dev).mem = h.mem := by
  obtain e | ⟨l, -, e⟩ := h.logLine_cases n unc dev
  · rw [e]
  · rw [e, Head.wrList_frame]

/-- Meeting a bad line changes no byte and moves no buffer, and MEM_ERR.UE is then 1. -/
theorem Head.uncorrAccess_spec (h : Head) (n who : Nat) :
    (h.uncorrAccess n who).mem = h.mem ∧
      (∀ p, (h.uncorrAccess n who).rd (BLW_POOL_BASE_BASE.nth p) = h.rd (BLW_POOL_BASE_BASE.nth p)) ∧
      (h.uncorrAccess n who).rd MEM_ERR_UE = 1 := by
  unfold Head.uncorrAccess
  extract_lets poisoned g u
  have told : OnlyNotes u (u.post 10 0x0A01 2 (lineAddr n) u.elog1 who poisoned.toNat) := Head.post_notes _ _ _ (by decide) _ _ _ _
  refine ⟨told.mem.trans (h.mem_logLine n true 15), fun p => ?_, ?_⟩
  · rw [told.1 _ (poolBase_not_note p), ← h.rd_poolBase_logLine n true 15 p]
    exact (Head.rd_poolBase_wr _ _ (show 32 < 64 by decide) (show 32 ≠ 12 by decide) p).trans
      (Head.rd_poolBase_wr _ _ (show 2 < 64 by decide) (show 2 ≠ 12 by decide) p)
  · rw [told.1 _ memErrUe_not_note]
    exact (Head.rd_wr_ne _ _ _ _ (Field.key_ne_of_lo (show 2 < 64 by decide) (show 32 < 64 by decide) (show 2 ≠ 32 by decide))).trans
      (Head.rd_wr_self g MEM_ERR_UE 1 (by decide))

theorem Head.meetBad_spec (h : Head) (who : Nat) (ls : List Nat) :
    (h.meetBad who ls).mem = h.mem ∧
      (∀ p, (h.meetBad who ls).rd (BLW_POOL_BASE_BASE.nth p) = h.rd (BLW_POOL_BASE_BASE.nth p)) ∧
      (ls ≠ [] → (h.meetBad who ls).rd MEM_ERR_UE = 1) := by
  induction ls generalizing h with
  | nil => exact ⟨rfl, fun _ => rfl, fun hn => absurd rfl hn⟩
  | cons n ls ih =>
    obtain ⟨mem, places, ue⟩ := h.uncorrAccess_spec n who
    obtain ⟨mem', places', ue'⟩ := ih (h.uncorrAccess n who)
    refine ⟨mem'.trans mem, fun p => (places' p).trans (places p), fun _ => ?_⟩
    by_cases hl : ls = []
    · subst hl; exact ue
    · exact ue' hl

/-! ### The output (R143) -/

/-- The output range of a job in buffer `b`. -/
def Head.outAt (h : Head) (j : Job) (b : Nat) : Nat := h.bufAddr b + j.blk.ooff

/-- A job that has ended writes its output range, and notes what stood there. -/
theorem Head.jobWrites_spec {h : Head} {n : Nat} {i : Job} (hi : Tbl.find h.jobs n = some i) (j : Job) (b : Nat) (bytes : List Byte) :
    (h.jobWrites n j b bytes).fields = h.fields ∧
      (h.jobWrites n j b bytes).mem = Memory.writeAll h.mem (h.outAt j b) bytes ∧
      Tbl.find (h.jobWrites n j b bytes).jobs n =
        some { i with before := some (h.outAt j b, h.bytes (h.outAt j b) bytes.length) } := by
  refine ⟨rfl, rfl, ?_⟩
  simp only [Head.jobWrites, Head.put_jobs, Tbl.find_upd_self, hi, Option.map_some]
  rfl

theorem Head.endJob_find {h : Head} {n : Nat} {j : Job} (hj : Tbl.find h.jobs n = some j) (st res : Nat) :
    Tbl.find (h.endJob n st res).jobs n = some { j with ended := some (st, res) } := by
  simp only [Head.endJob, Tbl.find_upd_self, hj, Option.map_some]

/-- A job that ends without output to keep leaves all memory but its output range. -/
theorem Head.finishJob_failed {h : Head} {n : Nat} {j : Job} (hj : Tbl.find h.jobs n = some j) (st : Nat) :
    (h.finishJob n j (.fail st)).fields = h.fields ∧
      (∀ b, j.outp = .buffer b → SameMemoryBut h (h.finishJob n j (.fail st)) (h.outAt j b) (j.blk.cap j.outp)) ∧
      ∃ j', Tbl.find (h.finishJob n j (.fail st)).jobs n = some j' ∧ j'.ended = some (st, 0) := by
  have ended := Head.endJob_find hj st 0
  unfold Head.finishJob
  split
  · next b hb =>
    obtain ⟨bytes, u, hu, len, drawn⟩ := (h.endJob n st 0).drawBytes_spec (j.blk.cap j.outp)
    have kept : Tbl.find u.jobs n = some { j with ended := some (st, 0) } := by rw [drawn]; exact ended
    obtain ⟨fields, mem, found⟩ := Head.jobWrites_spec kept j b bytes
    have same : u.fields = h.fields ∧ u.mem = h.mem ∧ u.outAt j b = h.outAt j b := by rw [drawn]; exact ⟨rfl, rfl, rfl⟩
    obtain ⟨sameFields, sameMem, samePlace⟩ := same
    simp only [JobEnd.fail, Bool.false_eq_true, if_false, hu]
    refine ⟨fields.trans sameFields, fun b' hb' a ha => ?_, _, found, rfl⟩
    obtain rfl : b = b' := Handle.buffer.inj (hb.symm.trans hb')
    rw [Head.byte, mem, sameMem, samePlace]
    exact Memory.read_writeAll_out bytes h.mem _ a (len.symm ▸ ha)
  · next hb => exact ⟨rfl, fun b h' => absurd h' (hb b), _, ended, rfl⟩

/-- A job that ends with output to keep, apart from its input, writes just that, and LENGTH covers it where the job ended well. -/
theorem Head.finishJob_kept {h : Head} {n : Nat} {j : Job} {b : Nat} {e : JobEnd} (hj : Tbl.find h.jobs n = some j)
    (hb : j.outp = .buffer b) (hk : e.keep = true) (ho : h.overlaps j e.out.length = false) :
    (h.finishJob n j e).mem = Memory.writeAll h.mem (h.outAt j b) e.out ∧
      Tbl.find (h.finishJob n j e).jobs n = some { j with
        ended := some (e.status, e.result)
        before := some (h.outAt j b, h.bytes (h.outAt j b) e.out.length) } ∧
      (e.status = 0 → j.blk.ooff + e.out.length ≤ (h.finishJob n j e).lenOf b) := by
  have apart : (h.endJob n e.status e.result).overlaps j e.out.length = false := ho
  obtain ⟨-, mem, found⟩ := Head.jobWrites_spec (Head.endJob_find hj e.status e.result) j b e.out
  have whole : h.finishJob n j e =
      let g := (h.endJob n e.status e.result).jobWrites n j b e.out
      if e.status = rsOk ∨ j.kind = .chunk then g.setLen b (max (g.lenOf b) (j.blk.ooff + e.out.length)) else g := by
    simp only [Head.finishJob, hb, hk, apart, Bool.false_eq_true, if_true, if_false]
  rw [whole]
  dsimp only
  split
  · refine ⟨mem, found, fun _ => ?_⟩
    simp only [Head.lenOf, Head.setLen, Tbl.get_set_self]
    exact Nat.le_max_right _ _
  · next hn => exact ⟨mem, found, fun h0 => absurd (.inl h0) hn⟩

/-! ### JOB_END -/

/-- What JOB_END does with a job on its unit into whose buffers no HSTx stored and that resumes no cipher. -/
theorem Head.jobEnd_of_running {h : Head} {n : Nat} {j : Job} (bad : Nat) (hj : Tbl.find h.jobs n = some j) (he : j.ended = none)
    (ha : j.accel ≠ none) (ht : j.touched = []) (hs : h.saveBroken j = false) :
    (h.badOfJob j = [] → h.jobEnd n bad = (h.runJob n j bad).placeJobs) ∧
      (h.badOfJob j ≠ [] → h.jobEnd n bad = ((h.meetBad 1 (h.badOfJob j)).finishJob n j (.fail rsDataCorrupt)).placeJobs) := by
  have on : ¬ (j.ended.isSome = true ∨ (j.kind.onAccel = true ∧ j.accel.isNone = true)) := by
    simp only [he, Option.isSome_none, Option.isNone_iff_eq_none, ha, and_false, Bool.false_eq_true, or_self, not_false_iff]
  unfold Head.jobEnd
  simp only [hj, if_neg on, ht, Head.freshen, hs, Bool.false_eq_true, if_false]
  split
  · next hl => exact ⟨fun _ => rfl, fun hn => absurd hl hn⟩
  · next lines hl => exact ⟨fun h0 => absurd h0 hl, fun _ => rfl⟩

/-- The kinds of job whose end is the computation on their input alone, with that end. -/
def Head.computedEnds (h : Head) (j : Job) : List (JobKind × JobEnd) :=
  let data := h.handleBytes j.inp j.blk.ioff j.blk.ilen
  let cap := j.blk.cap j.outp
  [(.chunk, chunkJob j.blk cap data), (.pack, packJob j.blk.arg0 cap data), (.unpack, unpackJob j.blk.arg0 j.blk.arg1 cap data),
    (.pargen, pargenJob j.blk.arg0 j.blk.arg1 data), (.parfix, parfixJob j.blk.arg0 j.blk.arg1 data)]

/-- Such a job runs to that end, meets the lines of its input and resumes no cipher. -/
theorem Head.runJob_of_computed {h : Head} {j : Job} {p : JobKind × JobEnd} (hp : p ∈ h.computedEnds j) (hk : j.kind = p.1) :
    (∀ n bad, h.runJob n j bad = h.finishJob n j p.2) ∧ h.badOfJob j = h.badHandle j.inp j.blk.ioff j.blk.ilen ∧
      h.saveBroken j = false := by
  have noCipher (hc : j.kind ≠ .encx ∧ j.kind ≠ .decx) : h.saveBroken j = false := by
    unfold Head.saveBroken
    split
    · simp [hc]
    · rfl
  simp only [Head.computedEnds, List.mem_cons, List.not_mem_nil, or_false] at hp
  obtain rfl | rfl | rfl | rfl | rfl := hp <;>
    exact ⟨fun n bad => by simp only [Head.runJob, hk], by simp only [Head.badOfJob, hk], noCipher (by simp [hk])⟩

theorem Head.jobEnd_of_idle {h : Head} {n : Nat} {j : Job} (bad : Nat) (hj : Tbl.find h.jobs n = some j)
    (hi : j.ended ≠ none ∨ (j.kind.onAccel = true ∧ j.accel = none)) : h.jobEnd n bad = h := by
  have idle : j.ended.isSome = true ∨ (j.kind.onAccel = true ∧ j.accel.isNone = true) := by
    simpa only [Option.isSome_iff_ne_none, Option.isNone_iff_eq_none] using hi
  simp only [Head.jobEnd, hj, if_pos idle]

section
variable {h : Head} {n : Nat} {j : Job} {p : JobKind × JobEnd} (hj : Tbl.find h.jobs n = some j) (he : j.ended = none)
  (ha : j.accel ≠ none) (ht : j.touched = []) (hp : p ∈ h.computedEnds j) (hk : j.kind = p.1)
include hj he ha ht hp hk

/-- A job whose input cannot be read ends with DATA_CORRUPT. -/
theorem Head.jobEnd_of_bad (bad : Nat) (hb : h.badHandle j.inp j.blk.ioff j.blk.ilen ≠ []) :
    (h.jobEnd n bad).rd MEM_ERR_UE = 1 ∧
      (∀ b, j.outp = .buffer b → SameMemoryBut h (h.jobEnd n bad) (h.bufAddr b + j.blk.ooff) (j.blk.cap j.outp)) ∧
      (Tbl.find (h.jobEnd n bad).jobs n).map (·.ended) = some (some (rsDataCorrupt, 0)) := by
  obtain ⟨-, lines, whole⟩ := Head.runJob_of_computed hp hk
  rw [← lines] at hb
  rw [(Head.jobEnd_of_running bad hj he ha ht whole).2 hb]
  obtain ⟨mem, places, ue⟩ := h.meetBad_spec 1 (h.badOfJob j)
  have found : Tbl.find (h.meetBad 1 (h.badOfJob j)).jobs n = some j := by rw [(h.meetBad_runs 1 _).jobs, hj]
  generalize h.meetBad 1 (h.badOfJob j) = g at mem places ue found
  obtain ⟨fields, out, j', ended, status⟩ := Head.finishJob_failed found rsDataCorrupt
  have placed := (g.finishJob n j (.fail rsDataCorrupt)).placeJobs_jobsOnly
  refine ⟨?_, fun b hb a hab => ?_, ?_⟩
  · rw [placed.rd memErrUe_not_note, Head.rd, fields]
    exact ue hb
  · have range : g.outAt j b = h.bufAddr b + j.blk.ooff := by rw [Head.outAt, Head.bufAddr_congr places]
    rw [Head.byte, placed.mem]
    exact (out b hb a (range.symm ▸ hab)).trans (by rw [Head.byte, mem]; rfl)
  · rw [Head.placeJobs_find_ended _ ended (by simp [status]), Option.map_some, status]

/-- A job whose input can be read ends with its computation. -/
theorem Head.jobEnd_of_good (bad : Nat) {b : Nat} (hb : j.outp = .buffer b) (hl : h.badHandle j.inp j.blk.ioff j.blk.ilen = [])
    (hkeep : p.2.keep = true) (ho : h.overlaps j p.2.out.length = false) :
    Tbl.find (h.jobEnd n bad).jobs n = some { j with
        ended := some (p.2.status, p.2.result)
        before := some (h.bufAddr b + j.blk.ooff, h.bytes (h.bufAddr b + j.blk.ooff) p.2.out.length) } ∧
      (h.jobEnd n bad).bytes (h.bufAddr b + j.blk.ooff) p.2.out.length = p.2.out ∧
      SameMemoryBut h (h.jobEnd n bad) (h.bufAddr b + j.blk.ooff) p.2.out.length ∧
      (p.2.status = 0 → j.blk.ooff + p.2.out.length ≤ (h.jobEnd n bad).lenOf b) := by
  obtain ⟨run, lines, whole⟩ := Head.runJob_of_computed hp hk
  rw [(Head.jobEnd_of_running bad hj he ha ht whole).1 (lines.trans hl), run n bad]
  obtain ⟨mem, found, len⟩ := Head.finishJob_kept hj hb hkeep ho
  have placed := (h.finishJob n j p.2).placeJobs_jobsOnly
  refine ⟨Head.placeJobs_find_ended _ found (by simp), ?_, fun a hab => ?_, fun h0 => ?_⟩
  · rw [Head.bytes, placed.mem, mem]
    exact Memory.readAll_writeAll p.2.out h.mem _
  · rw [Head.byte, placed.mem, mem]
    exact Memory.read_writeAll_out p.2.out h.mem _ a hab
  · rw [Head.lenOf, placed.lens]
    exact len h0

end

end Sys2Proof.Machine
end

section
/-! Pre-emption (R146). -/
namespace Sys2Proof.Machine
open Reg

/-- Forming the state to be saved draws free values at most. -/
theorem Head.saveBytes_spec (h : Head) (j : Job) (at_ : Nat) :
    ∃ b t, h.saveBytes j at_ = (b, t) ∧ t = { h with free := t.free } := by
  have drawn : ∃ b t, h.drawBytes saveSize = (b, t) ∧ t = { h with free := t.free } := by
    obtain ⟨b, t, draw, -, frame⟩ := h.drawBytes_spec saveSize
    exact ⟨b, t, draw, frame⟩
  unfold Head.saveBytes
  split
  · extract_lets data
    split
    · exact ⟨_, h, rfl, rfl⟩
    · exact drawn
  · exact drawn

/-- Where the state of a job goes: the record it already holds, or a free one. -/
def Head.saveArea (h : Head) (j : Job) : Option Nat :=
  match j.save with
  | some x => some x.1
  | none => h.saveSlot j.owner

theorem Head.preempt_of_idle {h : Head} {n : Nat} {j : Job} (hj : Tbl.find h.jobs n = some j)
    (hi : j.accel = none ∨ j.ended ≠ none ∨ j.blk.ilen ≤ 65536) : h.preempt n = h := by
  unfold Head.preempt
  simp only [hj]
  split
  · rfl
  · next c a ha =>
    refine if_pos ?_
    rw [Option.isSome_iff_ne_none]
    obtain h1 | h2 | h3 := hi
    · cases ha.symm.trans h1
    · exact .inl h2
    · exact .inr (.inl h3)

/-- A long job whose unit is STOPPING, with room for its state, is saved and waits for a unit, which it may take at once. -/
theorem Head.preempt_yields {h : Head} {n : Nat} {j : Job} {u v p : Nat} (hj : Tbl.find h.jobs n = some j)
    (ha : j.accel = some (u, v)) (he : j.ended = none) (hl : 65536 < j.blk.ilen) (hr : j.resume + 16384 < j.blk.ilen)
    (hs : h.accelState u v = uStopping) (hp : h.saveArea j = some p) :
    ∃ j' b, Tbl.find (h.preempt n).jobs n = some j' ∧ j'.save = some (p, b) ∧ (h.preempt n).bytes p b.length = b ∧
      SameMemoryBut h (h.preempt n) p b.length ∧ j'.resume = j.resume + 16384 ∧ j'.ended = none ∧ j'.blk = j.blk ∧
      j'.ticket = j.ticket := by
  obtain ⟨b, t, saved, frame⟩ := h.saveBytes_spec j (j.resume + 16384)
  have mem : t.mem = h.mem := by rw [frame]
  let waiting : Job := { j with accel := none, resume := j.resume + 16384, save := some (p, b) }
  let g : Head := { t.put p b with jobs := Tbl.put t.jobs n waiting }
  let w := g.placeAll (g.jobs.filter (fun e => e.1 ≠ n))
  have whole : h.preempt n = w.placeJob n := by
    unfold Head.preempt
    simp only [hj, ha]
    refine (if_neg ?_).trans ?_
    · simp [he, hs, Nat.not_le_of_lt hl, Nat.not_le_of_lt hr]
    · split
      · next hn => exact absurd (hp.symm.trans hn) (by simp)
      · next q hq =>
        obtain rfl : p = q := Option.some.inj (hp.symm.trans hq)
        rw [saved]
        rfl
  have placed : JobsOnly g (w.placeJob n) := (g.placeAll_jobsOnly _).trans (w.placeJob_jobsOnly n)
  have found : Tbl.find w.jobs n = some waiting := by
    refine Head.placeAll_keeps (P := fun x => Tbl.find x.jobs n = some waiting) _ (fun e he x hx => ?_) (Tbl.find_put_self _ _ _)
    have ne : e.1 ≠ n := by simpa using (List.mem_filter.mp he).2
    rw [x.placeJob_find_ne ne.symm, hx]
  have memory : (w.placeJob n).mem = Memory.writeAll h.mem p b := placed.mem.trans (by rw [← mem]; rfl)
  have bytes : (w.placeJob n).bytes p b.length = b := by rw [Head.bytes, memory]; exact Memory.readAll_writeAll b h.mem p
  have others : SameMemoryBut h (w.placeJob n) p b.length := fun a hab => by
    rw [Head.byte, memory]
    exact Memory.read_writeAll_out b h.mem p a hab
  rw [whole]
  obtain waits | ⟨x, -, -, takes⟩ := w.placeJob_find_self found
  · exact ⟨_, b, waits, rfl, bytes, others, rfl, he, rfl, rfl⟩
  · exact ⟨_, b, takes, rfl, bytes, others, rfl, he, rfl, rfl⟩

end Sys2Proof.Machine
end

section
/-! The failure of an accelerator (R147, R480, R489). -/
namespace Sys2Proof.Machine
open Reg

/-! ### Packed fields -/

theorem bitAt_setBitN (v n : Nat) : bitAt (setBitN v n) n = true := by
  unfold setBitN
  split
  · assumption
  · next hb =>
    simp only [bitAt, decide_eq_true_eq] at hb ⊢
    rw [Nat.add_div_right _ (Nat.two_pow_pos n)]
    omega

theorem bitAt_clrBitN (v n : Nat) : bitAt (clrBitN v n) n = false := by
  unfold clrBitN
  split
  · next hb =>
    have cut : (v - 2 ^ n) / 2 ^ n = v / 2 ^ n - 1 := by simpa using Nat.sub_mul_div v (2 ^ n) 1
    simp only [bitAt, decide_eq_true_eq, decide_eq_false_iff_not, cut] at hb ⊢
    omega
  · next hb => exact Bool.eq_false_iff.mpr hb

/-- A value cut to a width holds the bits below it. -/
theorem bitsAt_mod {v lo n w : Nat} (hw : lo + n ≤ w) : bitsAt (v % 2 ^ w) lo n = bitsAt v lo n := by
  have split : 2 ^ w = 2 ^ lo * 2 ^ (w - lo) := by rw [← Nat.pow_add]; congr 1; omega
  rw [bitsAt, split, Nat.mod_mul_right_div_self, Nat.mod_mod_of_dvd _ (Nat.pow_dvd_pow 2 (by omega))]
  rfl

theorem bitAt_mod {v n w : Nat} (hw : n < w) : bitAt (v % 2 ^ w) n = bitAt v n := by
  have same : v % 2 ^ w / 2 ^ n % 2 = v / 2 ^ n % 2 := bitsAt_mod (n := 1) hw
  rw [bitAt, same]
  rfl

/-- Two bits of a value are replaced. -/
theorem bitsAt_replaced (v lo : Nat) {s : Nat} (hs : s < 4) : bitsAt (v - bitsAt v lo 2 * 2 ^ lo + s * 2 ^ lo) lo 2 = s := by
  have cut : (v - bitsAt v lo 2 * 2 ^ lo) / 2 ^ lo = v / 2 ^ lo - v / 2 ^ lo % 4 := by
    rw [Nat.mul_comm, Nat.sub_mul_div]
    rfl
  rw [bitsAt, Nat.add_mul_div_right _ _ (Nat.two_pow_pos lo), cut]
  omega

/-! ### The fields of an accelerator -/

/-- The registers of the accelerators lie apart from the fields that records change. -/
theorem accel_not_note {f : Field} (lower : 0x104000000 * 64 ≤ f.key) (upper : f.key < 0x104000200 * 64) :
    ∀ g ∈ noteFields, f.key ≠ g.key := by
  have apart : ∀ g ∈ noteFields, g.key < 0x104000000 * 64 ∨ 0x104000200 * 64 ≤ g.key := by decide
  intro g hg he
  have := apart g hg
  omega

section
variable (c : Fin 24)

theorem accEn_key : (ACC_CL_CTL_EN.nth c).key = (0x104000000 + c * 16) * 64 := by
  simp [Field.key, Field.el, ACC_CL_CTL_EN, Field.arr]

theorem accState_key : (ACC_CL_STS_STATE.nth c).key = (0x104000008 + c * 16) * 64 := by
  simp [Field.key, Field.el, ACC_CL_STS_STATE, Field.arr]

theorem accRearm_key : (ACC_CL_STS_REARM.nth c).key = (0x104000008 + c * 16) * 64 + 24 := by
  simp [Field.key, Field.el, ACC_CL_STS_REARM, Field.arr]

theorem accFailed_key : (ACC_CL_STS_FAILED.nth c).key = (0x104000008 + c * 16) * 64 + 36 := by
  simp [Field.key, Field.el, ACC_CL_STS_FAILED, Field.arr]

end

/-- Where an accelerator is out of service: it is marked, EN is 0, and it is not ON. -/
structure OutOfService (h : Head) (c : Fin 24) (a : Fin 12) : Prop where
  failed : bitAt (h.rd (ACC_CL_STS_FAILED.nth c)) a = true
  en : h.unitEn (.accelerator c a) = false
  state : h.unitState (.accelerator c a) ≠ uOn

/-- An accelerator out of service stays so where its fields read as before. -/
theorem OutOfService.congr {h t : Head} {c : Fin 24} {a : Fin 12} (out : OutOfService h c a)
    (ht : ∀ f : Field, 0x104000000 * 64 ≤ f.key → f.key < 0x104000200 * 64 → t.rd f = h.rd f) : OutOfService t c a := by
  have hc := c.isLt
  obtain ⟨failed, en, state⟩ := out
  refine ⟨?_, ?_, ?_⟩
  · rwa [ht _ (by rw [accFailed_key]; omega) (by rw [accFailed_key]; omega)]
  · have same : t.rd (ACC_CL_CTL_EN.nth c) = h.rd (ACC_CL_CTL_EN.nth c) :=
      ht _ (by rw [accEn_key]; omega) (by rw [accEn_key]; omega)
    exact (congrArg (bitAt · a) same).trans en
  · have same : t.rd (ACC_CL_STS_STATE.nth c) = h.rd (ACC_CL_STS_STATE.nth c) :=
      ht _ (by rw [accState_key]; omega) (by rw [accState_key]; omega)
    exact fun hs => state ((congrArg (bitsAt · (2 * a) 2) same).symm.trans hs)

theorem OutOfService.of_notes {h t : Head} {c : Fin 24} {a : Fin 12} (out : OutOfService h c a) (told : OnlyNotes h t) :
    OutOfService t c a := out.congr (fun f lower upper => told.1 f (accel_not_note lower upper))

/-! ### The unit fails (R480) -/

/-- The accelerator's four fields are apart. -/
theorem accFields_apart (c : Fin 24) :
    (ACC_CL_CTL_EN.nth c).key ≠ (ACC_CL_STS_REARM.nth c).key ∧ (ACC_CL_STS_FAILED.nth c).key ≠ (ACC_CL_CTL_EN.nth c).key ∧
      (ACC_CL_STS_FAILED.nth c).key ≠ (ACC_CL_STS_REARM.nth c).key ∧ (ACC_CL_STS_FAILED.nth c).key ≠ (ACC_CL_STS_STATE.nth c).key ∧
      (ACC_CL_CTL_EN.nth c).key ≠ (ACC_CL_STS_STATE.nth c).key := by
  rw [accEn_key, accRearm_key, accFailed_key, accState_key]
  omega

theorem Head.accFailed_wrBit (h : Head) (c : Fin 24) (a : Fin 12) :
    bitAt ((h.wrBit (ACC_CL_STS_FAILED.nth c) a true).rd (ACC_CL_STS_FAILED.nth c)) a = true := by
  rw [Head.wrBit, Head.rd_wr_self _ _ _ (show 12 ≤ 64 by decide)]
  exact (bitAt_mod a.isLt).trans (bitAt_setBitN _ _)

/-- A unit moves to a state: its field is written, with a trace frame. -/
theorem Head.moveUnit_notes (h : Head) (u : UnitId) (s : Nat) : OnlyNotes (h.wr (unitFields u).2.1
    (h.rd (unitFields u).2.1 - bitsAt (h.rd (unitFields u).2.1) (2 * unitLane u) 2 * 2 ^ (2 * unitLane u) + s * 2 ^ (2 * unitLane u)))
    (h.moveUnit u s) := Head.trace_notes _ _ _

/-- An accelerator that is marked and whose EN is 0 is out of service once it is STOPPING. -/
theorem Head.moveUnit_stopping {h : Head} {c : Fin 24} {a : Fin 12} (failed : bitAt (h.rd (ACC_CL_STS_FAILED.nth c)) a = true)
    (en : h.unitEn (.accelerator c a) = false) : OutOfService (h.moveUnit (.accelerator c a) uStopping) c a := by
  obtain ⟨-, -, -, failedState, enState⟩ := accFields_apart c
  refine OutOfService.of_notes ⟨?_, ?_, ?_⟩ (h.moveUnit_notes (.accelerator c a) uStopping)
  · exact (congrArg (bitAt · a) (Head.rd_wr_ne _ _ _ _ failedState)).trans failed
  · exact (congrArg (bitAt · a) (Head.rd_wr_ne _ _ _ _ enState)).trans en
  · have moved := bitsAt_replaced (h.rd (ACC_CL_STS_STATE.nth c)) (2 * a) (s := uStopping) (by decide)
    intro on
    refine absurd (moved.symm.trans ((bitsAt_mod (w := 24) ?_).symm.trans ?_)) (show uStopping ≠ uOn by decide)
    · have := a.isLt
      omega
    · exact (congrArg (bitsAt · (2 * a) 2) (Head.rd_wr_self _ _ _ (show 24 ≤ 64 by decide))).symm.trans on

/-- An accelerator that is marked and declared failed is out of service. -/
theorem Head.unitFailed_outOfService {h : Head} {c : Fin 24} {a : Fin 12}
    (failed : bitAt (h.rd (ACC_CL_STS_FAILED.nth c)) a = true) : OutOfService (h.unitFailed (.accelerator c a)).1 c a := by
  obtain ⟨enRearm, failedEn, failedRearm, -⟩ := accFields_apart c
  unfold Head.unitFailed
  extract_lets g
  have marked : bitAt (g.rd (ACC_CL_STS_FAILED.nth c)) a = true := by
    rw [show g.rd (ACC_CL_STS_FAILED.nth c) = h.rd (ACC_CL_STS_FAILED.nth c) from
      (Head.rd_wr_ne _ _ _ _ failedRearm).trans (Head.rd_wr_ne _ _ _ _ failedEn)]
    exact failed
  have en : g.unitEn (.accelerator c a) = false := by
    refine (congrArg (bitAt · a) ((Head.rd_wr_ne _ _ _ _ enRearm).trans (Head.rd_wr_self h _ _ (show 12 ≤ 64 by decide)))).trans ?_
    exact (bitAt_mod a.isLt).trans (bitAt_clrBitN _ _)
  split
  · exact Head.moveUnit_stopping marked en
  · exact Head.moveUnit_stopping marked en
  · next _ notOn => exact ⟨marked, en, notOn⟩

/-- What a failure leaves alone beside the unit's fields. -/
structure StoresKept (h t : Head) : Prop where
  mem : t.mem = h.mem
  retiredLog : t.retiredLog = h.retiredLog

theorem StoresKept.of_notes {h t : Head} (a : OnlyNotes h t) : StoresKept h t := ⟨a.mem, by rw [a.2]⟩

theorem StoresKept.trans {h t u : Head} (a : StoresKept h t) (b : StoresKept t u) : StoresKept h u :=
  ⟨b.mem.trans a.mem, b.retiredLog.trans a.retiredLog⟩

theorem Head.moveUnit_stores (h : Head) (u : UnitId) (s : Nat) : StoresKept h (h.moveUnit u s) :=
  StoresKept.trans (t := h.wr (unitFields u).2.1 _) ⟨rfl, rfl⟩ (.of_notes (h.moveUnit_notes u s))

theorem Head.unitFailed_stores (h : Head) (u : UnitId) : StoresKept h (h.unitFailed u).1 := by
  unfold Head.unitFailed
  extract_lets g
  have cleared : StoresKept h g := ⟨rfl, rfl⟩
  split
  · exact cleared.trans (g.moveUnit_stores u uStopping)
  · exact cleared.trans (g.moveUnit_stores u uStopping)
  · exact cleared

/-! ### The retirement log (R489) -/

/-- Programming a flash device changes flash and draws free values alone. -/
theorem Head.flashProgram_frame (h : Head) (dev a : Nat) (l : List Byte) :
    h.flashProgram dev a l = { h with free := (h.flashProgram dev a l).free, plt := (h.flashProgram dev a l).plt } := by
  have set (g : Head) (t : Tbl Byte) : g.setFlash dev t = { g with plt := (g.setFlash dev t).plt } := by
    unfold Head.setFlash
    split <;> rfl
  induction l generalizing h a with
  | nil => rfl
  | cons b l ih =>
    simp only [Head.flashProgram]
    split
    · rw [ih, set]
    · rw [ih, set]
      rfl

theorem Head.writeLog_frame (h : Head) (r : Retirement) :
    h.writeLog r = { h with free := (h.writeLog r).free, plt := (h.writeLog r).plt } := by
  have one (g : Head) (dev a : Nat) (l : List Byte) :
      ∃ free plt, (if g.flashOk dev then g.flashProgram dev a l else g) = { g with free := free, plt := plt } := by
    split
    · exact ⟨_, _, g.flashProgram_frame dev a l⟩
    · exact ⟨g.free, g.plt, rfl⟩
  unfold Head.writeLog
  split
  · rfl
  · next g _ blen _ =>
    extract_lets a
    obtain ⟨free, plt, e⟩ := one h 0 a r.bytes
    obtain ⟨free', plt', e'⟩ := one { h with free := free, plt := plt } 1 a r.bytes
    simp only [List.foldl_cons, List.foldl_nil, e, e']

/-- A retirement is the log's last; beside it flash, free values and records change alone. -/
theorem Head.logRetired_spec (h : Head) (r : Retirement) :
    ∃ free plt, OnlyNotes { h with retiredLog := h.retiredLog ++ [r], free := free, plt := plt } (h.logRetired r) := by
  unfold Head.logRetired
  extract_lets full n w g
  have appended : g = { h with retiredLog := h.retiredLog ++ [r], free := g.free, plt := g.plt } := by
    have logged : w = { h with free := w.free, plt := w.plt } := by
      unfold w
      split
      · rfl
      · exact h.writeLog_frame r
    unfold g
    rw [logged]
  split
  · refine ⟨g.free, { g.plt with unlogged := g.plt.unlogged ++ [n] }, ?_⟩
    have told := Head.post_notes { g with plt := { g.plt with unlogged := g.plt.unlogged ++ [n] } } 0 0x000B (sev := 2) (by decide)
      g.plt.logSeq r.kind 0 0
    have same : ({ g with plt := { g.plt with unlogged := g.plt.unlogged ++ [n] } } : Head) =
        { h with retiredLog := h.retiredLog ++ [r], free := g.free, plt := { g.plt with unlogged := g.plt.unlogged ++ [n] } } := by
      rw [appended]
    exact same ▸ told
  · exact ⟨g.free, g.plt, appended ▸ .refl g⟩

/-! ### The jobs of a failed unit (R147) -/

/-- No job that has not ended holds the unit. -/
def Vacated (h : Head) (c : Fin 24) (a : Fin 12) : Prop :=
  ∀ m j, Tbl.find h.jobs m = some j → j.accel = some (c.val, a.val) → j.ended ≠ none

theorem Tbl.find_map {α : Type} (f : α → α) (t : Tbl α) (k : Nat) :
    Tbl.find (t.map (fun e => (e.1, f e.2)) : List (Nat × α)) k = (Tbl.find t k).map f := by
  induction t with
  | nil => rfl
  | cons e t ih =>
    simp only [List.map_cons, Tbl.find]
    split
    · rfl
    · exact ih

/-- A job as the failure of its unit leaves it: where it ran there, it runs again from its start. -/
def Job.leaves (j : Job) (u : Nat × Nat) : Job :=
  if j.accel = some u ∧ j.ended.isNone then { j with accel := none, resume := 0, save := none, rerun := some u } else j

theorem Job.ended_of_leaves {j : Job} {u : Nat × Nat} (ha : (j.leaves u).accel = some u) : (j.leaves u).ended ≠ none := by
  unfold Job.leaves at *
  split at ha
  · cases ha
  · next hn =>
    rw [if_neg hn]
    exact fun he => hn ⟨ha, by rw [he]; rfl⟩

/-- An accelerator out of service that no job holds is given none. -/
theorem Head.placeJob_vacated {h : Head} {c : Fin 24} {a : Fin 12} (out : OutOfService h c a) (empty : Vacated h c a) (n : Nat) :
    OutOfService (h.placeJob n) c a ∧ Vacated (h.placeJob n) c a := by
  refine ⟨out.congr (fun f lower upper => (h.placeJob_jobsOnly n).rd (accel_not_note lower upper)), fun m j hj ha => ?_⟩
  by_cases hm : m = n
  · subst hm
    cases hf : Tbl.find h.jobs m with
    | none =>
      have same : h.placeJob m = h := by simp only [Head.placeJob, hf]
      rw [same, hf] at hj
      cases hj
    | some i =>
      obtain same | ⟨u, on, -, taken⟩ := h.placeJob_find_self hf
      · obtain rfl : i = j := Option.some.inj (same.symm.trans hj)
        exact empty m i hf ha
      · obtain rfl := Option.some.inj (taken.symm.trans hj)
        obtain rfl : u = (c.val, a.val) := Option.some.inj ha
        exact absurd on out.state
  · rw [h.placeJob_find_ne hm] at hj
    exact empty m j hj ha

/-- ACC_FAILED takes the unit out of service. -/
theorem Head.accFailed_spec (h : Head) (c : Fin 24) (a : Fin 12) :
    OutOfService (h.accFailed c a) c a ∧ Vacated (h.accFailed c a) c a ∧
      (h.accFailed c a).retiredLog = h.retiredLog ++ [.accelerator c a] ∧ SameMemory h (h.accFailed c a) := by
  unfold Head.accFailed
  extract_lets marked failed free left logged
  have out : OutOfService failed c a := Head.unitFailed_outOfService (h.accFailed_wrBit c a)
  have stores : StoresKept marked failed := Head.unitFailed_stores _ _
  have empty : Vacated left c a := fun m j hj ha => by
    have leave : Tbl.find left.jobs m = (Tbl.find failed.jobs m).map free := Tbl.find_map free failed.jobs m
    rw [leave, Option.map_eq_some_iff] at hj
    obtain ⟨i, -, rfl⟩ := hj
    exact Job.ended_of_leaves (j := i) ha
  obtain ⟨fv, plt, retired⟩ := left.logRetired_spec (.accelerator c a)
  have told : OnlyNotes logged (logged.post 4 0x0401 2 c.val a.val (logged.unitsLeft c.val a.val) 0) :=
    Head.post_notes _ _ _ (by decide) _ _ _ _
  have notes := retired.trans told
  generalize logged.post 4 0x0401 2 c.val a.val (logged.unitsLeft c.val a.val) 0 = g at notes
  have placed : OutOfService g.placeJobs c a ∧ Vacated g.placeJobs c a := by
    refine Head.placeAll_keeps (P := fun x => OutOfService x c a ∧ Vacated x c a) g.jobs
      (fun e _ x hx => Head.placeJob_vacated hx.1 hx.2 e.1) ⟨?_, ?_⟩
    · exact out.congr (fun f lower upper => notes.1 f (accel_not_note lower upper))
    · unfold Vacated
      rw [notes.jobs]
      exact empty
  have moved := g.placeJobs_jobsOnly
  refine ⟨placed.1, placed.2, ?_, fun b => ?_⟩
  · rw [moved.retiredLog, (StoresKept.of_notes notes).retiredLog]
    exact congrArg (· ++ _) stores.retiredLog
  · rw [Head.byte, moved.mem, notes.mem]
    exact congrArg (Memory.read · b) stores.mem

/-- Settles O22: a job's end is its computation written to its output range, and placing the jobs that wait for the unit changes their
units and records alone. -/
theorem jobsEndOnTheirUnits : Obligations.JobsEndOnTheirUnits := by
  unfold Obligations.JobsEndOnTheirUnits
  intro s n j bad c a h data cap ends live
  refine ⟨fun hj => ⟨fun hi => ?_, fun p hp hk he ha ht hb => ?_, fun b p hp hk he ha ht hb hl hkeep ho => ?_,
    fun u v p ha he hl hr hs hp => ?_, fun hi => ?_⟩, ?_⟩
  · exact Completes.of_live live (show execJobEnd n bad s = _ from rfl) (Head.jobEnd_of_idle bad.toNat hj hi)
  · exact Completes.of_live live (show execJobEnd n bad s = _ from rfl) (Head.jobEnd_of_bad hj he ha ht hp hk bad.toNat hb)
  · exact Completes.of_live live (show execJobEnd n bad s = _ from rfl)
      (Head.jobEnd_of_good hj he ha ht hp hk bad.toNat hb hl hkeep ho)
  · exact Completes.of_live live (show execJobPreempt n s = _ from rfl) (Head.preempt_yields hj ha he hl hr hs hp)
  · exact Completes.of_live live (show execJobPreempt n s = _ from rfl) (Head.preempt_of_idle hj hi)
  · obtain ⟨⟨failed, en, state⟩, empty, retired, mem⟩ := h.accFailed_spec c a
    exact Completes.of_live live (show execAccFailed c a s = _ from rfl) ⟨failed, en, state, empty, retired, mem⟩

end Sys2Proof.Machine
end

section
/-! BAND_GIVE to a head whose HEAD_ID reads more than its one bit (R217, R218). -/
namespace Sys2Proof.Machine
open Reg

/-- The owner that a band table entry names is one bit (R218). -/
theorem Head.band_owner_lt (h : Head) (b : Nat) : (h.band b).owner < 2 := Nat.mod_lt _ (by decide)

/-- The head after reset with a pool of ten modules and one band of 8 + 2 strips, connection 0 READY, and 2 in HEAD_ID. -/
def headIdTwo : Head :=
  let h := State.reset.head
  let h := (((h.wr FB_GEOM0_MODS 10).wr FB_GEOM1_ROWS 1).wr PAR_GEOM_CURK 8).wr PAR_GEOM_CURM 2
  { h with fields := Tbl.put h.fields PLT_STRAP_HEAD_ID.key 2,
           sd := { h.sd with conns := [(0, { Conn.reset with state := 1 })] } }

theorem headIdTwo_headId : headIdTwo.headId = 2 := by decide +kernel

theorem headIdTwo_bandCount : headIdTwo.bandCount = 1 := by decide +kernel

/-- Refutes O43: a band table entry names its owner in one bit, so after BAND_GIVE no band's owner is a head whose HEAD_ID reads 2. The
statement takes every state and so one like `headIdTwo`, whose table of fields gives HEAD_ID more than its one bit. `Head.wr` cuts what it
writes to the field's width, so no command makes such a value; a hypothesis that HEAD_ID is below 2 would keep the state out. -/
theorem not_stripesCloseProgramAndEnd : ¬ Obligations.StripesCloseProgramAndEnd := by
  unfold Obligations.StripesCloseProgramAndEnd
  intro claim
  obtain ⟨-, -, -, give, -⟩ := claim { pending := [], head := headIdTwo } 0 0 0 0 0 0 0 0 0 [0]
  obtain ⟨t, -, owned⟩ := give (by decide +kernel) (by decide +kernel) (by decide +kernel)
  have owner : (t.band 0).owner = headIdTwo.headId := congrArg Band.owner (owned 0 (by rw [headIdTwo_bandCount]; decide))
  have one := t.band_owner_lt 0
  rw [owner, headIdTwo_headId] at one
  exact absurd one (by decide)

end Sys2Proof.Machine
end

section
/-! What has changed since the last cut (R248): placing a segment, and so a checkpoint as it is written, forgets no change. -/
namespace Sys2Proof.Machine
open Reg

/-! ### The relation -/

/-- Every change recorded for the next checkpoint is still recorded. -/
def TouchesKept (h t : Head) : Prop := h.fb.touched ⊆ t.fb.touched

theorem TouchesKept.refl (h : Head) : TouchesKept h h := List.Subset.refl _

theorem TouchesKept.trans {h t u : Head} (a : TouchesKept h t) (b : TouchesKept t u) : TouchesKept h u := List.Subset.trans a b

/-- What leaves the record of changes as it is. -/
theorem TouchesKept.of_eq {h t : Head} (e : t.fb.touched = h.fb.touched) : TouchesKept h t := by
  unfold TouchesKept
  rw [e]
  exact List.Subset.refl _

/-- What is kept after a change of something else is kept before it. -/
theorem TouchesKept.after {h g t : Head} (a : TouchesKept g t) (e : g.fb.touched = h.fb.touched) : TouchesKept h t :=
  (TouchesKept.of_eq e).trans a

theorem TouchesKept.wr (h : Head) (f : Field) (v : Nat) : TouchesKept h (h.wr f v) := .refl h

theorem TouchesKept.of_notes {h t : Head} (a : OnlyNotes h t) : TouchesKept h t := .of_eq (by rw [a.2])

theorem TouchesKept.foldl {α : Type} {f : Head → α → Head} (hf : ∀ h a, TouchesKept h (f h a)) (l : List α) (h : Head) :
    TouchesKept h (l.foldl f h) := by
  induction l generalizing h with
  | nil => exact .refl h
  | cons a l ih => exact (hf h a).trans (ih (f h a))

/-! ### Bands (R218, R220) -/

theorem Head.touch_keeps (h : Head) (table nsid key vepoch : Nat) : TouchesKept h (h.touch table nsid key vepoch) := by
  unfold Head.touch
  extract_lets t
  split
  · exact .refl h
  · exact List.subset_cons_self _ _

/-- The entry that changes is recorded. -/
theorem Head.mem_touch (h : Head) (table nsid key vepoch : Nat) :
    (table, nsid, key, vepoch) ∈ (h.touch table nsid key vepoch).fb.touched := by
  unfold Head.touch
  extract_lets t
  split
  · next known => exact List.contains_iff_mem.mp known
  · exact List.mem_cons_self

theorem Head.showHoles_keeps (h : Head) : TouchesKept h h.showHoles := by
  unfold Head.showHoles
  extract_lets g n
  have shown : TouchesKept h g := .foldl (fun _ _ => .wr _ _ _) _ _
  exact (shown.trans (.wr _ _ _)).trans (.wr _ _ _)

theorem Head.store_keeps (h : Head) (a n v : Nat) : TouchesKept h (h.store a n v) := .of_eq rfl

/-- A band that is written is recorded among the changes, and no other change is forgotten. -/
theorem Head.putBand_touched (h : Head) (b : Nat) (x : Band) :
    TouchesKept h (h.putBand b x) ∧ (6, 0, b, 0) ∈ (h.putBand b x).fb.touched := by
  unfold Head.putBand
  extract_lets g
  have kept : TouchesKept h g := (h.store_keeps _ _ _).trans (Head.touch_keeps _ _ _ _ _)
  have told : (6, 0, b, 0) ∈ g.fb.touched := Head.mem_touch _ _ _ _ _
  split
  · exact ⟨kept.trans g.showHoles_keeps, g.showHoles_keeps told⟩
  · exact ⟨kept, told⟩

theorem Head.noteBand_keeps (h : Head) (b : Nat) (x : Band) (pos pblk : Nat) : TouchesKept h (h.noteBand b x pos pblk) :=
  (h.putBand_touched b x).1.trans (.of_notes (Head.sendTwin_notes _ _))

theorem Head.setBand_keeps (h : Head) (b : Nat) (x : Band) : TouchesKept h (h.setBand b x) := by
  unfold Head.setBand
  split
  · exact .refl h
  · exact h.noteBand_keeps b x _ _

theorem Head.closeBand_keeps (h : Head) (b : Nat) : TouchesKept h (h.closeBand b) := by
  unfold Head.closeBand
  extract_lets x g
  have unopened : TouchesKept h g := .of_eq rfl
  split
  · exact unopened.trans (Head.setBand_keeps _ _ _)
  · exact unopened

theorem Head.showBuf_keeps (h : Head) : TouchesKept h h.showBuf := by
  unfold Head.showBuf
  split
  · exact .refl h
  · exact .wr _ _ _

theorem Head.openBand_keeps {h t : Head} {cls kind b : Nat} {host : Bool} (ho : h.openBand cls kind host = some (b, t)) :
    TouchesKept h t := by
  unfold Head.openBand at ho
  extract_lets l at ho
  split at ho
  · cases ho
  · split at ho
    · cases ho
    · next a _ =>
      extract_lets x g at ho
      obtain ⟨-, rfl⟩ : a = b ∧ _ = t := by simpa using ho
      have band : TouchesKept h g := Head.setBand_keeps _ _ _
      exact band.trans (((Head.showBuf_keeps _).trans (.wr _ _ _)).after rfl)

/-! ### Stripes (R220, R221) -/

theorem Head.showFree_keeps (h : Head) : TouchesKept h h.showFree := by
  unfold Head.showFree
  extract_lets g u
  split
  · exact .of_eq rfl
  · exact .of_eq rfl

theorem Head.closeStripe_keeps (h : Head) (s : Nat) : TouchesKept h (h.closeStripe s) := by
  unfold Head.closeStripe
  split
  · exact .refl h
  · next st _ =>
    split
    · exact .refl h
    · extract_lets b x g w u
      have passed : TouchesKept h u := (Head.setBand_keeps _ _ _).after rfl
      refine TouchesKept.trans (passed.trans ?_) (Head.showFree_keeps _)
      split
      · exact Head.closeBand_keeps _ _
      · exact .refl u

theorem Head.closeAll_keeps (h : Head) (locs : List Nat) : TouchesKept h (h.closeAll locs) := .foldl Head.closeStripe_keeps _ _

theorem Head.roomFor_keeps {cls kind u : Nat} {host : Bool} {charge : Option Nat} (fuel : Nat) {h t : Head} {s : Nat} {st : StripeSt}
    (hr : h.roomFor cls kind u host charge fuel = some (s, st, t)) : TouchesKept h t := by
  induction fuel generalizing h with
  | zero => cases hr
  | succ n ih =>
    simp only [Head.roomFor] at hr
    split at hr
    · cases hr
    · next b g hf =>
      have opened : TouchesKept h g := by
        split at hf
        · obtain ⟨-, rfl⟩ : _ ∧ h = g := by simpa using hf
          exact .refl h
        · exact Head.openBand_keeps hf
      split at hr
      · obtain ⟨-, -, rfl⟩ : _ ∧ _ ∧ g = t := by simpa using hr
        exact opened
      · exact opened.trans (((Head.closeStripe_keeps _ _).trans (ih hr)).after rfl)

/-! ### Segments (R248, R299) -/

theorem Head.fgEnter_keeps (h : Head) : TouchesKept h h.fgEnter := by
  unfold Head.fgEnter
  extract_lets f u fe g
  split
  · exact (TouchesKept.of_notes (Head.post_notes _ _ _ (by decide) _ _ _ _)).after rfl
  · exact .refl h

/-- A segment that finds room forgets no change that its search for room left. -/
theorem Head.placeSegment_of_room {h g : Head} {cut s : Nat} {st : StripeSt} {bytes : List Byte}
    (hr : h.roomFor 15 1 (ceilDiv bytes.length 64) false (some bCkpt) 130 = some (s, st, g)) :
    ∃ loc t, h.placeSegment cut bytes = some (loc, t) ∧ TouchesKept g t := by
  simp only [Head.placeSegment, hr]
  refine ⟨_, _, rfl, ?_⟩
  refine TouchesKept.trans ?_ ((Head.showFree_keeps _).trans (Head.fgEnter_keeps _))
  split
  · exact (Head.putBand_touched _ _ _).1.after rfl
  · exact .of_eq rfl

theorem Head.placeSegment_keeps {h t : Head} {cut loc : Nat} {bytes : List Byte} (hp : h.placeSegment cut bytes = some (loc, t)) :
    TouchesKept h t := by
  cases hr : h.roomFor 15 1 (ceilDiv bytes.length 64) false (some bCkpt) 130 with
  | none =>
    simp only [Head.placeSegment, hr] at hp
    cases hp
  | some r =>
    obtain ⟨s, st, g⟩ := r
    obtain ⟨l, u, hu, kept⟩ := Head.placeSegment_of_room (cut := cut) hr
    obtain ⟨-, rfl⟩ : l = loc ∧ u = t := by simpa using hu.symm.trans hp
    exact (Head.roomFor_keeps _ hr).trans kept

theorem Head.writeSegment_keeps {h t : Head} {k : KeyRec} {kind table cut nsid page vepoch loc : Nat} {plain : List Byte}
    (hw : h.writeSegment k kind table cut nsid page vepoch plain = some (loc, t)) : TouchesKept h t :=
  TouchesKept.after (Head.placeSegment_keeps hw) rfl

theorem Head.writeSegments_keeps (k : KeyRec) (cut : Nat) (l : List SegJob) (h : Head) :
    TouchesKept h (h.writeSegments k cut l).2.2 := by
  induction l generalizing h with
  | nil => exact .refl h
  | cons j l ih =>
    simp only [Head.writeSegments]
    split
    · exact .refl h
    · next hw => exact (Head.writeSegment_keeps hw).trans (ih _)

/-- What the first segment of several leaves recorded stays recorded as the others are written. -/
theorem Head.writeSegments_of_first {h g : Head} {k : KeyRec} {cut loc : Nat} {j : SegJob} {l : List SegJob}
    (hw : h.writeSegment k j.kind j.table cut j.nsid j.page j.vepoch j.plain = some (loc, g)) :
    TouchesKept g (h.writeSegments k cut (j :: l)).2.2 := by
  simp only [Head.writeSegments, hw]
  exact g.writeSegments_keeps k cut l

/-! ### Checkpoints (R248) -/

theorem Head.ckptPlace_of_todo {h : Head} {k : KeyRec} {c : CkptSt} (hc : h.fb.ckpt = some c) :
    TouchesKept (h.writeSegments k c.cut c.todo).2.2 (h.ckptPlace k) := by
  simp only [Head.ckptPlace, hc]
  split
  · exact (Head.closeAll_keeps _ _).after rfl
  · exact .of_eq rfl

theorem Head.ckptAdvance_of_place {h : Head} {k : KeyRec} {c : CkptSt} (hc : h.fb.ckpt = some c) (hk : h.roleKey 4 = some k)
    (hr : c.root = none) (ht : c.todo ≠ []) : TouchesKept (h.ckptPlace k) h.ckptAdvance := by
  simp only [Head.ckptAdvance, hc, hk, hr, ht, Option.isSome_none, Bool.false_eq_true, if_false]
  split
  · exact .refl _
  · split
    · exact .refl _
    · split
      · exact .refl _
      · next d _ _ loc g hw =>
        exact (Head.writeSegment_keeps hw).trans ((Head.closeStripe_keeps _ _).after rfl)

/-- A checkpoint that goes on with its first segment keeps what the search for that segment's room left recorded. -/
theorem Head.ckptAdvance_of_room {h g : Head} {k : KeyRec} {c : CkptSt} {j : SegJob} {l : List SegJob} {s : Nat} {st : StripeSt}
    (hc : h.fb.ckpt = some c) (hk : h.roleKey 4 = some k) (hr : c.root = none) (ht : c.todo = j :: l)
    (room : (h.makeSegment k j.kind j.table c.cut j.nsid j.page j.vepoch j.plain).2.roomFor 15 1
      (ceilDiv (h.makeSegment k j.kind j.table c.cut j.nsid j.page j.vepoch j.plain).1.length 64) false (some bCkpt) 130
        = some (s, st, g)) : TouchesKept g h.ckptAdvance := by
  obtain ⟨loc, t, placed, kept⟩ := Head.placeSegment_of_room (cut := c.cut) room
  have first : TouchesKept t (h.writeSegments k c.cut c.todo).2.2 := by
    rw [ht]
    exact Head.writeSegments_of_first placed
  exact (kept.trans first).trans ((Head.ckptPlace_of_todo hc).trans (Head.ckptAdvance_of_place hc hk hr (by simp [ht])))

theorem Memory.length_readAll (m : List Host.Cell) (a n : Nat) : (Memory.readAll m a n).length = n := by
  induction n generalizing a with
  | zero => rfl
  | succ n ih => rw [Memory.readAll, List.length_cons, ih]

/-- A segment is its header of 64 bytes, its plaintext's length and a tag of 16 bytes. -/
theorem Head.length_makeSegment (h : Head) (k : KeyRec) (kind table cut nsid page vepoch : Nat) (plain : List Byte) :
    (h.makeSegment k kind table cut nsid page vepoch plain).1.length = plain.length + 80 := by
  simp [Head.makeSegment, segmentHeader, segmentHead, padTo]
  omega

end Sys2Proof.Machine
end

section
/-! CHECKPOINT_BEGIN with room for a segment (R248, R291): the band that the segment opens is recorded as changed. -/
namespace Sys2Proof.Machine
open Reg

/-! ### The state -/

/-- A metadata key. -/
def metaKey : KeyRec := { key := [], salt := [], kind := 4, use := 0, keyid := 0 }

/-- A keeper in epoch 1,024 that has applied every epoch below, with its metadata key and no checkpoint yet: a pool of ten modules, and
one band of 8 + 2 strips, which is FREE. -/
def keeperAtCut : Head :=
  let h := State.reset.head
  let h := ((h.wr FB_GEOM0_MODS 10).wr FB_GEOM0_SPBF 100).wr FB_GEOM1_ROWS 1
  let h := ((h.wr FB_BTBASE_BASE 0x4000).wr FB_RMBASE_BASE 0x4001).wr PAR_HTBASE_BASE 0x4002
  let h := ((h.wr PAR_GEOM_CURK 8).wr PAR_GEOM_CURM 2).wr SD_PAIR_STS_ROLE rKeeper
  let h := ((h.wr CMT_LAST_EPOCH 1023).wr CMT_APPLIED_EPOCH 1023).wr MER_EPOCH_EPOCH 1024
  { h with umb := { h.umb with slots := [(4, .loaded metaKey)] } }

theorem keeperAtCut_live : keeperAtCut.plt.inReset = false := rfl

theorem keeperAtCut_due : keeperAtCut.ckptDue = some 1024 := by decide +kernel

theorem keeperAtCut_key : keeperAtCut.roleKey 4 = some metaKey := by decide +kernel

/-! ### The checkpoint opened -/

/-- The one segment to write: the page of the band table. -/
def bandPage : SegJob :=
  { kind := 2, table := 6, nsid := 0, page := 0, vepoch := 0, plain := keeperAtCut.bytes (keeperAtCut.bandAddr 0) 4096 }

/-- Coalesce holds no tables, so the sweep covers a page each of the band, remap and hole tables. -/
theorem keeperAtCut_tables : keeperAtCut.sweepTables =
    [(1, keeperAtCut.recAddr 0, 0), (2, keeperAtCut.ownAddr 0, 0), (3, keeperAtCut.idxAddr 0 0, 0),
     (6, keeperAtCut.bandAddr 0, 1), (7, keeperAtCut.remapAddr 0 0, 1), (11, keeperAtCut.holeAddr 0, 1)] := by
  decide +kernel

theorem keeperAtCut_share : keeperAtCut.sweepShare = ([.inl bandPage], 1) := by
  have share : ceilDiv 3 (2 ^ keeperAtCut.rd FB_CKCTL_SWEEPLOG) = 1 := by decide +kernel
  have versions : keeperAtCut.allVersions = [] := rfl
  have start : keeperAtCut.fb.sweep = 0 := rfl
  simp [Head.sweepShare, keeperAtCut_tables, share, versions, start, Head.sweepPage, bandPage]

/-- The checkpoint of cut 1,024 as it is opened. -/
def firstCheckpoint : CkptSt :=
  { cut := 1024, plain := keeperAtCut.rootPlain, stripes := [], segs := [], root := none, late := false, todo := [bandPage],
    pages := [] }

/-- The keeper with its checkpoint opened and nothing of it placed. -/
def checkpointOpened : Head :=
  { keeperAtCut with fb := { keeperAtCut.fb with ckpt := some firstCheckpoint, sweep := 1, touched := [] } }

theorem checkpointOpened_key : checkpointOpened.roleKey 4 = some metaKey := by decide +kernel

theorem keeperAtCut_begins : keeperAtCut.ckptBegin = checkpointOpened.ckptAdvance := by
  have unchanged : keeperAtCut.fb.touched = [] := rfl
  have intact : keeperAtCut.fb.lost = [] := rfl
  have clean : keeperAtCut.toClean = [] := by decide +kernel
  have early : keeperAtCut.is FB_STS_CKLATE = false := by decide +kernel
  simp [Head.ckptBegin, keeperAtCut_due, keeperAtCut_key, keeperAtCut_share, unchanged, intact, clean, early, Head.lostRecords, gather,
    checkpointOpened, firstCheckpoint]

/-! ### Its first segment -/

/-- The segment takes 66 units, for which band 0 is opened. -/
theorem checkpointOpened_room : ∃ s st g,
    (checkpointOpened.makeSegment metaKey 2 6 1024 0 0 0 bandPage.plain).2.roomFor 15 1
      (ceilDiv (checkpointOpened.makeSegment metaKey 2 6 1024 0 0 0 bandPage.plain).1.length 64) false (some bCkpt) 130
        = some (s, st, g) ∧ (6, 0, 0, 0) ∈ g.fb.touched := by
  have page : bandPage.plain.length = 4096 := Memory.length_readAll _ _ _
  have opens : ((checkpointOpened.makeSegment metaKey 2 6 1024 0 0 0 bandPage.plain).2.roomFor 15 1 (ceilDiv 4176 64) false
      (some bCkpt) 130).any (fun r => r.2.2.fb.touched.contains (6, 0, 0, 0)) = true := by decide +kernel
  obtain ⟨⟨s, st, g⟩, room, told⟩ := (Option.any_eq_true _ _).mp opens
  rw [Head.length_makeSegment, page]
  exact ⟨s, st, g, room, List.contains_iff_mem.mp told⟩

/-- CHECKPOINT_BEGIN leaves the change of band 0 recorded. -/
theorem checkpointBegin_records_band :
    Completes .checkpointBegin { pending := [], head := keeperAtCut } (fun t => (6, 0, 0, 0) ∈ t.fb.touched) := by
  obtain ⟨s, st, g, room, told⟩ := checkpointOpened_room
  have kept : TouchesKept g checkpointOpened.ckptAdvance :=
    Head.ckptAdvance_of_room (k := metaKey) (c := firstCheckpoint) (j := bandPage) (l := []) rfl checkpointOpened_key rfl rfl room
  refine Completes.of_live (f := Head.ckptBegin) keeperAtCut_live rfl ?_
  rw [keeperAtCut_begins]
  exact kept told

/-- Refutes O44: CHECKPOINT_BEGIN places segments in the step that opens the checkpoint, as far as there is room (R248), and a segment for
which a band is opened changes that band's entry, which the next delta must hold. So a change is recorded after the step: in
`keeperAtCut`, where the cut 1,024 is due, band 0 is opened for the first segment. -/
theorem not_bandsAreCollectedErasedPatrolledAndCheckpointed :
    ¬ Obligations.BandsAreCollectedErasedPatrolledAndCheckpointed := by
  unfold Obligations.BandsAreCollectedErasedPatrolledAndCheckpointed
  intro claim
  obtain ⟨-, -, -, -, -, -, -, -, -, begins, -⟩ :=
    claim { pending := [], head := keeperAtCut } .collect 0 metaKey firstCheckpoint 0 1024
      { kind := 3, table := 0, cut := 0, nsid := 0, page := 0, vepoch := 0, head := 0, plain := [] } []
      { epoch := 0, ends := 0, behind := false, stripe := 0, left := [] } rfl
  obtain ⟨t, told, forgotten, -⟩ := checkpointBegin_records_band.both (begins keeperAtCut_due keeperAtCut_key)
  rw [forgotten] at told
  exact absurd told (by simp)

end Sys2Proof.Machine
end
